-- ==== Sys2Proof/Word.lean ====
section
/-! DEFINITION. The machine words of the K880 and their plainest arithmetic (R12: little-endian, bit 0 least significant). -/

namespace Sys2Proof

/-- One byte. -/
abbrev Byte := BitVec 8
/-- A 32-bit register or thread register. -/
abbrev Word := BitVec 32
/-- A 64-bit counter, address or double register. -/
abbrev Dword := BitVec 64

end Sys2Proof
end

