-- ==== Sys2Proof/Syntax.lean ====
section
/-! DEFINITION. The commands the K880 takes (one constructor per row of the table of operations and events) and the
types of their operands. Unit numbers are the physical numbers of R11 and R21. -/

namespace Sys2Proof

/-- The kinds of unit that the floor plan, the fuse map and the tests name (R21, R31, R520). -/
inductive UnitKind where
  | stack | tile | slice | welt | hbmStack | hbmChannel | lacing | port
  /-- A check-value unit 36 to 43 of I/O die 0 (R399). -/
  | cvu
  /-- An HBM controller, numbered as its HBM stack (R23). -/
  | hbmController
deriving DecidableEq, Repr

/-- A unit under its global number (R21). -/
structure UnitId where
  kind : UnitKind
  num  : Nat
deriving DecidableEq, Repr

/-- A wire of one direction of a welt channel (R224, R228): a data or control position, or a spare. -/
inductive Wire where
  | position (p : Fin 4144)
  | spare (n : Fin 128)
deriving DecidableEq, Repr

/-- Which pass of a test found something: its scan and sweep (steps 4 and 5 of R233), its verify scan (step 7), or the scan of
the repeated steps. -/
inductive ScanPass where
  | scan | verify | again
deriving DecidableEq, Repr

/-- What a test scan and margin sweep found of one wire (R230): bit errors, and the horizontal (1/64 UI) and vertical
(4 mV) margins. -/
structure WireScan where
  ch     : Fin 64
  down   : Bool
  wire   : Wire
  errors : Bool
  horiz  : BitVec 8
  vert   : BitVec 8
  pass   : ScanPass
deriving DecidableEq, Repr

/-- The same, for a scan of several stacks. -/
structure StackScan where
  stack : Fin 8
  scan  : WireScan
deriving DecidableEq, Repr

/-- How a lacing link came out of training (R19, R33). -/
inductive LinkTrain where
  | full | narrow | failed
deriving DecidableEq, Repr

/-- The training result of one lacing link. -/
structure LinkResult where
  link  : Fin 14
  found : LinkTrain
deriving DecidableEq, Repr

/-- What a training attempt of a Trerik port meets at the far end (R358 to R360, R367, R499). -/
structure FarEnd where
  /-- Lanes usable at this end and at the far end (FEC lock in both directions, R359). -/
  nearLanes : BitVec 8
  farLanes  : BitVec 8
  /-- The identity the neighbour sends in step 6. -/
  serial    : Dword
  fabricId  : BitVec 16
  nport     : BitVec 5
  /-- The certificate and the signed key exchange of step 7 verify (R367, R499). -/
  authOk    : Bool
  /-- The attempt's steps kept their limits (R358). -/
  inTime    : Bool
deriving DecidableEq, Repr

/-- A codeword of a lane that carries a part of a flit (R356, R357): its symbols in error, and whether this flit is the first
that it carries a part of. -/
structure LaneCodeword where
  lane    : Fin 8
  symbols : Nat
  first   : Bool
deriving DecidableEq, Repr

/-- The measured current of a power region, mA (R445). -/
structure RegionDraw where
  region    : Fin 56
  milliamps : BitVec 16
deriving DecidableEq, Repr

/-- Why a power region trips (R437, R438). -/
inductive RegionTrip where
  | overCurrent | undervoltage
deriving DecidableEq, Repr

/-- Who issues an instruction: a thread group's slot and a lane of the set that issues (R124). -/
structure Site where
  tile : Fin 416
  tgp  : Fin 4
  slot : Fin 16
  lane : Fin 32
deriving DecidableEq, Repr

/-- The sender of a request to a home slice (R201). -/
inductive Sender where
  /-- A thread of a group of a tile. -/
  | thread (site : Site)
  /-- A tile's L1 (fills and write-backs). -/
  | l1 (tile : Fin 416)
  /-- DMA of a ring, BAR2, a gather engine, a Trerik port. -/
  | dma (ring : Fin 64)
  | bar2
  | engine (stack : Fin 8)
  | port (p : Fin 18)
  /-- Firmware of the MC, the DC and the SCs. -/
  | firmware
deriving DecidableEq, Repr

/-- The operations of the atomic unit and of the sole reductions (R142, R208), by their OP codes. -/
inductive AtomicOp where
  | aadd | amin | amax | aminu | amaxu | aand | aor | axor | afadd | awadd | acas | aexch
deriving DecidableEq, Repr

/-- One operand of a reduction: a lane, the byte offset in the line it acts on, and the operand (for ACAS the value to
compare with in [31:0] and the value to store in [63:32]). -/
structure RedOperand where
  lane    : Fin 32
  offset  : Fin 256
  operand : BitVec 128
deriving DecidableEq, Repr

/-- A RED request (R201, R206, R208): the operation, the format code of AFADD, the operands in ascending lane order,
who sent it, and the tag under which its old values return. -/
structure RedRequest where
  op       : AtomicOp
  fmt      : BitVec 4
  operands : List RedOperand
  src      : Sender
  tag      : Nat
deriving DecidableEq, Repr

/-- Bits that flip in a memory: of a stored unit at its LOCATION, in the order of its pins (R260); of a sole word of a stack,
or of a tile word, at their LOCATION (R261, R263). -/
inductive Upset where
  | hbm (unit : BitVec 34) (bits : BitVec 576)
  | sole (stack : Fin 8) (word : BitVec 30) (bits : BitVec 72)
  | tile (word : BitVec 32) (bits : BitVec 39)
deriving DecidableEq, Repr

/-- A register that software addresses: a BAR0 offset (R319), or a space and offset of the indirect window (R323). -/
inductive RegAddr where
  | bar0 (offset : BitVec 16)
  | ind (space : BitVec 4) (offset : BitVec 20)
deriving DecidableEq, Repr

/-- A Trerik message (R377): the 32 header bytes as one little-endian number, the data bytes and the check value. -/
structure Message where
  header : BitVec 256
  data   : List Byte
  check  : BitVec 64
deriving DecidableEq, Repr

/-- The commands of the K880, one constructor for each row of the table of operations and events. -/
inductive Instr where
  /-- TWELVE_V_GOOD (R402). The input monitor declares 12 V good after 10 ms at or above 11.4 V; the always-on domain starts and reads its MRAM records (step 1, AON). -/
  | twelveVGood
  /-- INPUT_SAMPLE (R428). The input monitor samples module input voltage and power every 10 µs; the sample feeds power averaging and the fast limit. -/
  | inputSample (millivolts watts : BitVec 16)
  /-- LOSS_OF_12V (R428). Input below 11.4 V sustained for 20 µs removes power and takes the device to OFF. -/
  | lossOf12V
  /-- INPUT_OVERVOLTAGE (R428). Input above 13.0 V sustained for 10 µs opens input protection; this is a device-fatal fault. -/
  | inputOvervoltage
  /-- INPUT_STABLE (R429). After an input device-fatal fault, the input has stayed within range for 10 ms and the cold bring-up may begin step 3. -/
  | inputStable
  /-- FIRMWARE_PAIR_CHOICE (R419). In BOOT the boot ROM verifies the MFW and DFW slots, extends measurements and runs the first admissible pair, or enters LIMP. -/
  | firmwarePairChoice
  /-- STACK_POWER_UP (R403). Once the previous stack has settled or failed, the next stack is powered and its SCs receive DFW by lacing broadcast. -/
  | stackPowerUp (stack : Fin 8) (settled : Bool)
  /-- START_UP_TESTS (R403). The fuse maps are read and the start-up tests run on every powered stack, including the random-bit and check-value known answers. -/
  | startUpTests (found : List UnitId)
  /-- WELT_COLD_TRAINING (R233). Cold training of one stack's welt: load maps, lock strobes, deskew, scan, sweep, steer, verify and commit the maps to MRAM. -/
  | weltColdTraining (stack : Fin 8) (scans : List WireScan)
  /-- HBM_TRAINING (R259). HBM trains, recorded soft repairs are applied, every unit is written with zeros and a valid code, and the lacing trains. -/
  | hbmTraining (failed : List (Fin 512)) (refused : List (BitVec 34)) (links : List LinkResult)
  /-- FLOOR_PLAN_BUILD (R406). Step 6 decides every unit, tests the minima of R4 and R25 and the INCOMPLETE mark, and commits a new floor-plan generation or enters HELD. -/
  | floorPlanBuild
  /-- PORT_TRAINING (R358). A licensed Trerik port runs the training steps, from signal detect through identity and link-key exchange, to enter service. -/
  | portTraining (port : Fin 18) (far : FarEnd)
  /-- TRAINING_ATTEMPT_TIMEOUT (R358). A port training attempt exceeds 100 ms and is repeated, or after three failed attempts the port becomes DOWN. -/
  | trainingAttemptTimeout (port : Fin 18)
  /-- LAST_COMPARE (R410). At CHECK every port is compared with its entry in the last; the device enters READY or HELD with CAUSE 0x03. -/
  | lastCompare
  /-- WARM_RESET (R412). MGT_RESET with KIND warm and the right key ends all jobs, drops host link and ports and starts the slip-on path. -/
  | warmReset (key : BitVec 16)
  /-- COMPUTE_RESET (R413). MGT_RESET with KIND compute ends all jobs, quiesces the welt and resets every stack's upper and cache logic. -/
  | computeReset (key : BitVec 16)
  /-- COLD_RESET (R412). MGT_RESET with KIND cold ends all jobs and restarts the cold sequence from step 2. -/
  | coldReset (key : BitVec 16)
  /-- HELD_RESET_RELEASE (R414). A warm or compute reset held back during BOOT or BRINGUP is carried out when the device enters CHECK, READY, HELD or LIMP. -/
  | heldResetRelease
  /-- SLIP_ON (R415). The slip-on path completes after a warm or compute reset: scrub, HBM leaves self refresh, welt reopens, floor plan rebuilt, and the stack returns to service or the device enters HELD. -/
  | slipOn (scans : List StackScan) (refused : List (BitVec 34)) (dfwMatches : Bool)
  /-- QUIESCE_DRAIN_END (R246). 20 µs after the quiesce starts, undelivered transfers are dropped, replay buffers cleared and the cache logic domain resets. -/
  | quiesceDrainEnd (stack : Fin 8) (wired : BitVec 16)
  /-- FLR_OR_HOT_RESET (R318). A Function Level Reset or hot reset aborts every job without completion and returns rings, status page and BAR2 binding to reset values. -/
  | flrOrHotReset
  /-- CXL_LINK_LOSS (R318). Loss of the host link aborts every job without completion and resets the rings, status page and BAR2 binding. -/
  | cxlLinkLoss
  /-- SC_HEARTBEAT_TIMEOUT (R510). A stack's SC answers no MC heartbeat for 10 ms, a stack-fatal fault of cause 0x04. -/
  | scHeartbeatTimeout (stack : Fin 8)
  /-- DC_HEARTBEAT_TIMEOUT (R510). The DC answers no MC heartbeat for 10 ms, a device-fatal fault of cause 0x13. -/
  | dcHeartbeatTimeout
  /-- MC_LOCKSTEP_MISMATCH (R513). The MC lockstep cores disagree; the always-on domain latches cause 0x12 for the boot ROM to record. -/
  | mcLockstepMismatch
  /-- IOD_UNCORRECTABLE (R510). An uncorrectable error in I/O-die control state or reloaded DFW is a device-fatal fault of cause 0x14. -/
  | iodUncorrectable (die : Fin 2)
  /-- JOB_END_SCRUB (R258). After a job's end is decided, accesses stop, tile and sole scrubs run, HBM requests drain and key slots are zeroed, then the LAUNCH completion is posted. -/
  | jobEndScrub (job : BitVec 32)
  /-- SENSOR_SAMPLE (R457). A thermal sensor is sampled in the housekeeping round or every 25 µs in fast sampling; HOT, RATE, requests and shutdown are judged. -/
  | sensorSample (die : Fin 34) (sensor : Fin 96) (raw : BitVec 32) (reading : Option Int)
  /-- SHUTDOWN_POWER_REMOVAL (R470). After the thermal-shutdown record is committed, stack and HBM power is removed and the device enters SHUTDOWN. -/
  | shutdownPowerRemoval
  /-- THERMAL_WINDOW_END (R468). At each 1 ms window end, HOT and RATE flags and fast sampling are cleared as due, and enforced thermal settings step down or up. -/
  | thermalWindowEnd
  /-- THERMAL_ENFORCE_AT (R468). At ENFORCE_AT the MC sets ENFORCED if a stack was hot in the last window, or else clears the request. -/
  | thermalEnforceAt
  /-- THM_ACK (R471). A THM_ACK write with KEY 0x5AA5 in SHUTDOWN sets ACK_PRESENT and is logged. -/
  | thmAck (v : BitVec 32)
  /-- POWER_WINDOW_END (R449). At each 1 ms power window end the average is published, a power request may be posted, and the power setting steps down or up. -/
  | powerWindowEnd
  /-- POWER_ENFORCE_AT (R449). At ENFORCE_AT the MC sets ENFORCED if the last window exceeded W_T, or else clears the request. -/
  | powerEnforceAt
  /-- FAST_LIMIT_FATAL (R450). 100 consecutive samples above 1.15 W_T with the setting at 10 make a device-fatal fault. -/
  | fastLimitFatal
  /-- MODULE_PHASE_FAILURE (R432). A module phase of a stack's intermediate rail fails; it is recorded, and at 12 phases or fewer the fault is stack-fatal. -/
  | modulePhaseFailure (stack : Fin 8) (phase : Fin 14)
  /-- PHASE_REGULATION_LOSS (R439). A regulator phase's controller reports loss of regulation and the phase fails. -/
  | phaseRegulationLoss (stack : Fin 8) (phase : Fin 292)
  /-- PHASE_OVER_CURRENT (R439). A phase's current stays above 6 A for 1 µs and the phase fails. -/
  | phaseOverCurrent (stack : Fin 8) (phase : Fin 292)
  /-- DROP_CHECK_SAMPLE (R439). Every 100 µs the SC compares each phase's connection drop with its expected value and counts suspect samples. -/
  | dropCheckSample (stack : Fin 8) (phase : Fin 292) (milliamps microvolts : BitVec 16) (quarterDegrees : Int)
  /-- DROP_CHECK_FAIL (R439). One hundred consecutive suspect samples fail the phase as a suspected cracked connection. -/
  | dropCheckFail (stack : Fin 8) (phase : Fin 292)
  /-- REGION_OVER_CURRENT (R438). A region's current stays above 1.25 L for 1 µs; the region trips and its phases switch off. -/
  | regionOverCurrent (stack : Fin 8) (region : Fin 56)
  /-- REGION_UNDERVOLTAGE (R437). A region output below 90 % of setpoint for 10 µs trips the region. -/
  | regionUndervoltage (stack : Fin 8) (region : Fin 56)
  /-- REGION_RERAMP (R442). After the job-end scrub, a tripped tile region is re-ramped once, zeroed and tested, returning to service or going dark. -/
  | regionReramp (stack : Fin 8) (region : Fin 56) (trip : Option RegionTrip) (testsBad : Bool)
  /-- BOOST_ENGAGE (R436). The region output falls below 97 % and the boost stage engages within 2 ns. -/
  | boostEngage (stack : Fin 8) (region : Fin 56)
  /-- BOOST_RELEASE (R436). The boost releases after 100 ns at or above 99 % or after 2 µs, and cannot engage for 8 µs. -/
  | boostRelease (stack : Fin 8) (region : Fin 56)
  /-- CLOCK_HALVING (R437). An output still below 97 % without boost halves the region clock within 10 ns. -/
  | clockHalving (stack : Fin 8) (region : Fin 56)
  /-- CLOCK_RESTORE (R437). The halved clock is restored after the output has been at or above 99 % for 1 µs. -/
  | clockRestore (stack : Fin 8) (region : Fin 56)
  /-- REGION_RAMP_START (R445). At a 1 µs re-check no powered neighbour blocks and the region starts a normal ramp. -/
  | regionRampStart (stack : Fin 8) (region : Fin 56) (draws : List RegionDraw)
  /-- QUARTER_SLOPE_RAMP (R445). After 40 µs of waiting on a blocking neighbour, the region starts a quarter-slope ramp. -/
  | quarterSlopeRamp (stack : Fin 8) (region : Fin 56)
  /-- REGION_RAMP_DONE (R444). A region reaches its setpoint and its tile can run. -/
  | regionRampDone (stack : Fin 8) (region : Fin 56)
  /-- TILE_PARK (R446). A tile idle for 20 µs writes back its L1, switches off its logic and holds its local store in retention. -/
  | tilePark (tile : Fin 416)
  /-- UPPER_POWER_GATE (R447). An upper held by no running job for 10 ms is power-gated: L1 invalidated, tile regions off, uncore held at 0.55 V. -/
  | upperPowerGate (stack : Fin 8)
  /-- WELT_BEAT (R225). A welt beat is received and its CRC-16 checked; a mismatch sends a NAK and is counted. -/
  | weltBeat (stack : Fin 8) (ch : Fin 64) (down : Bool) (data : BitVec 4096) (waiting : List Nat) (errors : BitVec 4144)
  /-- WELT_NAK (R226). A sender receives a NAK and replays from the named beat in order. -/
  | weltNak (stack : Fin 8) (ch : Fin 64) (down : Bool) (beat : Nat)
  /-- STROBE_LOSS (R226). A welt channel loses a strobe and starts an in-service repair at once. -/
  | strobeLoss (stack : Fin 8) (ch : Fin 64) (down : Bool)
  /-- WELT_REPAIR_END (R241). The repair's scan, probe and steering end; the channel resumes with a replay, or retires. -/
  | weltRepairEnd (stack : Fin 8) (ch : Fin 64) (scans : List WireScan)
  /-- WELT_ERROR_WINDOW_END (R227). A welt channel's mismatch-count window ends and the next begins. -/
  | weltErrorWindowEnd (stack : Fin 8) (ch : Fin 64) (down : Bool)
  /-- WELT_TEST_DUE (R235). A stack's test age reaches its effective interval and its self-test falls due. -/
  | weltTestDue (stack : Fin 8)
  /-- WELT_SELF_TEST (R236). A due self-test starts at the first moment no job holds the stack. -/
  | weltSelfTest (stack : Fin 8)
  /-- WELT_SELF_TEST_COMMIT (R237). A self-test ends by committing new steering maps at step 8. -/
  | weltSelfTestCommit (stack : Fin 8) (scans : List WireScan)
  /-- GETS (R202). The home slice serves an L1 read request and returns the line's bytes, updating the directory. -/
  | gets (tile : Fin 416) (line : BitVec 32) (need : BitVec 256)
  /-- GETM (R202). The home slice serves an L1 ownership request, invalidating or recalling other copies before the grant. -/
  | getm (tile : Fin 416) (line : BitVec 32)
  /-- PUTM (R202). The home slice merges an L1 write-back of dirty bytes. -/
  | putm (tile : Fin 416) (line : BitVec 32)
  /-- NCRD (R202). The home slice serves a non-caching read for DMA, BAR2, hint 0b10 loads or GATHER. -/
  | ncrd (line : BitVec 32) (src : Sender) (need : BitVec 256)
  /-- NCWR (R202). The home slice merges a non-caching write after invalidating or recalling copies. -/
  | ncwr (line : BitVec 32) (src : Sender) (data : BitVec 2048) (mask : BitVec 256)
  /-- RED (R206). A reduction request reaches the home slice; recalls and fetches precede the line's entry to BR. -/
  | red (line : BitVec 32) (req : RedRequest)
  /-- RED_APPLY (R208). The RED at the head of a BR line's queue is applied in place, one request per fabric cycle. -/
  | redApply (line : BitVec 32)
  /-- BR_EPISODE_CLOSE (R207). A BR episode closes at its 96-cycle limit or when no RED heads the queue; deferred evictions and queued requests follow. -/
  | brEpisodeClose (line : BitVec 32)
  /-- FILL_COMPLETE (R192). Fill data from HBM is written into sectors, compressed, and counted in the page's AUTO record. -/
  | fillComplete (line : BitVec 32)
  /-- FILL_RETRY (R199). A waiting fill is retried when a BR episode closes, a transaction completes or a line is untacked in its set. -/
  | fillRetry (line : BitVec 32)
  /-- WRITEBACK_ACCEPTED (R196). The HBM controller accepts an eviction's write data and the tag is freed. -/
  | writebackAccepted (line : BitVec 32)
  /-- RECALL (R201). An L1 receives a recall or invalidation and answers with its dirty bytes or NOCOPY. -/
  | recall (tile : Fin 416) (line : BitVec 32) (invalidate : Bool)
  /-- RECALL_ANSWER (R204). The home slice receives a recall answer and merges it, completing the waiting request. -/
  | recallAnswer (tile : Fin 416) (line : BitVec 32)
  /-- L1_FILL (R197). Reply data arrives at a tile's L1, merges with its valid bytes and completes the waiting load. -/
  | l1Fill (tile : Fin 416) (line : BitVec 32)
  /-- OWNERSHIP_GRANT (R202). A GETM grant reaches the L1, which then holds the line in M. -/
  | ownershipGrant (tile : Fin 416) (line : BitVec 32)
  /-- WRITE_ACKNOWLEDGE (R205). A write, reduction or grant acknowledgement reaches the sender, which fences of stack scope wait for. -/
  | writeAcknowledge (src : Sender)
  /-- TACK (R212). The home slice sets the tack bit of a line, filling it if absent. -/
  | tack (line : BitVec 32)
  /-- UNTACK (R213). The home slice clears a line's tack bit, recompresses it and returns its slot-equivalents. -/
  | untack (line : BitVec 32)
  /-- THRASH_WINDOW_END (R215). At each thrash-monitor window end a slice computes its miss rate and sets or clears its flag. -/
  | thrashWindowEnd (slice : Fin 512)
  /-- SOLE_SCRUB_READ (R266). In an idle fabric cycle the sole scrubber reads 16 sectors and corrects or handles errors. -/
  | soleScrubRead (stack : Fin 8) (upsets : List Upset)
  /-- HBM_SCRUB_READ (R266). On an idle channel 850 cycles after its last scrub read, the HBM scrubber checks one unit's code. -/
  | hbmScrubRead (h : Fin 16) (channel : Fin 32) (upsets : List Upset)
  /-- SCRUB_LATE (R267). A scrub lap's age exceeds HBM_SCRUB_LIMIT and the stack's late bit is set. -/
  | scrubLate (scrubber : Fin 24)
  /-- LAUNCH_FILL_PORTION (R257). One portion of the launch zero-fill completes and accesses waiting on it proceed. -/
  | launchFillPortion (h : Fin 16)
  /-- GROUP_DISPATCH (R147). The dispatch firmware places the next thread group in a free slot with its registers zeroed, ramping a parked tile first. -/
  | groupDispatch (tile : Fin 416) (tgp : Fin 4) (slot : Fin 16)
  /-- DOORBELL_SNOOP (R334). A host store to a doorbell line invalidates the device copy and wakes the dispatch complex to re-read the line. -/
  | doorbellSnoop (addr : BitVec 64) (data : BitVec 512)
  /-- DOORBELL_POLL (R334). The device re-reads every enabled ring's doorbell line at least once per millisecond. -/
  | doorbellPoll
  /-- DESCRIPTOR_FETCH (R335). The device fetches up to 64 descriptors of a ring in its round-robin turn and checks them in order. -/
  | descriptorFetch (ring : Fin 64)
  /-- COMPLETION_POST (R336). Once its host writes are visible and CCI leaves room, the device writes a completion entry with its PHASE. -/
  | completionPost (ring : Fin 64)
  /-- DC_CLOCK_STOP (R334). After 100 µs with no descriptor in flight and no job present, the dispatch complex stops its clock. -/
  | dcClockStop
  /-- STATUS_PAGE_WRITE (R351). At least every 50 µs the device writes the 4 KiB status page with matching heartbeats. -/
  | statusPageWrite
  /-- RING_ENABLE (R328). Setting ENABLE in RING_CTRL checks the ring's size, resets its indices and starts reading its doorbell slot. -/
  | ringEnable (v : BitVec 32)
  /-- RING_DISABLE (R328). Clearing ENABLE stops fetching; in-flight descriptors complete and the ring becomes IDLE. -/
  | ringDisable (v : BitVec 32)
  /-- NOP_DESCRIPTOR (R340). A NOP descriptor completes with no effect. -/
  | nopDescriptor (ring : Fin 64) (idx : BitVec 32)
  /-- LAUNCH (R347). LAUNCH reads and checks a Silain image, loads the job key, starts the fill, broadcasts code and dispatches groups. -/
  | launch (ring : Fin 64) (idx : BitVec 32)
  /-- SUSPEND (R150). SUSPEND stops a job at instruction boundaries, drains its work, writes back L1 and writes its context. -/
  | suspend (ring : Fin 64) (idx : BitVec 32)
  /-- RESUME (R155). RESUME checks a context and restores its tile records, then continues dispatch. -/
  | resume (ring : Fin 64) (idx : BitVec 32)
  /-- ABORT (R345). ABORT decides the end of a present job, which ends ABORTED. -/
  | abort (ring : Fin 64) (idx : BitVec 32)
  /-- DMA_H2D (R342). A DMA copies host memory into device memory, in sealed records for a sealed job. -/
  | dmaH2d (ring : Fin 64) (idx : BitVec 32)
  /-- DMA_D2H (R342). A DMA copies device memory to host memory, in sealed records for a sealed job. -/
  | dmaD2h (ring : Fin 64) (idx : BitVec 32)
  /-- DMA_D2D (R342). A DMA copies between non-overlapping device ranges of the job. -/
  | dmaD2d (ring : Fin 64) (idx : BitVec 32)
  /-- DMA_TACK (R211). A TACK DMA checks the per-set and budget limits and tacks every line of the range, or refuses with TACK_QUOTA. -/
  | dmaTack (ring : Fin 64) (idx : BitVec 32)
  /-- DMA_UNTACK (R213). An UNTACK DMA clears the tacks of a range. -/
  | dmaUntack (ring : Fin 64) (idx : BitVec 32)
  /-- SEQ_OP_OPEN (R291). A host SEQ_OP opens a sequence descriptor. -/
  | seqOpOpen (ring : Fin 64) (idx : BitVec 32)
  /-- SEQ_OP_FREE (R291). A host SEQ_OP frees a sequence descriptor and its pages. -/
  | seqOpFree (ring : Fin 64) (idx : BitVec 32)
  /-- SEQ_OP_QUERY (R291). A host SEQ_OP writes a sequence descriptor to a host buffer. -/
  | seqOpQuery (ring : Fin 64) (idx : BitVec 32)
  /-- SET_LAST (R409). SET_LAST checks and commits a new expected-topology table. -/
  | setLast (ring : Fin 64) (idx : BitVec 32)
  /-- INSTALL_LICENCE (R424). INSTALL_LICENCE checks a licence's form, signature, serial and counter and commits it. -/
  | installLicence (ring : Fin 64) (idx : BitVec 32)
  /-- KEY_EXCHANGE_OFFER (R488). OFFER generates an ML-KEM key pair in a slot and writes a signed offer. -/
  | keyExchangeOffer (ring : Fin 64) (idx : BitVec 32)
  /-- KEY_EXCHANGE_ACCEPT (R489). ACCEPT decapsulates, derives the slot keys, checks CONFIRM and makes the slot READY. -/
  | keyExchangeAccept (ring : Fin 64) (idx : BitVec 32)
  /-- KEY_EXCHANGE_RELEASE (R490). RELEASE empties an OFFERED or READY key slot. -/
  | keyExchangeRelease (ring : Fin 64) (idx : BitVec 32)
  /-- KEY_OFFER_EXPIRY (R490). An OFFERED slot becomes EMPTY 60 s after its OFFER. -/
  | keyOfferExpiry (slot : Fin 16)
  /-- ATTEST (R486). ATTEST writes a report of measurements and state signed by the identity key. -/
  | attest (ring : Fin 64) (idx : BitVec 32)
  /-- IDENTITY_TREE_READY (R484). Background generation of the next level-1 tree finishes and waiting signature requests proceed. -/
  | identityTreeReady
  /-- ENTROPY_HEALTH_TEST (R480). Every second the entropy source's health tests repeat and set or clear ENTROPY_OK. -/
  | entropyHealthTest (passed : Bool)
  /-- BIST_WELT (R238). A BIST of kind WELT runs the welt self-test on the named stacks. -/
  | bistWelt (ring : Fin 64) (idx : BitVec 32) (scans : List StackScan)
  /-- BIST_TILES (R407). A BIST of kind TILES tests every working tile and every check-value unit of the named stacks. -/
  | bistTiles (ring : Fin 64) (idx : BitVec 32)
  /-- BIST_SOLE (R407). A BIST of kind SOLE tests every live slice of the named stacks. -/
  | bistSole (ring : Fin 64) (idx : BitVec 32)
  /-- QUERY_FLOOR_PLAN (R29). QUERY_FLOOR_PLAN writes one generation's floor-plan record into a host buffer. -/
  | queryFloorPlan (ring : Fin 64) (idx : BitVec 32)
  /-- SET_POLICY (R497). SET_POLICY checks and commits a new security policy and extends MR4. -/
  | setPolicy (ring : Fin 64) (idx : BitVec 32)
  /-- DEBUG_HALT (R148). HALT stops every thread of a group at its next instruction boundary. -/
  | debugHalt (ring : Fin 64) (idx : BitVec 32)
  /-- DEBUG_READ (R148). READ writes a halted group's record and vector registers to a host buffer. -/
  | debugRead (ring : Fin 64) (idx : BitVec 32)
  /-- DEBUG_STEP (R148). STEP issues one instruction of the set containing the named lane and halts the group again. -/
  | debugStep (ring : Fin 64) (idx : BitVec 32)
  /-- DEBUG_STEP_TIMEOUT (R148). A stepped set is not runnable within 1,048,576 core cycles and STEP fails with DEBUG_TARGET. -/
  | debugStepTimeout (ring : Fin 64) (idx : BitVec 32)
  /-- DEBUG_RELEASE (R148). RELEASE resumes a halted group. -/
  | debugRelease (ring : Fin 64) (idx : BitVec 32)
  /-- AUDIT_READ (R505). AUDIT_READ writes whole audit entries from START to a host buffer. -/
  | auditRead (ring : Fin 64) (idx : BitVec 32)
  /-- BLACKBOX_READ (R524). BLACKBOX_READ writes a header and whole black-box records from START to a host buffer. -/
  | blackboxRead (ring : Fin 64) (idx : BitVec 32)
  /-- FIRMWARE_INSTALL_START (R325). Writing START in MGT_FW_CTL makes the MC read a firmware image from host memory. -/
  | firmwareInstallStart (v : BitVec 32)
  /-- FIRMWARE_INSTALL_DONE (R325). The MC finishes verifying and writing the image to the inactive slot and sets RESULT; in LIMP the recovery service repeats step 2. -/
  | firmwareInstallDone
  /-- INDIRECT_ACCESS (R323). A read or write of MGT_IND_DATA performs the access on the register selected by MGT_IND_SPACE and MGT_IND_ADDR. -/
  | indirectAccess (write : Option (BitVec 32))
  /-- MGT_BAR2_JOB_WRITE (R326). A write of MGT_BAR2_JOB binds a job to BAR2, or sets 0 when the job is absent or policy forbids. -/
  | mgtBar2JobWrite (v : BitVec 32)
  /-- BAR2_READ (R326). A CXL.mem read through BAR2 reaches the bound job's device memory as NCRD, or is dropped. -/
  | bar2Read (unit : BitVec 30)
  /-- BAR2_WRITE (R326). A CXL.mem write through BAR2 reaches the bound job's device memory as NCWR, or is dropped. -/
  | bar2Write (unit : BitVec 30) (data : BitVec 512) (mask : BitVec 64)
  /-- BAR0_BAD_ACCESS (R319). A BAR0 access that is not an aligned 4-byte read or write is refused and counted. -/
  | bar0BadAccess (write : Bool)
  /-- REGISTER_WRITE (R320). A write to a register without a row of its own sets its fields by access code and is logged as REG_WRITE. -/
  | registerWrite (offset : BitVec 16) (v : BitVec 32)
  /-- RC_READ (R14). A read of an RC field returns its value and clears it. -/
  | rcRead (reg : RegAddr)
  /-- COUNTER_LATCH_READ (R219). Reading a 64-bit counter's low word latches its high word. -/
  | counterLatchRead (reg : RegAddr)
  /-- AUDIT_ACK_HI (R507). A write of SEC_AUDIT_ACK_HI stages the high word of the acknowledgement. -/
  | auditAckHi (v : BitVec 32)
  /-- AUDIT_ACK (R507). A write of SEC_AUDIT_ACK_LO applies the acknowledged index and may end a loss episode. -/
  | auditAck (v : BitVec 32)
  /-- QOS_COMMIT (R314). A QOS_COMMIT write checks the staged limits against each kind's ceiling and pends them or refuses. -/
  | qosCommit (v : BitVec 32)
  /-- TILE_CNT_CLEAR (R157). A write of TILE_CNT_CLEAR clears the selected tile's counters. -/
  | tileCntClear (v : BitVec 32)
  /-- SOLE_CNT_CLEAR_SLICE (R221). SOLE_CNT_CLEAR bit 0 clears the selected slice's counters. -/
  | soleCntClearSlice (stack : Fin 8)
  /-- SOLE_CNT_CLEAR_STACK (R221). SOLE_CNT_CLEAR bit 1 clears every slice's counters of the stack. -/
  | soleCntClearStack (stack : Fin 8)
  /-- BANDWIDTH_WINDOW_START (R301). A 4,096-cycle bandwidth window starts; budget counters clear and a pending QoS commit takes effect. -/
  | bandwidthWindowStart
  /-- INJECTION_GRANT (R302). A master's injection port grants a packet, charges its class counter and marks it DEMOTED or in budget with its URGENCY. -/
  | injectionGrant (master : Fin 508) (cls : Fin 8) (line : BitVec 32)
  /-- ARBITRATION_GRANT (R304). An arbitration point chooses the next whole packet by tier under the protection rules. -/
  | arbitrationGrant (point : BitVec 32) (waiting : List Nat)
  /-- GET_STATE (R354). The sideband command returns MGT_STATE, CAUSE, HEARTBEAT and AON_COUNT. -/
  | getState
  /-- GET_TELEMETRY (R354). The sideband command returns input voltage, module power and hottest die readings. -/
  | getTelemetry
  /-- READ_BLACKBOX (R525). The sideband command returns up to three whole black-box records from an index. -/
  | readBlackbox (first : BitVec 64)
  /-- EPO_ARM (R355). The sideband command arms emergency power-off and returns a nonce. -/
  | epoArm (eid : BitVec 8)
  /-- EPO_FIRE (R355). An EPO_FIRE with the latest nonce within 1 s ends every job, removes stack power and enters SHUTDOWN; otherwise it is refused. -/
  | epoFire (eid : BitVec 8) (nonce : BitVec 16)
  /-- SIDEBAND_UNKNOWN_COMMAND (R354). An unlisted vendor command code is answered with an error and has no effect. -/
  | sidebandUnknownCommand (code : BitVec 8)
  /-- MCTP_CONTROL (R353). The device serves an MCTP control message required of an endpoint. -/
  | mctpControl (code : BitVec 8)
  /-- IDE_K_SET_GO (R491). The host starts the IDE stream with IDE_KM K_SET_GO using keys from a READY IDE slot. -/
  | ideKSetGo
  /-- IDE_KEY_PROG (R491). An IDE_KM KEY_PROG request is refused. -/
  | ideKeyProg
  /-- FLIT_TRANSMIT (R364). A port sends a flit on a channel for which it holds credit, possibly acted on by an armed awl. -/
  | flitTransmit (port : Fin 18) (vc : Option (Fin 5))
  /-- FLIT_RECEIVE (R365). A port receives a flit, checks CRC, sequence and tag, returns credits and NAKs as needed. -/
  | flitReceive (port : Fin 18) (flit : BitVec 2048) (codewords : List LaneCodeword)
  /-- FLIT_REPLAY (R365). A sender receives a NAK and resends from the named LSEQ, go-back-N. -/
  | flitReplay (port : Fin 18) (lseq : BitVec 16)
  /-- RETRAIN (R361). The host writes RETRAIN in FAB_P_CTL and the selected port retrains in service. -/
  | retrain (v : BitVec 32) (far : FarEnd)
  /-- REKEY (R370). The host writes REKEY in FAB_P_CTL and the selected port renews its link keys. -/
  | rekey (v : BitVec 32) (authOk : Bool)
  /-- DOWN_PORT_ATTEMPT (R361). Every 10 s a DOWN port makes one training attempt. -/
  | downPortAttempt (port : Fin 18) (far : FarEnd)
  /-- LINK_KEY_RENEWAL (R370). After 2^40 new DATA flits in a direction, a port renews its keys on channel 4 and switches KEY_PHASE. -/
  | linkKeyRenewal (port : Fin 18) (authOk : Bool)
  /-- RENEWAL_RETRY (R370). One second after a failed renewal, the port retries it. -/
  | renewalRetry (port : Fin 18) (authOk : Bool)
  /-- FABRIC_ERROR_WINDOW_END (R366). A port's CRC-failure window ends and the next begins. -/
  | fabricErrorWindowEnd (port : Fin 18)
  /-- MESSAGE_FORWARD (R372). A device routes a transit message to a usable next hop, or answers UNREACHABLE, or discards it when HOPS expires. -/
  | messageForward (port : Fin 18) (msg : Message)
  /-- FABRIC_READ (R381). A peer READ message is checked end to end and served at the home slice, answered by DATA or NACK. -/
  | fabricRead (port : Fin 18) (msg : Message)
  /-- FABRIC_WRITE (R381). A peer WRITE message is checked and served as NCWR, answered by ACK or NACK. -/
  | fabricWrite (port : Fin 18) (msg : Message)
  /-- FABRIC_RED (R383). A peer RED message's sub-requests enter their home slices as RED requests, answered by DATA or NACK. -/
  | fabricRed (port : Fin 18) (msg : Message)
  /-- FABRIC_DATA (R376). A DATA reply reaches the source and completes the peer load or atomic. -/
  | fabricData (port : Fin 18) (msg : Message)
  /-- FABRIC_ACK (R376). An ACK reply reaches the source and completes the peer store. -/
  | fabricAck (port : Fin 18) (msg : Message)
  /-- FABRIC_NACK (R385). A NACK reply reaches the source and faults the issuing job by its REASON. -/
  | fabricNack (port : Fin 18) (msg : Message)
  /-- BCAST (R382). A broadcast write is delivered locally if the group matches and forwarded on the broadcast mask. -/
  | bcast (port : Fin 18) (msg : Message)
  /-- FABRIC_TIMEOUT (R385). No reply arrives within FAB_E2E_TIMEOUT and the issuing job faults with 0x33. -/
  | fabricTimeout (tag : BitVec 16)
  /-- AWL_DISARM (R386). A FAB_AWL_CTL write with ACTION 0b00 disarms the selected port's awl. -/
  | awlDisarm (v : BitVec 32)
  /-- AWL_ARM_DROP (R387). Arming the awl with DROP makes selected flits unsent with their LSEQ consumed. -/
  | awlArmDrop (v : BitVec 32)
  /-- AWL_ARM_CORRUPT (R387). Arming the awl with CORRUPT inverts a chosen bit of selected flits after the CRC. -/
  | awlArmCorrupt (v : BitVec 32)
  /-- AWL_ARM_REORDER (R387). Arming the awl with REORDER holds selected flits until after the next DATA flit. -/
  | awlArmReorder (v : BitVec 32)
  /-- AWL_REORDER_RELEASE (R387). A flit held by REORDER is sent alone after 64 fabric cycles. -/
  | awlReorderRelease (port : Fin 18)
  /-- FAB_FABRIC_ID_WRITE (R371). A write of FAB_FABRIC_ID is committed to MRAM and takes effect at the next port-training bring-up. -/
  | fabFabricIdWrite (v : BitVec 32)
  /-- FAB_ROUTE_HOPS_WRITE (R388). A write of a route entry's next hops is committed to MRAM and applies to later messages. -/
  | fabRouteHopsWrite (v : BitVec 32)
  /-- FAB_ROUTE_BCAST_WRITE (R388). A write of a route entry's broadcast mask is committed to MRAM. -/
  | fabRouteBcastWrite (v : BitVec 32)
  /-- CVU_CTL_WRITE (R397). A write of CVU_CTL sets POLY and MODE, or is refused by state and owner or ignored while OPEN. -/
  | cvuCtlWrite (v : BitVec 32)
  /-- CVU_RESET (R391). RESET discards the unit's open stream and clears its status and byte count. -/
  | cvuReset
  /-- CVU_FINISH (R395). FINISH applies the final XOR and compares with EXPECT in SERVICE, or sets DONE in READOUT. -/
  | cvuFinish
  /-- CVU_FOLD_LO (R393). A write of CVU_FOLD_LO holds the low half of the fold word. -/
  | cvuFoldLo (v : BitVec 32)
  /-- CVU_FOLD_HI (R394). A write of CVU_FOLD_HI feeds the whole fold word, only as the first bytes of a stream. -/
  | cvuFoldHi (v : BitVec 32)
  /-- CVU_DATA8 (R393). A write of CVU_DATA8 feeds one byte to the unit. -/
  | cvuData8 (v : BitVec 32)
  /-- CVU_DATA16 (R393). A write of CVU_DATA16 feeds two bytes to the unit. -/
  | cvuData16 (v : BitVec 32)
  /-- CVU_DATA32 (R393). A write of CVU_DATA32 feeds four bytes to the unit. -/
  | cvuData32 (v : BitVec 32)
  /-- CVU_PORT_TEST (R399). Between messages firmware tests an in-service port's check-value unit in READOUT and returns it to the port. -/
  | cvuPortTest (port : Fin 18) (egressOk ingressOk : Bool)
  /-- MMA (R72). An ARR instruction issues a matrix-product array operation, read from its AOD at acceptance into the array queue. -/
  | mma (site : Site) (low : BitVec 52)
  /-- EWMUL (R94). An ARR instruction issues an element-wise product array operation. -/
  | ewmul (site : Site) (low : BitVec 52)
  /-- EWADD (R94). An ARR instruction issues an element-wise sum array operation. -/
  | ewadd (site : Site) (low : BitVec 52)
  /-- ARRAY_EXECUTE (R81). The array starts the next queued operation once its interlocks clear, loading, pre-scanning and computing its pass. -/
  | arrayExecute (tile : Fin 416)
  /-- ARRAY_OP_COMPLETE (R83). An array operation's last result is visible; the group's outstanding count falls and its flag summary is updated. -/
  | arrayOpComplete (tile : Fin 416)
  /-- ADD (R133). INT32 add, wrapping. -/
  | add (site : Site) (low : BitVec 52)
  /-- SUB (R133). INT32 subtract, wrapping. -/
  | sub (site : Site) (low : BitVec 52)
  /-- MUL (R133). INT32 multiply, low 32 bits. -/
  | mul (site : Site) (low : BitVec 52)
  /-- MULHI (R133). High 32 bits of the signed 64-bit product. -/
  | mulhi (site : Site) (low : BitVec 52)
  /-- MULHU (R133). High 32 bits of the unsigned 64-bit product. -/
  | mulhu (site : Site) (low : BitVec 52)
  /-- AND (R133). Bitwise and. -/
  | andI (site : Site) (low : BitVec 52)
  /-- OR (R133). Bitwise or. -/
  | orI (site : Site) (low : BitVec 52)
  /-- XOR (R133). Bitwise exclusive or. -/
  | xorI (site : Site) (low : BitVec 52)
  /-- SHL (R133). Shift left by an amount modulo 32. -/
  | shl (site : Site) (low : BitVec 52)
  /-- SHR (R133). Logical shift right. -/
  | shr (site : Site) (low : BitVec 52)
  /-- SHRA (R133). Arithmetic shift right. -/
  | shra (site : Site) (low : BitVec 52)
  /-- MIN (R133). Signed minimum. -/
  | minI (site : Site) (low : BitVec 52)
  /-- MAX (R133). Signed maximum. -/
  | maxI (site : Site) (low : BitVec 52)
  /-- MINU (R133). Unsigned minimum. -/
  | minu (site : Site) (low : BitVec 52)
  /-- MAXU (R133). Unsigned maximum. -/
  | maxu (site : Site) (low : BitVec 52)
  /-- SET (R133). Writes 1 if RA relates to RB by MOD, else 0. -/
  | setI (site : Site) (low : BitVec 52)
  /-- SEL (R133). Selects RA or RB by RC. -/
  | sel (site : Site) (low : BitVec 52)
  /-- POPC (R133). Population count of RA. -/
  | popc (site : Site) (low : BitVec 52)
  /-- CLZ (R133). Leading zeros of RA. -/
  | clz (site : Site) (low : BitVec 52)
  /-- FADD (R134). binary32 add, rounded once. -/
  | fadd (site : Site) (low : BitVec 52)
  /-- FSUB (R134). binary32 subtract, rounded once. -/
  | fsub (site : Site) (low : BitVec 52)
  /-- FMUL (R134). binary32 multiply, rounded once. -/
  | fmul (site : Site) (low : BitVec 52)
  /-- FFMA (R134). binary32 fused multiply-add with one rounding. -/
  | ffma (site : Site) (low : BitVec 52)
  /-- FMIN (R134). binary32 minimum, NaN giving canonical NaN. -/
  | fmin (site : Site) (low : BitVec 52)
  /-- FMAX (R134). binary32 maximum, NaN giving canonical NaN. -/
  | fmax (site : Site) (low : BitVec 52)
  /-- FABS (R134). Clears the sign bit. -/
  | fabs (site : Site) (low : BitVec 52)
  /-- FNEG (R134). Inverts the sign bit. -/
  | fneg (site : Site) (low : BitVec 52)
  /-- FSET (R134). binary32 compare writing 1 or 0 by MOD. -/
  | fset (site : Site) (low : BitVec 52)
  /-- CVT (R135). Scalar conversion between binary32 and integer formats, with rounding and saturation. -/
  | cvt (site : Site) (low : BitVec 52)
  /-- MOVI (R136). Writes an immediate to a register. -/
  | movi (site : Site) (low : BitVec 52)
  /-- MOVS (R136). Reads a special register, clearing CSTAT or AFLAGS when read. -/
  | movs (site : Site) (low : BitVec 52)
  /-- LDL (R139). Local-store load. -/
  | ldl (site : Site) (low : BitVec 52)
  /-- STL (R139). Local-store store. -/
  | stl (site : Site) (low : BitVec 52)
  /-- LDG (R139). Device-memory load through L1, or a peer READ in the peer window. -/
  | ldg (site : Site) (low : BitVec 52)
  /-- STG (R139). Device-memory store through L1, or a peer WRITE or BCAST in the peer window. -/
  | stg (site : Site) (low : BitVec 52)
  /-- AADD (R143). Atomic INT32 add, wrapping. -/
  | aadd (site : Site) (low : BitVec 52)
  /-- AMIN (R143). Atomic signed minimum. -/
  | amin (site : Site) (low : BitVec 52)
  /-- AMAX (R143). Atomic signed maximum. -/
  | amax (site : Site) (low : BitVec 52)
  /-- AMINU (R143). Atomic unsigned minimum. -/
  | aminu (site : Site) (low : BitVec 52)
  /-- AMAXU (R143). Atomic unsigned maximum. -/
  | amaxu (site : Site) (low : BitVec 52)
  /-- AAND (R143). Atomic and. -/
  | aand (site : Site) (low : BitVec 52)
  /-- AOR (R143). Atomic or. -/
  | aor (site : Site) (low : BitVec 52)
  /-- AXOR (R143). Atomic exclusive or. -/
  | axor (site : Site) (low : BitVec 52)
  /-- AFADD (R143). Atomic floating-point add in ascending lane order, rounded to nearest even. -/
  | afadd (site : Site) (low : BitVec 52)
  /-- AWADD (R143). Atomic WP96 add. -/
  | awadd (site : Site) (low : BitVec 52)
  /-- ACAS (R143). Atomic compare-and-swap. -/
  | acas (site : Site) (low : BitVec 52)
  /-- AEXCH (R143). Atomic exchange. -/
  | aexch (site : Site) (low : BitVec 52)
  /-- DEVICE_ATOMIC_REPLY (R143). The old values of a device atomic return from the home slice to the lanes' registers. -/
  | deviceAtomicReply (tag : Nat)
  /-- FENCE (R141). A fence of a given scope and kind orders the thread's accesses, waiting for the acknowledgements its scope needs. -/
  | fence (site : Site) (low : BitVec 52)
  /-- BAR (R138). A thread waits at the group barrier, which completes when every live thread has arrived. -/
  | bar (site : Site) (low : BitVec 52)
  /-- WAITA (R138). A thread waits until the group's outstanding array count is at most IMM. -/
  | waita (site : Site) (low : BitVec 52)
  /-- WAITV (R138). A thread waits until every earlier vector instruction of the group is visible. -/
  | waitv (site : Site) (low : BitVec 52)
  /-- NOP (R137). An instruction with no effect. -/
  | nop (site : Site) (low : BitVec 52)
  /-- BRA (R137). Branch always. -/
  | bra (site : Site) (low : BitVec 52)
  /-- BRZ (R137). Branch if RA is zero, splitting the set as threads decide. -/
  | brz (site : Site) (low : BitVec 52)
  /-- BRNZ (R137). Branch if RA is non-zero. -/
  | brnz (site : Site) (low : BitVec 52)
  /-- BRS (R137). Branch on a field of the group's SSUM. -/
  | brs (site : Site) (low : BitVec 52)
  /-- CALL (R137). Writes the return address and branches. -/
  | call (site : Site) (low : BitVec 52)
  /-- JMP (R137). Jumps to the address in RA. -/
  | jmp (site : Site) (low : BitVec 52)
  /-- EXIT (R137). The thread exits; the group's last exit ends the group and releases its slot and faces. -/
  | exitT (site : Site) (low : BitVec 52)
  /-- TRAP (R137). Raises a job-fatal fault with detail code 0x27 carrying IMM[15:0]. -/
  | trap (site : Site) (low : BitVec 52)
  /-- OPEN (R283). The SEQ instruction opens a FREE sequence descriptor with its layout parameters. -/
  | seqOpen (site : Site) (low : BitVec 52)
  /-- APPEND (R284). The SEQ instruction allocates pages and writes entry segments for a token range of one layer, or returns POOL_EMPTY. -/
  | seqAppend (site : Site) (low : BitVec 52)
  /-- GATHER (R285). The SEQ instruction streams entry segments of a token range into local store in ROWS or COLUMNS layout. -/
  | seqGather (site : Site) (low : BitVec 52)
  /-- FREE (R286). The SEQ instruction returns a descriptor's pages to the free list and the descriptor to FREE. -/
  | seqFree (site : Site) (low : BitVec 52)
  /-- QUERY (R287). The SEQ instruction writes a descriptor to local store. -/
  | seqQuery (site : Site) (low : BitVec 52)
  /-- SEQ_RESULT (R288). When a SEQ operation's effects are visible and acknowledged, the result word is written to RD of the issuing set. -/
  | seqResult (tag : Nat)
  /-- RNGV (R173). Writes VL random words from the generator into a vector register. -/
  | rngv (site : Site) (low : BitVec 52)
  /-- VSETVL (R100). Sets VL to min(XS, 1,024) and writes it back to XS. -/
  | vsetvl (site : Site) (low : BitVec 50)
  /-- VADD (R110). Vector add. -/
  | vadd (site : Site) (low : BitVec 50)
  /-- VSUB (R110). Vector subtract. -/
  | vsub (site : Site) (low : BitVec 50)
  /-- VMUL (R110). Vector multiply. -/
  | vmul (site : Site) (low : BitVec 50)
  /-- VFMA (R110). Vector fused multiply-add with one rounding. -/
  | vfma (site : Site) (low : BitVec 50)
  /-- VMIN (R110). Vector element minimum. -/
  | vmin (site : Site) (low : BitVec 50)
  /-- VMAX (R110). Vector element maximum. -/
  | vmax (site : Site) (low : BitVec 50)
  /-- VABS (R110). Vector absolute value, saturating for integers. -/
  | vabs (site : Site) (low : BitVec 50)
  /-- VNEG (R110). Vector negation, saturating for integers. -/
  | vneg (site : Site) (low : BitVec 50)
  /-- VAND (R109). Vector bitwise and. -/
  | vand (site : Site) (low : BitVec 50)
  /-- VOR (R109). Vector bitwise or. -/
  | vor (site : Site) (low : BitVec 50)
  /-- VXOR (R109). Vector bitwise exclusive or. -/
  | vxor (site : Site) (low : BitVec 50)
  /-- VSHL (R109). Vector shift left. -/
  | vshl (site : Site) (low : BitVec 50)
  /-- VSHR (R109). Vector shift right. -/
  | vshr (site : Site) (low : BitVec 50)
  /-- VCMPEQ (R108). Vector compare equal into a flag vector. -/
  | vcmpeq (site : Site) (low : BitVec 50)
  /-- VCMPLT (R108). Vector compare less-than into a flag vector. -/
  | vcmplt (site : Site) (low : BitVec 50)
  /-- VCMPLE (R108). Vector compare less-or-equal into a flag vector. -/
  | vcmple (site : Site) (low : BitVec 50)
  /-- VCMPGT (R108). Vector compare greater-than into a flag vector. -/
  | vcmpgt (site : Site) (low : BitVec 50)
  /-- VSEL (R109). Vector select by flag. -/
  | vsel (site : Site) (low : BitVec 50)
  /-- VEXP2 (R111). Correctly rounded 2^x. -/
  | vexp2 (site : Site) (low : BitVec 50)
  /-- VRCP (R111). Correctly rounded reciprocal. -/
  | vrcp (site : Site) (low : BitVec 50)
  /-- VRSQRT (R111). Correctly rounded reciprocal square root. -/
  | vrsqrt (site : Site) (low : BitVec 50)
  /-- VCVT (R112). Vector format conversion, with block scales and stochastic rounding. -/
  | vcvt (site : Site) (low : BitVec 50)
  /-- VLD (R109). Unit-stride vector load. -/
  | vld (site : Site) (low : BitVec 50)
  /-- VST (R109). Unit-stride vector store. -/
  | vst (site : Site) (low : BitVec 50)
  /-- VLDS (R120). Strided vector load. -/
  | vlds (site : Site) (low : BitVec 50)
  /-- VSTS (R120). Strided vector store. -/
  | vsts (site : Site) (low : BitVec 50)
  /-- VGATHER (R120). Indexed vector load. -/
  | vgather (site : Site) (low : BitVec 50)
  /-- VSCATTER (R120). Indexed vector store in ascending element order. -/
  | vscatter (site : Site) (low : BitVec 50)
  /-- VSCANI (R113). Inclusive segmented scan, updating VACC. -/
  | vscani (site : Site) (low : BitVec 50)
  /-- VSCANX (R113). Exclusive segmented scan, updating VACC. -/
  | vscanx (site : Site) (low : BitVec 50)
  /-- VRED (R114). Reduction into VACC. -/
  | vred (site : Site) (low : BitVec 50)
  /-- VCOMPRESS (R119). Packs flagged elements and writes SSUM. -/
  | vcompress (site : Site) (low : BitVec 50)
  /-- VSUM (R121). Writes the scalar summary of flagged elements into SSUM. -/
  | vsum (site : Site) (low : BitVec 50)
  /-- VWSCANI (R117). Exact inclusive scan into a WP96 quad. -/
  | vwscani (site : Site) (low : BitVec 50)
  /-- VWSCANX (R117). Exact exclusive scan into a WP96 quad. -/
  | vwscanx (site : Site) (low : BitVec 50)
  /-- VWRED (R117). Exact reduction into VACC. -/
  | vwred (site : Site) (low : BitVec 50)
  /-- VWADD (R109). WP96 quad add. -/
  | vwadd (site : Site) (low : BitVec 50)
  /-- VWREALIGN (R109). WP96 quad realignment to a named anchor. -/
  | vwrealign (site : Site) (low : BitVec 50)
  /-- CXL_LINK_UP (R316). The CXL host link finishes training at a supported width and rate and comes up. -/
  | cxlLinkUp (width : BitVec 5) (rate : BitVec 3)
  /-- VECTOR_EXECUTE (R104). The vector engine starts the next queued vector instruction when the previous instruction's occupancy ends. -/
  | vectorExecute (tile : Fin 416)
  /-- VECTOR_RESULT_VISIBLE (R104). A vector instruction's results, SSUM, VACC and VL become visible 8 core cycles after its occupancy ends. -/
  | vectorResultVisible (tile : Fin 416)
  /-- BIST_COMPLETE (R408). A TILES or SOLE BIST finishes its tests, restores the saved words, commits the floor plan with ORIGIN 0x03 and releases LAUNCHes waiting on the stacks. -/
  | bistComplete (ring : Fin 64) (idx : BitVec 32) (found : List UnitId)
  /-- PORT_SIGNAL_LOSS (R384). The far end of a Trerik port in service stops signalling, as when its neighbour resets or loses power, and the port goes down. -/
  | portSignalLoss (port : Fin 18)
  /-- COMPLETION_RING_SNOOP (R336). A host access to a completion-ring line that the device holds with ownership snoops the device's copy through CXL.cache. -/
  | completionRingSnoop (ring : Fin 64) (line : BitVec 32)
  /-- HBM_REFRESH (R310). An HBM controller starts a per-bank refresh on a bank holding no queued class-7 read, at the rate the stack's temperature report sets. -/
  | hbmRefresh (h : Fin 16) (channel : Fin 32) (pseudo : Fin 2) (bank : BitVec 7)
deriving DecidableEq, Repr

end Sys2Proof
end

