-- ==== Sys2Proof/Decode.lean ====
section
/-! DEFINITION. The command a word of the opcode table spells. The table of this block gives none of its rows bits, so no word
spells a command: commands reach the block as events, register accesses and descriptors, and the words of its thread groups'
instructions are operands of their commands. -/

namespace Sys2Proof

/-- None: no row of the table has bits. -/
def decodeTableWord (_nbits _w : Nat) : Option Instr := none

end Sys2Proof
end

