-- ==== Sys2Proof/Config.lean ====
section
/-! DEFINITION. The free values: constants without a body, so that nothing can be proved of what they hold. Each stands for
a value the spec leaves open or that only the part knows (entropy, the identity key, the order of additions inside the
array); the assumption log names every one. -/

namespace Sys2Proof.Config

/-- Whether the array's order of adding these contributions overflows on the way, where both outcomes are allowed (R58):
the starting value is the first. -/
opaque orderOverflows : List Int → Bool

/-- What the extended Hamming code of an `n`-bit word makes of three or more flipped bits (R261): none when it detects them,
else the data bits that a read leaves wrong. -/
opaque manyFlips (n flips : Nat) : Option Nat

/-- The 64 bytes that a unit of an HBM stack holds once the key they were written under is destroyed (R258), by the draw at
its destruction: ciphertext that no one can read. -/
opaque residue (n unit i : Nat) : Byte

/-- Scrub accesses that a slice's tag, directory and sequence-table arrays take (R266). -/
opaque arrayReads : Nat

/-- The frame of a tile's L1 that holds a line (R197, R261). -/
opaque l1Frame (tile line : Nat) : Nat

/-- The bank that holds a 64-byte unit, by its LOCATION, under its pseudo-channel's bit 7 (R249, R252, R310). -/
opaque hbmBank (location : Nat) : BitVec 8

/-- Read queue slots of an HBM controller beyond the least it can have, one for any request and two for class 7 (R308). -/
opaque moreReadSlots (h : Nat) : Nat

/-- Whether a tile that a test found bad failed in its random-bit unit (R162, R179), at draw `n`. -/
opaque generatorBad (n tile : Nat) : Bool

/-- Byte `i` of the entropy source's draw `n` (R480). -/
opaque entropy (n i : Nat) : Byte

/-- Byte `i` of the ML-KEM-1024 encapsulation key made at draw `n` (R488). -/
opaque encapsKey (n i : Nat) : Byte

/-- Byte `i` of the shared secret that decapsulation of a ciphertext gives under the key made at draw `n` (R489). -/
opaque sharedSecret (n : Nat) (ciphertext : List Byte) (i : Nat) : Byte

/-- Byte `i` of the identity signature of index `q` over a message (R482). -/
opaque identitySignature (q : Nat) (message : List Byte) (i : Nat) : Byte

/-- Byte `i` of a part of the wire image of a link-key exchange that only the two ends know (R367). -/
opaque linkSecret (n i : Nat) : Byte

/-- The credits, acknowledgements and NAKs that a beat carries for the opposite direction, by the next beat that the sender
expects and the NAK it owes: the spec gives no coding (R224). -/
opaque weltBack (expect : Nat) (nak : Option Nat) : Byte

/-- The DRAM row that holds a 64-byte unit, by its global channel and its number in that channel (R252, R264). -/
opaque hbmRow (channel unit : Nat) : Word

/-- The 256 KiB sub-array that holds a word of a sole slice, by the word's LOCATION, and how many of a sub-array's four spares
the fuse map takes (R269). -/
opaque subArray (location : Nat) : Nat
opaque fuseSpares (stack slice array : Nat) : Fin 5

/-- The output voltage, mV above the least one of 550, of a power region at a clock in units of 100 MHz: the part's fused
voltage–frequency table, which ends at 850 mV (R434). -/
opaque regionMillivolts (stack region clock : Nat) : Fin 301

/-- The response to an MCTP control message, by the draw at which it is answered and its command code (R353). -/
opaque mctpResponse (n : Nat) (code : Byte) : List Byte

end Sys2Proof.Config
end

