-- ==== Sys2Proof/Machine/Map.lean ====
section
/-! DEFINITION. Sparse tables and byte memories as plain data, in one canonical form: keys strictly rising, and no
entry equal to what an unlisted key reads as. Every table of the state that is too wide to list (registers, lines,
descriptors, entries of MRAM) is one of these. -/

namespace Sys2Proof.Machine

/-- A sparse table from numbers: key and value pairs, keys strictly rising. -/
abbrev SMap (α : Type) := List (Nat × α)

/-- The value under a key; an unlisted key reads as `d`. -/
def smGet {α : Type} (d : α) : SMap α → Nat → α
  | [], _ => d
  | (k, v) :: m, n => if n = k then v else smGet d m n

/-- Takes a key out of a table. -/
def smErase {α : Type} : SMap α → Nat → SMap α
  | [], _ => []
  | (k, v) :: m, n => if k = n then smErase m n else (k, v) :: smErase m n

/-- Puts a value under a key, keeping the keys rising. -/
def smPut {α : Type} : SMap α → Nat → α → SMap α
  | [], n, v => [(n, v)]
  | (k, w) :: m, n, v => if n < k then (n, v) :: (k, w) :: m else if n = k then (k, v) :: m else (k, w) :: smPut m n v

/-- Writes a value under a key; writing what an unlisted key reads as removes the entry. -/
def smSet {α : Type} [DecidableEq α] (d : α) (m : SMap α) (n : Nat) (v : α) : SMap α :=
  if v = d then smErase m n else smPut m n v

/-- Whether a key has an entry. -/
def smHas {α : Type} : SMap α → Nat → Bool
  | [], _ => false
  | (k, _) :: m, n => (n == k) || smHas m n

/-- The entry under a key, if listed. -/
def smFind {α : Type} : SMap α → Nat → Option α
  | [], _ => none
  | (k, v) :: m, n => if n = k then some v else smFind m n

/-- The keys of the entries that satisfy a test. -/
def smKeys {α : Type} (p : Nat → α → Bool) : SMap α → List Nat
  | [] => []
  | (k, v) :: m => if p k v then k :: smKeys p m else smKeys p m

/-- Changes every listed value (the keys stay). -/
def smMap {α : Type} (f : Nat → α → α) : SMap α → SMap α
  | [] => []
  | (k, v) :: m => (k, f k v) :: smMap f m

/-- Keeps the entries that satisfy a test. -/
def smFilter {α : Type} (p : Nat → α → Bool) : SMap α → SMap α
  | [] => []
  | (k, v) :: m => if p k v then (k, v) :: smFilter p m else smFilter p m

/-- Changes every listed value and drops the entries that come to read as `d`. -/
def smMapD {α : Type} [DecidableEq α] (d : α) (f : Nat → α → α) : SMap α → SMap α
  | [] => []
  | (k, v) :: m => if f k v = d then smErase (smMapD d f m) k else (k, f k v) :: smMapD d f m

/-- Keys strictly rising. -/
def smSorted {α : Type} : SMap α → Bool
  | [] => true
  | [_] => true
  | (k, _) :: (k', v') :: m => decide (k < k') && smSorted ((k', v') :: m)

/-- The canonical form of a table whose unlisted keys read as `d`. -/
def smWf {α : Type} [DecidableEq α] (d : α) (m : SMap α) : Bool :=
  smSorted m && m.all (fun e => decide (e.2 ≠ d))

/-- A byte memory: (address, byte) pairs in canonical form; an unlisted address reads 0 (R257, R259, R147). -/
abbrev Memory := List Host.Cell

/-- One byte. -/
def Memory.read (m : Memory) (a : Nat) : Byte := smGet (0 : Byte) m a

/-- Stores one byte; storing 0 removes the entry. -/
def Memory.write (m : Memory) (a : Nat) (b : Byte) : Memory := smSet (0 : Byte) m a b

/-- The canonical form of a memory. -/
def Memory.wf (m : Memory) : Bool := smWf (0 : Byte) m

/-- `n` bytes in ascending address order. -/
def Memory.readBytes (m : Memory) (a : Nat) : Nat → List Byte
  | 0 => []
  | n + 1 => m.read a :: m.readBytes (a + 1) n

/-- Stores bytes in ascending address order. -/
def Memory.writeBytes (m : Memory) (a : Nat) : List Byte → Memory
  | [] => m
  | b :: bs => (m.write a b).writeBytes (a + 1) bs

/-- Reads all of a range back as zero: every listed byte of it is dropped. -/
def Memory.zero (m : Memory) (lo hi : Nat) : Memory := smFilter (fun a _ => a < lo || hi ≤ a) m

/-- Little-endian bytes as a number (R12). -/
def bytesToNat : List Byte → Nat
  | [] => 0
  | b :: bs => b.toNat + 256 * bytesToNat bs

/-- A number as `n` little-endian bytes (R12). -/
def natToBytes : Nat → Nat → List Byte
  | 0, _ => []
  | n + 1, v => BitVec.ofNat 8 v :: natToBytes n (v / 256)

/-- A little-endian number of `n` bytes in memory. -/
def Memory.readNat (m : Memory) (a n : Nat) : Nat := bytesToNat (m.readBytes a n)

/-- Stores a number as `n` little-endian bytes. -/
def Memory.writeNat (m : Memory) (a n v : Nat) : Memory := m.writeBytes a (natToBytes n v)

/-- Increases a 64-bit counter, which holds at 2^64 − 1 (R219). -/
def satAdd64 (v n : Nat) : Nat := min (v + n) (2 ^ 64 - 1)

/-- Increases a 32-bit counter, which holds at 0xFFFF_FFFF (R329). -/
def satAdd32 (v n : Nat) : Nat := min (v + n) (2 ^ 32 - 1)

/-- A bank of 64-bit counters by register offset, all 0 at reset. -/
abbrev Counters := SMap Nat

def Counters.get (c : Counters) (off : Nat) : Nat := smGet 0 c off
def Counters.add (c : Counters) (off n : Nat) : Counters := smSet 0 c off (satAdd64 (smGet 0 c off) n)

/-- Replaces the element at a position; a position beyond the end changes nothing. -/
def listSet {α : Type} : List α → Nat → α → List α
  | [], _, _ => []
  | _ :: l, 0, v => v :: l
  | x :: l, n + 1, v => x :: listSet l n v

/-- The numbers 0 to n − 1 in ascending order. -/
def upTo (n : Nat) : List Nat := List.range n

end Sys2Proof.Machine
end

