-- ==== Sys2Proof/Machine/Crypto.lean ====
section
/-! DEFINITION. The check values, digests, seals and signatures of the K880 as functions of bytes: CRCs (R224, R225,
R392), SHA-256, HMAC and HKDF (R476, R489), AES-256-GCM (R368, R493), and the HSS/LMS verification of R477. -/

namespace Sys2Proof.Machine

/-! ## CRCs -/

/-- One bit-step of a reflected CRC. -/
def crcReflStep (poly c : Nat) : Nat := if c % 2 = 1 then (c / 2) ^^^ poly else c / 2

/-- `n` bit-steps of a reflected CRC. -/
def crcReflSteps (poly : Nat) : Nat → Nat → Nat
  | 0, c => c
  | n + 1, c => crcReflSteps poly n (crcReflStep poly c)

/-- A reflected CRC register after more bytes. -/
def crcReflFeed (poly : Nat) : List Byte → Nat → Nat
  | [], c => c
  | b :: bs, c => crcReflFeed poly bs (crcReflSteps poly 8 (c ^^^ b.toNat))

/-- One bit of an unreflected CRC of `w` bits: the bit enters at the top. -/
def crcBit (w poly c : Nat) (b : Bool) : Nat :=
  let top := c / 2 ^ (w - 1) % 2
  let c' := c * 2 % 2 ^ w
  if (top = 1) = (b = true) then c' else c' ^^^ poly

/-- An unreflected CRC over a list of bits. -/
def crcBits (w poly : Nat) : List Bool → Nat → Nat
  | [], c => c
  | b :: bs, c => crcBits w poly bs (crcBit w poly c b)

/-- The bits of a byte, most significant first. -/
def byteBitsMsb (b : Byte) : List Bool := [7, 6, 5, 4, 3, 2, 1, 0].map (fun i => b.getLsbD i)

/-- An unreflected CRC of `w` bits after more bytes. -/
def crcFeed (w poly : Nat) : List Byte → Nat → Nat
  | [], c => c
  | b :: bs, c => crcFeed w poly bs (crcBits w poly (byteBitsMsb b) c)

/-- CRC-32C of bytes (R392). -/
def crc32c (bs : List Byte) : Nat := crcReflFeed 0x82F63B78 bs 0xFFFFFFFF ^^^ 0xFFFFFFFF

/-- CRC-64/ECMA-182 of bytes (R392). -/
def crc64 (bs : List Byte) : Nat := crcFeed 64 0x42F0E1EBA9EA3693 bs 0

/-- The `n` low bits of a number, bit 0 first. -/
def bitsLsb : Nat → Nat → List Bool
  | 0, _ => []
  | n + 1, v => decide (v % 2 = 1) :: bitsLsb n (v / 2)

/-- The CRC-16 of a welt beat (R225): 4,096 data bits from position 0 upward, then the 8 header bits. -/
def weltCrc (data : BitVec 4096) (header : BitVec 8) : BitVec 16 :=
  BitVec.ofNat 16 (crcBits 16 0x1021 (bitsLsb 4096 data.toNat ++ bitsLsb 8 header.toNat) 0xFFFF)

/-! ## SHA-256 -/

/-- The greatest number below 2^b over `r` whose k-th power is at most `n`, bit by bit from the top. -/
def rootBits (k n : Nat) : Nat → Nat → Nat
  | 0, r => r
  | b + 1, r => rootBits k n b (if (r + 2 ^ b) ^ k ≤ n then r + 2 ^ b else r)

/-- The first 32 bits of the fraction of the k-th root of a prime below 2^9. -/
def rootFraction (k p : Nat) : Nat := rootBits k (p * 2 ^ (32 * k)) 37 0 % 2 ^ 32

/-- The primes below a bound that is at most 361: no prime up to 17 divides them. -/
def primesTo (n : Nat) : List Nat := (upTo n).filter fun p => decide (2 ≤ p) && [2, 3, 5, 7, 11, 13, 17].all fun q => q == p || p % q != 0

/-- The constants of SHA-256 (FIPS 180-4): the round constants come of the cube roots of the first 64 primes, the chaining
value that begins of the square roots of the first 8. -/
def shaK : List Nat := (primesTo 312).map (rootFraction 3)
def shaH0 : List Nat := (primesTo 20).map (rootFraction 2)

def rotr32 (x n : Nat) : Nat := (x >>> n) ||| ((x <<< (32 - n)) % 2 ^ 32)

/-- One round of SHA-256 over the working variables a to h. -/
def shaRound (k w : Nat) : List Nat → List Nat
  | [a, b, c, d, e, f, g, h] =>
    let s1 := rotr32 e 6 ^^^ rotr32 e 11 ^^^ rotr32 e 25
    let ch := (e &&& f) ^^^ ((0xFFFFFFFF - e) &&& g)
    let t1 := h + s1 + ch + k + w
    let s0 := rotr32 a 2 ^^^ rotr32 a 13 ^^^ rotr32 a 22
    let mj := (a &&& b) ^^^ (a &&& c) ^^^ (b &&& c)
    [(t1 + s0 + mj) % 2 ^ 32, a, b, c, (d + t1) % 2 ^ 32, e, f, g]
  | l => l

/-- The rounds of one block: the window holds the next 16 words of the message schedule. -/
def shaRounds : List Nat → List Nat → List Nat → List Nat
  | [], _, v => v
  | k :: ks, w, v =>
    let w0 := w.getD 0 0
    let w1 := w.getD 1 0
    let w14 := w.getD 14 0
    let s0 := rotr32 w1 7 ^^^ rotr32 w1 18 ^^^ (w1 >>> 3)
    let s1 := rotr32 w14 17 ^^^ rotr32 w14 19 ^^^ (w14 >>> 10)
    shaRounds ks (w.drop 1 ++ [(w0 + s0 + w.getD 9 0 + s1) % 2 ^ 32]) (shaRound k w0 v)

/-- The compression of one block of 16 words into the chaining value. -/
def shaBlock (h w : List Nat) : List Nat := (h.zip (shaRounds shaK w h)).map (fun p => (p.1 + p.2) % 2 ^ 32)

/-- Big-endian bytes as a number. -/
def beNat : List Byte → Nat := fun bs => bs.foldl (fun n b => n * 256 + b.toNat) 0

/-- A number as `n` big-endian bytes. -/
def natToBe (n v : Nat) : List Byte := (natToBytes n v).reverse

/-- Words of 4 big-endian bytes. -/
def beWords : List Byte → List Nat
  | a :: b :: c :: d :: r => (((a.toNat * 256 + b.toNat) * 256 + c.toNat) * 256 + d.toNat) :: beWords r
  | _ => []

/-- Compresses the first `n` blocks of a list of words. -/
def shaBlocks : Nat → List Nat → List Nat → List Nat
  | 0, _, h => h
  | n + 1, ws, h => shaBlocks n (ws.drop 16) (shaBlock h (ws.take 16))

/-- The padding of a message of `n` bytes. -/
def shaPad (n : Nat) : List Byte :=
  (0x80 : Byte) :: (List.replicate ((119 - n % 64) % 64) (0 : Byte) ++ natToBe 8 (8 * n))

/-- SHA-256 of bytes, as 32 bytes. -/
def sha256 (m : List Byte) : List Byte :=
  let p := m ++ shaPad m.length
  ((shaBlocks (p.length / 64) (beWords p) shaH0).map (natToBe 4)).flatten

/-- A digest held as a register of 256 bits: byte 0 in bits 7:0 (R12). -/
def digestBits (bs : List Byte) : BitVec 256 := BitVec.ofNat 256 (bytesToNat bs)
/-- The 32 bytes of a register of 256 bits. -/
def digestBytes (v : BitVec 256) : List Byte := natToBytes 32 v.toNat

def xorPad (v : Nat) (k : List Byte) : List Byte :=
  (k ++ List.replicate (64 - k.length) 0).map (fun b => b ^^^ BitVec.ofNat 8 v)

/-- HMAC-SHA-256 (R489). -/
def hmac (key m : List Byte) : List Byte :=
  let k := if key.length ≤ 64 then key else sha256 key
  sha256 (xorPad 0x5C k ++ sha256 (xorPad 0x36 k ++ m))

/-- The blocks T(i) of HKDF-Expand. -/
def hkdfBlocks (prk info : List Byte) : Nat → Nat → List Byte → List Byte
  | 0, _, _ => []
  | n + 1, i, prev =>
    let t := hmac prk (prev ++ info ++ [BitVec.ofNat 8 i])
    t ++ hkdfBlocks prk info n (i + 1) t

/-- HKDF-SHA-256 (RFC 5869): `n` bytes of output. -/
def hkdf (salt ikm info : List Byte) (n : Nat) : List Byte :=
  (hkdfBlocks (hmac salt ikm) info ((n + 31) / 32) 1 []).take n

/-! ## AES-256-GCM -/

def aesSbox : List Nat :=
  [99, 124, 119, 123, 242, 107, 111, 197, 48, 1, 103, 43, 254, 215, 171, 118, 202, 130, 201, 125, 250, 89, 71, 240, 173, 212, 162, 175, 156, 164, 114, 192] ++
  [183, 253, 147, 38, 54, 63, 247, 204, 52, 165, 229, 241, 113, 216, 49, 21, 4, 199, 35, 195, 24, 150, 5, 154, 7, 18, 128, 226, 235, 39, 178, 117] ++
  [9, 131, 44, 26, 27, 110, 90, 160, 82, 59, 214, 179, 41, 227, 47, 132, 83, 209, 0, 237, 32, 252, 177, 91, 106, 203, 190, 57, 74, 76, 88, 207] ++
  [208, 239, 170, 251, 67, 77, 51, 133, 69, 249, 2, 127, 80, 60, 159, 168, 81, 163, 64, 143, 146, 157, 56, 245, 188, 182, 218, 33, 16, 255, 243, 210] ++
  [205, 12, 19, 236, 95, 151, 68, 23, 196, 167, 126, 61, 100, 93, 25, 115, 96, 129, 79, 220, 34, 42, 144, 136, 70, 238, 184, 20, 222, 94, 11, 219] ++
  [224, 50, 58, 10, 73, 6, 36, 92, 194, 211, 172, 98, 145, 149, 228, 121, 231, 200, 55, 109, 141, 213, 78, 169, 108, 86, 244, 234, 101, 122, 174, 8] ++
  [186, 120, 37, 46, 28, 166, 180, 198, 232, 221, 116, 31, 75, 189, 139, 138, 112, 62, 181, 102, 72, 3, 246, 14, 97, 53, 87, 185, 134, 193, 29, 158] ++
  [225, 248, 152, 17, 105, 217, 142, 148, 155, 30, 135, 233, 206, 85, 40, 223, 140, 161, 137, 13, 191, 230, 66, 104, 65, 153, 45, 15, 176, 84, 187, 22]

def sub8 (x : Nat) : Nat := aesSbox.getD x 0
def xtime (x : Nat) : Nat := if x < 128 then 2 * x else (2 * x - 256) ^^^ 0x1B

def xorLists (a b : List Nat) : List Nat := (a.zip b).map (fun p => p.1 ^^^ p.2)

/-- Expands the words of an AES-256 key: `n` more words (4 bytes each, newest last), the next having index `i`. -/
def aesExpand : Nat → Nat → Nat → List (List Nat) → List (List Nat)
  | 0, _, _, ws => ws
  | n + 1, i, rcon, ws =>
    let prev := ws.getD (i - 1) []
    let old := ws.getD (i - 8) []
    let t := if i % 8 = 0 then xorLists ((prev.drop 1 ++ prev.take 1).map sub8) [rcon, 0, 0, 0]
      else if i % 8 = 4 then prev.map sub8 else prev
    aesExpand n (i + 1) (if i % 8 = 0 then xtime rcon else rcon) (ws ++ [xorLists old t])

/-- Cuts a list into pieces of `n`, `k` of them. -/
def chunks {α : Type} (n : Nat) : Nat → List α → List (List α)
  | 0, _ => []
  | k + 1, l => l.take n :: chunks n k (l.drop n)

/-- The 15 round keys of an AES-256 key, 16 bytes each. -/
def aesKeys (key : List Byte) : List (List Nat) :=
  (chunks 4 15 (aesExpand 52 8 1 (chunks 4 8 (key.map BitVec.toNat)))).map List.flatten

def shiftRows (s : List Nat) : List Nat :=
  [0, 5, 10, 15, 4, 9, 14, 3, 8, 13, 2, 7, 12, 1, 6, 11].map (fun i => s.getD i 0)

def mixColumn : List Nat → List Nat
  | [a, b, c, d] =>
    [xtime a ^^^ (xtime b ^^^ b) ^^^ c ^^^ d, a ^^^ xtime b ^^^ (xtime c ^^^ c) ^^^ d,
     a ^^^ b ^^^ xtime c ^^^ (xtime d ^^^ d), (xtime a ^^^ a) ^^^ b ^^^ c ^^^ xtime d]
  | l => l

/-- The rounds after the first key addition; the last omits the column mix. -/
def aesRounds : List (List Nat) → List Nat → List Nat
  | [], s => s
  | [k], s => xorLists (shiftRows (s.map sub8)) k
  | k :: ks, s => aesRounds ks (xorLists ((chunks 4 4 (shiftRows (s.map sub8))).map mixColumn).flatten k)

/-- One AES block under expanded keys. -/
def aesBlock (ks : List (List Nat)) (b : List Byte) : List Byte :=
  (aesRounds (ks.drop 1) (xorLists (b.map BitVec.toNat) (ks.headD []))).map (BitVec.ofNat 8)

/-- The inverses of the byte substitution and of the row rotation, and of the column mix, whose order is 4. -/
def unsub8 (y : Nat) : Nat := ((upTo 256).find? fun x => sub8 x == y).getD 0
def unshiftRows (s : List Nat) : List Nat := ((upTo 16).map fun i => s.getD (13 * i % 16) 0).map unsub8
def unmixColumn (c : List Nat) : List Nat := mixColumn (mixColumn (mixColumn c))

/-- The rounds of the inverse cipher after the last key's addition, the other round keys newest first. -/
def aesUnrounds : List (List Nat) → List Nat → List Nat
  | [], s => s
  | [k], s => xorLists (unshiftRows s) k
  | k :: ks, s => aesUnrounds ks ((chunks 4 4 (xorLists (unshiftRows s) k)).map unmixColumn).flatten

/-- One AES block deciphered under expanded keys. -/
def aesUnblock (ks : List (List Nat)) (b : List Byte) : List Byte :=
  let rs := ks.reverse
  (aesUnrounds (rs.drop 1) (xorLists (b.map BitVec.toNat) (rs.headD []))).map (BitVec.ofNat 8)

/-! ## AES-256-XTS (R255, R256, IEEE 1619) -/

/-- The tweak of the next block: multiplication by α. -/
def xtsNext (t : Nat) : Nat := if t < 2 ^ 127 then 2 * t else (2 * t - 2 ^ 128) ^^^ 0x87

/-- The blocks of a data unit from a block's tweak on. -/
def xtsBlocks (f : List Byte → List Byte) : Nat → Nat → List Byte → List Byte
  | 0, _, _ => []
  | n + 1, t, bs =>
    let x := natToBytes 16 t
    (f ((bs.take 16).zipWith (· ^^^ ·) x)).zipWith (· ^^^ ·) x ++ xtsBlocks f n (xtsNext t) (bs.drop 16)

/-- A 64-byte data unit under a 512-bit key, the key of the data first, with the number of the unit as its tweak. -/
def xtsUnit (f : List (List Nat) → List Byte → List Byte) (key : BitVec 512) (unit : Nat) (bs : List Byte) : List Byte :=
  let k := natToBytes 64 key.toNat
  xtsBlocks (f (aesKeys (k.take 32))) 4 (bytesToNat (aesBlock (aesKeys (k.drop 32)) (natToBytes 16 unit))) bs
def xtsEncrypt := xtsUnit aesBlock
def xtsDecrypt := xtsUnit aesUnblock

/-- Multiplication in the field of GHASH: the first operand's bits run from the most significant. -/
def gf128 : Nat → Nat → Nat → Nat → Nat
  | 0, _, _, z => z
  | n + 1, x, v, z =>
    gf128 n x (if v % 2 = 1 then (v / 2) ^^^ (0xE1 * 2 ^ 120) else v / 2) (if x / 2 ^ n % 2 = 1 then z ^^^ v else z)

/-- GHASH over 16-byte blocks. -/
def ghash (h : Nat) : List (List Byte) → Nat → Nat
  | [], y => y
  | b :: bs, y => ghash h bs (gf128 128 (y ^^^ beNat b) h 0)

/-- Bytes padded with zeros to whole blocks of 16. -/
def padBlocks (l : List Byte) : List (List Byte) :=
  let n := (l.length + 15) / 16
  chunks 16 n (l ++ List.replicate (16 * n - l.length) 0)

/-- The key stream of GCM from counter `c` on. -/
def gcmStream (ks : List (List Nat)) (iv : List Byte) : Nat → Nat → List Byte
  | 0, _ => []
  | n + 1, c => aesBlock ks (iv ++ natToBe 4 c) ++ gcmStream ks iv n (c + 1)

def gcmTag (ks : List (List Nat)) (iv aad ct : List Byte) : List Byte :=
  let h := beNat (aesBlock ks (List.replicate 16 0))
  let y := ghash h (padBlocks aad ++ padBlocks ct ++ [natToBe 8 (8 * aad.length) ++ natToBe 8 (8 * ct.length)]) 0
  let s := aesBlock ks (iv ++ natToBe 4 1)
  (natToBe 16 y).zipWith (· ^^^ ·) s

/-- The counter-mode part of AES-256-GCM: encrypts or decrypts. -/
def gcmCrypt (ks : List (List Nat)) (iv pt : List Byte) : List Byte :=
  pt.zipWith (· ^^^ ·) (gcmStream ks iv ((pt.length + 15) / 16) 2)

/-- AES-256-GCM with a 12-byte IV: ciphertext and 16-byte tag. -/
def gcmSeal (key iv aad pt : List Byte) : List Byte × List Byte :=
  let ks := aesKeys key
  let ct := gcmCrypt ks iv pt
  (ct, gcmTag ks iv aad ct)

/-- Opens a sealed text; none when the first `tagLen` bytes of the tag differ. -/
def gcmOpen (key iv aad ct tag : List Byte) (tagLen : Nat) : Option (List Byte) :=
  let ks := aesKeys key
  if (gcmTag ks iv aad ct).take tagLen = tag.take tagLen then some (gcmCrypt ks iv ct) else none

/-! ## HSS/LMS verification (R477, RFC 8554) -/

/-- Height of an LMS type; none for a type R477 does not list. -/
def lmsHeight : Nat → Option Nat
  | 6 => some 10 | 7 => some 15 | 8 => some 20 | 9 => some 25 | _ => none

/-- Window, chains and checksum shift of an LM-OTS type. -/
def otsParams : Nat → Option (Nat × Nat × Nat)
  | 3 => some (4, 67, 4) | 4 => some (8, 34, 0) | _ => none

/-- Applies the chain hash from step `j`, `n` times. -/
def otsChain (pre : List Byte) : Nat → Nat → List Byte → List Byte
  | 0, _, t => t
  | n + 1, j, t => otsChain pre n (j + 1) (sha256 (pre ++ [BitVec.ofNat 8 j] ++ t))

/-- Digits of `w` bits of bytes, most significant first. -/
def otsDigits (w : Nat) (bs : List Byte) : List Nat :=
  if w = 8 then bs.map BitVec.toNat else (bs.map (fun b => [b.toNat / 16, b.toNat % 16])).flatten

/-- The ends of the chains. -/
def otsEnds (idq : List Byte) (w : Nat) : List Nat → Nat → List Byte → List Byte
  | [], _, _ => []
  | a :: r, i, y =>
    otsChain (idq ++ natToBe 2 i) (2 ^ w - 1 - a) a (y.take 32) ++ otsEnds idq w r (i + 1) (y.drop 32)

/-- Climbs from a leaf to the root of an LMS tree. -/
def lmsRoot (i : List Byte) : Nat → Nat → List Byte → List Byte → List Byte
  | 0, _, _, t => t
  | n + 1, node, path, t =>
    let pre := i ++ natToBe 4 (node / 2) ++ natToBe 2 0x8383
    let sib := path.take 32
    lmsRoot i n (node / 2) (path.drop 32) (sha256 (pre ++ (if node % 2 = 1 then sib ++ t else t ++ sib)))

/-- Bytes of an LMS signature of the given types. -/
def lmsSigLen (p h : Nat) : Nat := 4 + 4 + 32 + 32 * p + 4 + 32 * h

/-- Verifies one LMS signature under a 56-byte LMS public key. -/
def lmsVerify (pk m sig : List Byte) : Bool :=
  let lt := beNat (pk.take 4)
  let ot := beNat ((pk.drop 4).take 4)
  let i := (pk.drop 8).take 16
  match lmsHeight lt, otsParams ot with
  | some h, some (w, p, ls) =>
    let q := beNat (sig.take 4)
    let c := (sig.drop 8).take 32
    let y := (sig.drop 40).take (32 * p)
    let rest := sig.drop (40 + 32 * p)
    let idq := i ++ natToBe 4 q
    let qh := sha256 (idq ++ natToBe 2 0x8181 ++ c ++ m)
    let ck := (otsDigits w qh).foldl (fun s d => s + (2 ^ w - 1 - d)) 0 * 2 ^ ls
    let digits := (otsDigits w (qh ++ natToBe 2 ck)).take p
    let k := sha256 (idq ++ natToBe 2 0x8080 ++ otsEnds idq w digits 0 y)
    let leaf := sha256 (i ++ natToBe 4 (2 ^ h + q) ++ natToBe 2 0x8282 ++ k)
    decide (pk.length = 56) && decide (sig.length = lmsSigLen p h) && decide (beNat ((sig.drop 4).take 4) = ot) &&
      decide (beNat (rest.take 4) = lt) && decide (q < 2 ^ h) &&
      decide (lmsRoot i h (2 ^ h + q) (rest.drop 4) leaf = pk.drop 24)
  | _, _ => false

/-- Bytes of the LMS signature that begins a text, under a public key. -/
def lmsLenOf (pk : List Byte) : Nat :=
  match lmsHeight (beNat (pk.take 4)), otsParams (beNat ((pk.drop 4).take 4)) with
  | some h, some (_, p, _) => lmsSigLen p h
  | _, _ => 0

/-- Verifies an HSS signature of one or two levels under an HSS public key of 60 bytes (R477). -/
def hssVerify (pk m sig : List Byte) : Bool :=
  let l := beNat (pk.take 4)
  let top := (pk.drop 4).take 56
  if decide (l = 1) then decide (beNat (sig.take 4) = 0) && lmsVerify top m (sig.drop 4)
  else if decide (l = 2) then
    let n := lmsLenOf top
    let s0 := (sig.drop 4).take n
    let pk1 := (sig.drop (4 + n)).take 56
    decide (beNat (sig.take 4) = 1) && lmsVerify top pk1 s0 && lmsVerify pk1 m (sig.drop (60 + n))
  else false

/-- Whether a key has the parameter set of the Aveth keys (R477): two levels of H20 and W8. -/
def avethParams (pk : List Byte) : Bool :=
  decide (pk.length = 60) && decide (beNat (pk.take 4) = 2) && decide (beNat ((pk.drop 4).take 4) = 8) &&
    decide (beNat ((pk.drop 8).take 4) = 4)

/-- Whether a key has a parameter set of the image and policy keys (R477). -/
def operatorParams (pk : List Byte) : Bool :=
  decide (pk.length = 60) && (decide (beNat (pk.take 4) = 1) || decide (beNat (pk.take 4) = 2)) &&
    (lmsHeight (beNat ((pk.drop 4).take 4))).isSome && (otsParams (beNat ((pk.drop 8).take 4))).isSome

end Sys2Proof.Machine
end

