-- ==== Sys2Proof/Machine/Ecc.lean ====
section
/-! DEFINITION. The check codes (R260, R261): the Reed–Solomon code over GF(2^8) of an HBM unit, its address symbols, pins
and decoder, and the extended Hamming codes of the SRAM words. A part's errors are patterns of flipped bits. -/

namespace Sys2Proof.Machine

/-! ## GF(2^8) (R260) -/

/-- Multiplication by α, a root of x^8 + x^4 + x^3 + x^2 + 1. -/
def gfAlpha (a : Nat) : Nat := if a < 128 then 2 * a else (2 * a) ^^^ 0x11D

/-- Product of two field elements: `n` bits of the second remain, from bit 0. -/
def gfMulBits : Nat → Nat → Nat → Nat
  | 0, _, _ => 0
  | n + 1, a, b => (if b % 2 = 1 then a else 0) ^^^ gfMulBits n (gfAlpha a) (b / 2)
def gfMul (a b : Nat) : Nat := gfMulBits 8 a b

/-- α^n. -/
def gfExp : Nat → Nat
  | 0 => 1
  | n + 1 => gfAlpha (gfExp n)

/-- The inverse a^254, by squares: a^2 · a^4 ⋯ a^128. -/
def gfInv (a : Nat) : Nat :=
  let sq := fun x => gfMul x x
  let s1 := sq a
  let s2 := sq s1
  let s3 := sq s2
  let s4 := sq s3
  let s5 := sq s4
  let s6 := sq s5
  gfMul s1 (gfMul s2 (gfMul s3 (gfMul s4 (gfMul s5 (gfMul s6 (sq s6))))))

/-! ## The code of an HBM unit (R260) -/

/-- Multiplies a polynomial, highest coefficient first, by z − r. -/
def polyRoot (p : List Nat) (r : Nat) : List Nat := List.zipWith (· ^^^ ·) (p ++ [0]) (0 :: p.map (gfMul r))
/-- g(z), highest coefficient first: the product of z − α^i for i = 0 to 7. -/
def rsGenerator : List Nat := (upTo 8).foldl (fun p i => polyRoot p (gfExp i)) [1]

/-- The 5 address symbols of a unit, least significant byte first; they are not stored. -/
def addressSymbols (unit : Nat) : List Nat := (natToBytes 5 unit).map BitVec.toNat

/-- Feeds one message symbol to the division by g(z). -/
def rsFeed (rem : List Nat) (m : Nat) : List Nat :=
  let f := m ^^^ rem.headD 0
  List.zipWith (· ^^^ ·) (rem.drop 1 ++ [0]) ((rsGenerator.drop 1).map (gfMul f))
/-- The 8 check symbols of a unit's 64 stored bytes. -/
def rsCheck (unit : Nat) (data : List Nat) : List Nat :=
  (addressSymbols unit ++ data).foldl rsFeed (List.replicate 8 0)

/-- A codeword's value at a point, its first symbol the highest coefficient. -/
def polyAt (x : Nat) (c : List Nat) : Nat := c.foldl (fun a b => gfMul a x ^^^ b) 0
/-- The eight syndromes. -/
def rsSyndromes (c : List Nat) : List Nat := (upTo 8).map fun i => polyAt (gfExp i) c

/-- What a decode answers: nothing wrong, the symbols to correct with their errors, or an uncorrectable unit. -/
inductive Decoded where
  | clean
  | fixed (errors : List (Nat × Nat))
  | bad
deriving DecidableEq, Repr

/-- The symbols (by their place in the codeword, 0 the first) whose error locator is a root of X² + aX + b. -/
def rsRoots (a b : Nat) : List Nat := (upTo 77).filter fun j => let x := gfExp (76 - j); gfMul (x ^^^ a) x ^^^ b == 0

/-- Whether syndromes obey S(i+2) = a S(i+1) + b S(i) throughout. -/
def rsFollows (a b : Nat) : List Nat → Bool
  | x :: y :: z :: r => (gfMul a y ^^^ gfMul b x) == z && rsFollows a b (y :: z :: r)
  | _ => true

/-- Decodes by the syndromes: one error when each is the one before times its locator, two when they follow a locator
polynomial with two roots among the 77 places. An error placed in an address symbol is uncorrectable (R260). -/
def rsDecode (s : List Nat) : Decoded :=
  let s0 := s.getD 0 0
  let s1 := s.getD 1 0
  let s2 := s.getD 2 0
  let s3 := s.getD 3 0
  let place := fun (es : List (Nat × Nat)) => if es.all (fun e => decide (5 ≤ e.1)) then Decoded.fixed es else .bad
  let det := gfMul s0 s2 ^^^ gfMul s1 s1
  if s.all (· == 0) then .clean
  else if det = 0 then
    let x := gfMul s1 (gfInv s0)
    match (upTo 77).find? fun j => gfExp (76 - j) == x with
    | some j => if s0 ≠ 0 && (upTo 7).all (fun i => gfMul x (s.getD i 0) == s.getD (i + 1) 0) then place [(j, s0)] else .bad
    | none => .bad
  else
    let d := gfInv det
    let a := gfMul (gfMul s0 s3 ^^^ gfMul s1 s2) d
    let b := gfMul (gfMul s1 s3 ^^^ gfMul s2 s2) d
    match rsRoots a b with
    | [j, k] =>
      let x := gfExp (76 - j)
      let y := gfExp (76 - k)
      let e := gfMul (s1 ^^^ gfMul y s0) (gfInv (x ^^^ y))
      if rsFollows a b s then place [(j, e), (k, e ^^^ s0)] else .bad
    | _ => .bad

/-- The 72 stored symbols of a unit: 64 data bytes, then 8 check symbols. Bit 16j + t is what pin j carries in beat t: pins 0
to 31 carry data and 32 to 35 check bits, so that stored symbol 2j + b lies on pin j in beats 8b to 8b + 7 (R260). -/
abbrev Stored := BitVec 576
def Stored.symbols (v : Stored) : List Nat := (natToBytes 72 v.toNat).map BitVec.toNat
/-- The stored form of 64 bytes at a unit. -/
def encodeUnit (unit : Nat) (data : List Byte) : Stored :=
  BitVec.ofNat 576 (bytesToNat (data ++ (rsCheck unit (data.map BitVec.toNat)).map (BitVec.ofNat 8)))
/-- Decodes a unit as it is read: the address symbols are made anew from the address requested. -/
def decodeUnit (unit : Nat) (v : Stored) : Decoded := rsDecode (rsSyndromes (addressSymbols unit ++ v.symbols))
/-- The stored bits that a correction flips. -/
def fixMask (es : List (Nat × Nat)) : Stored :=
  BitVec.ofNat 576 (es.foldl (fun m e => m + e.2 * 2 ^ (8 * (e.1 - 5))) 0)

/-! ## The codes of the SRAM words (R261) -/

/-- Bits set among the `n` low ones. -/
def bitCount (n v : Nat) : Nat := ((upTo n).filter fun i => v.testBit i).length

/-- What a read of a word with flipped bits finds: its data bits are the low `d` of `n`. One flip is corrected and two are
detected; what the code makes of more is internal to the device: detected, or some data bits left wrong (R261). -/
def readWord (n d v : Nat) : Option Nat :=
  let c := bitCount n v
  if c ≤ 1 then some 0 else if c = 2 then none else (Config.manyFlips n v).map (· % 2 ^ d)

end Sys2Proof.Machine
end

