-- ==== Sys2Proof/Machine/State.lean ====
section
/-! DEFINITION. The state of the K880: every register, memory, table, queue, mode and record the spec gives the device,
as plain data, and the state after reset. Tables that are wide and mostly empty are sparse (Machine/Map.lean). -/

namespace Sys2Proof.Machine

/-- Why a step stops with a fault. -/
inductive Fault where
  /-- Raised by RED with a request that a home slice does not accept (R208): no unit of the device sends one. Safe: the
  model stops. -/
  | illFormed
deriving DecidableEq, Repr

/-- Why a command has no meaning. -/
inductive Refusal where
  /-- Raised by the dispatch alone for a row that has no meaning yet. Safe: the model stops. -/
  | notModelled (mnemonic : String)
deriving DecidableEq, Repr

/-! ## Device -/

/-- The device states of R6, in the order of their codes. -/
inductive Mode where
  | off | aon | boot | bringup | check | ready | held | limp | shutdown
deriving DecidableEq, Repr

/-- The code MGT_STATE reports (R6). -/
def Mode.code : Mode → Nat
  | .off => 0 | .aon => 1 | .boot => 2 | .bringup => 3 | .check => 4 | .ready => 5 | .held => 6 | .limp => 7 | .shutdown => 8

/-- The resets that can be held back (R414). -/
inductive ResetKind where
  | warm | compute
deriving DecidableEq, Repr

/-- How far the cold sequence (R402) or the slip-on path (R415) has come. -/
inductive BringStep where
  | idle
  /-- Step 2: the boot ROM chooses a pair. -/
  | pair
  /-- Step 3: stacks are powered. -/
  | power
  /-- Step 4: start-up tests. -/
  | tests
  /-- Step 5: the welt, HBM and the lacing train. -/
  | training
  /-- Step 6: the floor plan. -/
  | plan
  /-- Step 7: ports train. -/
  | ports
  /-- Step 8: the comparison with the last. -/
  | compare
  /-- A slip-on of all stacks, warm or compute, is running (R415). -/
  | slip
deriving DecidableEq, Repr

/-- A slip-on in progress (R415): the stacks it resets and whether it follows a warm reset. -/
structure Slip where
  warm : Bool
  /-- Step 2 of R402 runs first, because an active slot pointer changed (R416). -/
  viaPair : Bool
deriving DecidableEq, Repr

structure Dev where
  mode : Mode
  cause : Byte
  step : BringStep
  /-- Stacks powered in step 3, and stacks that have settled or failed (R403). -/
  stackUp : BitVec 8
  stackSettled : BitVec 8
  /-- Units the start-up tests and trainings of this bring-up found bad, awaiting step 6 (R404). -/
  found : List (UnitId × Byte)
  weltTrained : BitVec 8
  hbmTrained : Bool
  heldReset : Option ResetKind
  slip : Option Slip
  /-- Stacks under a compute reset of their own while the device stays in READY (R413). -/
  stackReset : BitVec 8
  /-- The device has entered READY since the last cold or warm reset (RWL, R14). -/
  entered : Bool
  /-- HELD was reached after port training (R384). -/
  portsTrained : Bool
  /-- Step 3 waits for a stable input after a device-fatal input fault (R429). -/
  waitInput : Bool
  /-- Cause 0x12 latched by the always-on domain for the boot ROM (R513). -/
  latched : Option Byte
  /-- An install has changed an active slot pointer since the boot (R416). -/
  slotChanged : Bool
  mfwVersion : Word
  dfwVersion : Word
  /-- SHA-256 of the DFW recorded at boot (R415). -/
  dfwDigest : BitVec 256
  /-- Last port-training attempts that failed, by port (R358). -/
  attempts : SMap Nat
  /-- Clocks of the tiles and soles stopped by a thermal shutdown whose power removal is still to come (R470). -/
  shuttingDown : Bool
  /-- A stack-fatal fault found at a bring-up or in service makes the stack unable to power (R403, R432, R443). -/
  cannotPower : BitVec 8
  /-- The variant, counter and bytes of the licence in force (R425): what the record held at the last bring-up. -/
  licence : Nat × Byte × List Byte
  /-- The last in force at the present CHECK (R409): its 160 bytes. -/
  last : Option (List Byte)
deriving DecidableEq, Repr

/-- A welt wire that the fuse map marks steered or bad (R233). -/
structure FuseWire where
  ch   : Fin 512
  down : Bool
  wire : Wire
deriving DecidableEq, Repr

/-- What is fused or fixed in this part. -/
structure Part where
  serial : Dword
  upperStepping : BitVec 16
  soleStepping : BitVec 16
  iodStepping : BitVec 16
  /-- The fuse map's bad units (R33, R404) and welt wires (R233). -/
  fuseBad : List UnitId
  fuseWires : List FuseWire
  /-- K_p of each regulator phase, µΩ, by 292 × stack + phase (R439). -/
  kp : SMap Nat
  /-- The three Aveth keys of the boot ROM (R475, R477), 60 bytes each. -/
  firmwareKey : List Byte
  licenceKey : List Byte
  deviceCaKey : List Byte
  /-- The boot ROM's contents, whose digest MR0 is extended with (R475). -/
  rom : List Byte
  /-- The device certificate in flash (R481). -/
  certificate : List Byte
deriving DecidableEq, Repr

/-! ## MRAM and flash -/

/-- A record held as two copies; a copy whose digest fails is absent (R405). -/
structure TwoCopy (α : Type) where
  a : Option α
  b : Option α
deriving DecidableEq, Repr

/-- A floor-plan unit entry (R33). -/
structure UnitEntry where
  state : Byte
  reason : Byte
  detail : BitVec 16
deriving DecidableEq, Repr

/-- The floor plan: the entries that differ from WORKING, by kind and global number (R31 to R34). -/
structure Plan where
  tile : SMap UnitEntry
  slice : SMap UnitEntry
  welt : SMap UnitEntry
  hbmStack : SMap UnitEntry
  hbmChannel : SMap UnitEntry
  lacing : SMap UnitEntry
  port : SMap UnitEntry
  /-- The REASON a stack below a minimum carries: of the unit removed last (R34). -/
  stackReason : SMap Byte
  generation : Word
  aonCount : Dword
  origin : Byte
  /-- The variant in force at the commit, whose ports LICENSED_PORTS counts (R32). -/
  variant : Byte
deriving DecidableEq, Repr

/-- A regulator phase (by 292 × stack + phase) or region of the defect record is listed by number. -/
structure Defects where
  units : List (UnitId × Byte)
  /-- Failed integrated phases, by 292 × stack + phase (R440, R441). -/
  phases : List Nat
  /-- Failed module phases, by 14 × stack + phase (R432). -/
  modulePhases : List Nat
  /-- Broken sensors, by 96 × die code + sensor (R464). -/
  sensors : List Nat
  /-- The INCOMPLETE mark of a rebuilt record (R405). -/
  incomplete : Bool
deriving DecidableEq, Repr

/-- One port entry of the last (R409). -/
structure LastEntry where
  neighbour : BitVec 16
  nport : Byte
  width : Byte
  policy : Byte
deriving DecidableEq, Repr

structure LastTable where
  /-- The 160 bytes as installed. -/
  bytes : List Byte
  entries : List LastEntry
deriving DecidableEq, Repr

structure Licence where
  counter : Word
  variant : Byte
  /-- The licence's bytes; none for the factory licence (R425). -/
  bytes : List Byte
deriving DecidableEq, Repr

/-- The active slot of each kind: false slot A, true slot B (R405, R420). -/
structure SlotPointers where
  mfw : Bool
  dfw : Bool
deriving DecidableEq, Repr

structure Floors where
  mfw : Word
  dfw : Word
deriving DecidableEq, Repr

/-- A security policy (R495). -/
structure Policy where
  counter : Word
  flags : Word
  /-- The policy key and the image keys, as stored (64 bytes each); an absent policy key is all zero. -/
  policyKey : List Byte
  imageKeys : List (List Byte)
  peers : List Dword
  bytes : List Byte
deriving DecidableEq, Repr

/-- An entry of a route table (R372, R388). -/
structure RouteEntry where
  hop0 : BitVec 5
  hop1 : BitVec 5
  hop2 : BitVec 5
  hop3 : BitVec 5
  mask : BitVec 18
deriving DecidableEq, Repr

/-- An audit entry (R501). -/
structure AuditEntry where
  index : Dword
  aonCount : Dword
  origin : Byte
  originId : BitVec 16
  event : BitVec 16
  job : Word
  payload : BitVec 512
  chain : BitVec 256
deriving DecidableEq, Repr

/-- The tread counter of a stack (R239, R240), temperatures in quarter degrees. -/
structure Tread where
  low : Option Int
  high : Option Int
  armed : Bool
  count : Word
deriving DecidableEq, Repr

/-- A recorded HBM row or sole word (R264): the LOCATION, the row it stands for, and whether a bring-up has applied it. -/
structure RepairRecord where
  location : Dword
  row : Dword
  applied : Bool
deriving DecidableEq, Repr

structure Mram where
  generation : Word
  defects : TwoCopy Defects
  plan : TwoCopy (Option Plan)
  last : TwoCopy (Option LastTable)
  licence : TwoCopy Licence
  slots : TwoCopy SlotPointers
  floors : TwoCopy Floors
  policy : TwoCopy Policy
  /-- The signature index q (R482), in two copies, and the last level-1 tree generated (R484). -/
  sigIndex : TwoCopy Nat
  tree : Nat
  fabricId : BitVec 16
  groupTable : SMap RouteEntry
  memberTable : SMap RouteEntry
  auditHead : Dword
  auditAck : Dword
  audit : SMap AuditEntry
  bbHead : Nat
  bbA : SMap (BitVec 512)
  bbB : SMap (BitVec 512)
  bbDropped : Word
  bbRepaired : Word
  tread : SMap Tread
  hbmRows : List RepairRecord
  soleWords : List RepairRecord
  /-- Steering maps (R228), by 2 × global channel + direction (0 up, 1 down), then by spare: the position carried, or
  0x1FFE bad; an unlisted spare is unused (0x1FFF). -/
  steer : SMap (SMap Nat)
  shutdowns : Word
deriving DecidableEq, Repr

/-- The firmware slots in flash; none: empty (R402, R417). -/
structure Flash where
  mfwA : Option (List Byte)
  mfwB : Option (List Byte)
  dfwA : Option (List Byte)
  dfwB : Option (List Byte)
deriving DecidableEq, Repr

/-! ## Host link and jobs -/

structure HostLink where
  up : Bool
  width : BitVec 5
  rate : BitVec 3
  ide : Bool
  /-- Host memory, as the device reaches it through the link. -/
  mem : Memory
  /-- Ranges of host memory whose accesses fail on the link: base and length (R337, R344). -/
  failing : List (Nat × Nat)
  /-- What the last host read returned (the model's own observable). -/
  lastRead : List Byte
  /-- What the last sideband request returned (the model's own observable); none: an error response. -/
  sideband : Option (List Byte)
deriving DecidableEq, Repr

/-- A completion waiting to be posted (R343). -/
structure Completion where
  slot : Nat
  status : Byte
  hostTag : Word
  job : Word
  opcode : Byte
  detail : Byte
  result : Dword
deriving DecidableEq, Repr

structure Ring where
  enable : Bool
  log2 : BitVec 4
  cmdBase : Dword
  cplBase : Dword
  /-- RING_DB: doorbell line address and SLOT (R327). -/
  db : Dword
  error : Bool
  errorCode : BitVec 4
  writeIgnored : Bool
  ci : Word
  cpi : Word
  /-- PI and CCI as last read from the doorbell slot (R331). -/
  pi : Word
  cci : Word
  waiting : List Completion
  /-- Completion-ring lines the device holds with ownership (R316, R336). -/
  owned : List Nat
deriving DecidableEq, Repr

/-- A descriptor fetched and not completed (R335). -/
structure InFlight where
  ring : Nat
  idx : Word
  bytes : BitVec 512
  /-- It has started: a job, a BIST or a stepped set still runs for it. -/
  started : Bool
deriving DecidableEq, Repr

/-- A kernel-table entry (R350). -/
structure Kernel where
  entry : Nat
  first : Nat
  count : Nat
  cls : BitVec 3
deriving DecidableEq, Repr

/-- The header fields of a Silain image that a job keeps (R349). -/
structure Image where
  stackBits : BitVec 8
  l1Split : Nat
  nR : Nat
  nV : Nat
  lG : Nat
  rngLane : Bool
  rekey : Bool
  kvPage : Nat
  seed : Dword
  fI : Nat
  fS : List Nat
  descriptors : List Nat
  poolBase : List Nat
  poolPages : List Nat
  argBase : Nat
  argLength : Nat
  kernels : List Kernel
  lmodes : SMap Nat
  code : List Byte
  digest : BitVec 256
deriving DecidableEq, Repr

/-- What decided a job's end (R348, R511, R516). -/
structure JobEnd where
  status : Byte
  detail : Byte
  aonCount : Dword
  tile : Word
  group : Word
  lanes : Word
  pc : Word
  /-- CLASS and CODE of the fault record, 0 when no fault ended the job. -/
  cls : Byte
  code : Byte
  affected : BitVec 8
  info : BitVec 256
  bbIndex : Word
  /-- No completion is posted, after an event of R318. -/
  silent : Bool
deriving DecidableEq, Repr

structure Job where
  image : Image
  /-- The LAUNCH descriptor's ring, index and HOST_TAG. -/
  ring : Nat
  idx : Word
  hostTag : Word
  faultAddr : Dword
  /-- The lowest group identifier not yet dispatched, and groups that ended by EXIT. -/
  nextGroup : Nat
  exited : Nat
  /-- Suspended: by SUSPEND or START_SUSPENDED (R155); `everStarted` is false until a RESUME starts the latter. -/
  suspended : Bool
  everStarted : Bool
  context : Option (Nat × Nat)
  /-- The policy FLAGS at LAUNCH (R498) and the bound key slot (R492). -/
  flags : Word
  keySlot : Option Nat
  d2hCounter : Nat
  h2dHighest : Option Nat
  ended : Option JobEnd
  suppressed : Word
  /-- SUSPENDs in flight: ring, index (R150). -/
  suspending : Bool
deriving DecidableEq, Repr

/-- The BAR0 and indirect registers that only hold what is written, and the other state of the MGT block. -/
structure Mgt where
  statusPage : Dword
  heartbeat : Dword
  fwBusy : Bool
  fwResult : BitVec 4
  /-- The image the install in progress has read, and whether the read failed (R325). -/
  fwImage : List Byte
  fwReadFailed : Bool
  bar2Job : Word
  bar2Drops : Word
  linkDowns : Word
  flrs : Word
  bar0Bad : Word
  hostErrors : Word
  /-- The ring at which the search for the next turn of fetching begins (R335). -/
  turn : Nat
deriving DecidableEq, Repr

/-! ## Tiles -/

/-- Power of a tile's region as TILE_STATUS codes it (R157, R454). -/
inductive Power where
  | on | ramping | parked | off | dark
deriving DecidableEq, Repr

/-- A WP96 value without its anchor (R47, R48): the integer and FLAGS[4:0]. -/
structure Wide where
  int : Int
  flags : BitVec 5
deriving DecidableEq, Repr

/-- A WP96 value with its anchor. -/
structure Wp96 where
  int : Int
  anchor : Int
  flags : BitVec 5
deriving DecidableEq, Repr

/-- A face of the cube array held by a group (R73): the owner (group identifier and its slot), the anchor and the
4,096 accumulators by 64 × row + column, those that differ from zero. -/
structure Face where
  held : Bool
  owner : Word
  ownerSlot : Nat
  anchor : Int
  acc : SMap Wide
deriving DecidableEq, Repr

/-- An array operation in the queue: its descriptor as read at acceptance (R76) and who issued it. -/
structure ArrayOp where
  slot : Nat
  group : Word
  aod : BitVec 640
  word : BitVec 64
  pc : Word
  lanes : Word
  /-- Vector instructions issued before it whose results it must see (R105). -/
  afterVec : Nat
  /-- The local-store address of its AOD (R517). -/
  base : Nat
deriving DecidableEq, Repr

/-- An array operation that has run and whose last result is not yet visible (R83). -/
structure ArrayDone where
  slot : Nat
  group : Word
  /-- The bytes to write: address and byte, in order. -/
  writes : List (Nat × Byte)
  flags : BitVec 5
  exceptions : BitVec 4
  busy : Nat
deriving DecidableEq, Repr

/-- A vector or RNGV instruction in the queue with its scalar operands (R103): thread registers XS to XS+3. -/
structure VecOp where
  slot : Nat
  group : Word
  word : BitVec 64
  xs : List Word
  pc : Word
  lanes : Word
deriving DecidableEq, Repr

/-- A vector instruction whose occupancy has ended and whose results await visibility (R104). -/
structure VecDone where
  slot : Nat
  group : Word
  /-- Destination bytes: base and length, for the waits of R105. -/
  base : Nat
  len : Nat
  vl : Option Nat
  ssum : Option (BitVec 128)
  vacc : Option (BitVec 128 × Byte)
  /-- The exceptions of an operation that writes CSTAT (R110, R112). -/
  exc : Option (BitVec 4)
  /-- The register VSETVL writes and the threads it writes it for. -/
  xs : Option (Nat × Word)
deriving DecidableEq, Repr

/-- The random-bit unit of a tile (R164 to R179). -/
structure Rng where
  loaded : Bool
  key : Dword
  lane : Bool
  rekey : Bool
  katDone : Bool
  katPass : Bool
  /-- Lane counters v that have left their starting value, by lane. -/
  lanes : SMap (BitVec 128)
  /-- The range g a lane's counter started in (R168, R171), where a restored context gave another than 128t + L. -/
  ranges : SMap Nat
deriving DecidableEq, Repr

/-- The header of a packet (R298, R299): the master it is charged to and its number among that master's requests (the
model's own, 0 for none), and the fields CLASS, DEMOTED and URGENCY. -/
structure Hdr where
  master : Nat
  cls : BitVec 3
  demoted : Bool
  urgency : BitVec 2
  tag : Nat
deriving DecidableEq, Repr

/-- A line of a tile's L1 (R197): bytes, valid and dirty masks, and the state of R200. -/
structure L1Line where
  data : BitVec 2048
  valid : BitVec 256
  dirty : BitVec 256
  /-- Held with ownership: E, or M once dirty. -/
  owned : Bool
  /-- The header of the request that last brought the line or its ownership, which its write-back carries (R299). -/
  hdr : Hdr
deriving DecidableEq, Repr

/-- A load or atomic that has been issued and not answered: which register of which lane receives which bytes. -/
structure PendingLoad where
  slot : Nat
  lane : Nat
  rd : Nat
  line : BitVec 32
  offset : Nat
  size : Nat
  signed : Bool
  /-- Answered without L1 allocation (hint 0b10). -/
  bypass : Bool
deriving DecidableEq, Repr

/-- A store waiting for ownership of its line (R197). -/
structure PendingStore where
  slot : Nat
  group : Word
  lane : Nat
  line : BitVec 32
  data : BitVec 2048
  mask : BitVec 256
deriving DecidableEq, Repr

/-- A resident thread group (R124, R154). -/
structure Group where
  id : Word
  job : Word
  cls : BitVec 3
  live : Word
  atBarrier : Word
  /-- PC of each thread, and the registers by 32 × register + thread. -/
  pc : SMap Word
  regs : SMap Word
  vl : Nat
  ssum : BitVec 128
  vacc : BitVec 128
  vaccTag : Byte
  /-- The engine's own values, forwarded before they are visible (R104). -/
  engVl : Nat
  engVacc : BitVec 128
  engVaccTag : Byte
  cstat : BitVec 4
  aflags : BitVec 5
  /-- Outstanding array operations and vector instructions. -/
  aout : Nat
  vout : Nat
  halted : Bool
  /-- Registers awaiting a result: 32 × register + thread (R127). -/
  busy : List Nat
  /-- Device writes and atomics each thread still awaits acknowledgement for, and peer accesses (R141, R376). -/
  acks : SMap Nat
  peerAcks : SMap Nat
  /-- A DEBUG STEP has issued its instruction and waits for the result (R148). -/
  stepped : Bool
deriving DecidableEq, Repr

structure Tile where
  power : Power
  share : Memory
  face0 : Face
  face1 : Face
  arrayQueue : List ArrayOp
  arrayDone : List ArrayDone
  vecQueue : List VecOp
  vecDone : List VecDone
  l1 : SMap L1Line
  loads : List PendingLoad
  stores : List PendingStore
  rng : Rng
  /-- Core cycles since power-up, in quarter cycles (R136). -/
  quarterCycles : Nat
  counters : Counters
  rngCounters : Counters
  groups : SMap Group
  /-- Groups that have ended by EXIT with instructions still in the vector queue (R104), by slot. -/
  leaving : List (Nat × Group)
  /-- Flipped bits of the tile's SRAM words (R261), by 2^20 × array + word as R263 codes them. -/
  flips : SMap (BitVec 39)
deriving DecidableEq, Repr

/-! ## Sole, HBM, welt -/

/-- The form of a line in its set (R182, R184): codes 0 to 7. -/
inductive Form where
  | zero | repeated | narrow | expdelta | raw | partialLine | shortTacked | long
deriving DecidableEq, Repr

/-- Directory states (R200). -/
inductive Dir where
  | i | s | e | m | br
deriving DecidableEq, Repr

/-- A request waiting or in progress at a home slice (R201). -/
inductive Request where
  | gets (tile : Fin 416) (need : BitVec 256)
  | getm (tile : Fin 416)
  | putm (tile : Fin 416) (data : BitVec 2048) (mask : BitVec 256)
  | ncrd (src : Sender) (need : BitVec 256)
  | ncwr (src : Sender) (data : BitVec 2048) (mask : BitVec 256)
  | red (req : RedRequest)
  | evict
  | prefetch
  /-- Whether an absent line is filled long, by the form that the tack covers (R210). -/
  | tack (long : Bool)
  | untack
deriving DecidableEq, Repr

/-- A request with its packet header (R298). -/
structure Asked where
  req : Request
  hdr : Hdr
deriving DecidableEq, Repr

/-- The request a line's home slice is serving, and what it still waits for. -/
structure Transaction where
  ask : Asked
  /-- Tiles whose recall answers are outstanding. -/
  recalls : List Nat
  /-- An HBM fetch is outstanding, and it holds a read queue slot of its controller (R308). -/
  fetching : Bool
  slot : Bool
deriving DecidableEq, Repr

/-- A line's tag and data at its home slice (R183, R200). -/
structure SoleLine where
  data : BitVec 2048
  valid : BitVec 256
  dirty : BitVec 4
  form : Form
  half : Bool
  sectors : Nat
  tack : Bool
  dir : Dir
  groups : BitVec 13
  dies : BitVec 8
  owner : Fin 416
  recency : Nat
  queue : List Asked
  txn : Option Transaction
  /-- An eviction named the line while it was in BR (R209). -/
  deferred : Bool
  /-- REDs applied in the episode now open (R207). -/
  applied : Nat
  /-- The tag exists (an absent line holds only its queue). -/
  present : Bool
  /-- The eviction's write data awaits acceptance by the HBM controller (R196). -/
  evicting : Bool
deriving DecidableEq, Repr

/-- A coherence message in flight (R201 to R205). -/
inductive NetMsg where
  | request (line : BitVec 32) (ask : Asked)
  | recall (tile : Fin 416) (line : BitVec 32) (invalidate : Bool) (hdr : Hdr)
  | answer (tile : Fin 416) (line : BitVec 32) (data : BitVec 2048) (mask : BitVec 256) (hdr : Hdr)
  | fill (tile : Fin 416) (line : BitVec 32) (data : BitVec 2048) (valid : BitVec 256) (owned : Bool) (hdr : Hdr)
  | grant (tile : Fin 416) (line : BitVec 32) (hdr : Hdr)
  | ncData (src : Sender) (line : BitVec 32) (data : BitVec 2048) (hdr : Hdr)
  | ack (src : Sender) (line : BitVec 32) (hdr : Hdr)
deriving DecidableEq, Repr

/-- Per-slice state beside the lines (R215, R216). -/
structure Slice where
  flag : Bool
  rate : Nat
  cool : Nat
  lookups : Nat
  misses : Nat
  peak : Nat
  counters : Counters
deriving DecidableEq, Repr

/-- An AUTO record (R192). -/
structure AutoRecord where
  long : Bool
  runLow : Nat
  runHigh : Nat
deriving DecidableEq, Repr

/-- A device atomic issued and not answered (R143): the tag of its reply, the group, the destination register, the words
of each old value and the lanes. -/
structure DeviceAtomic where
  tag : Nat
  tile : Nat
  slot : Nat
  group : Word
  rd : Nat
  words : Nat
  lanes : List Nat
  /-- Later accesses of the lanes wait for its completion (R142). -/
  acquire : Bool
deriving DecidableEq, Repr

/-- The reply to a reduction on its way back (R143, R299): its tag and header, the exceptions, and each lane's old value. -/
structure RedReply where
  tag : Nat
  hdr : Hdr
  exc : BitVec 4
  olds : List (Nat × BitVec 128)
deriving DecidableEq, Repr

structure Sole where
  lines : SMap SoleLine
  /-- AUTO records by 524,288 × stack + page. -/
  autoPages : SMap AutoRecord
  /-- Lines whose fill waits at the slice (R199), those whose wait FILL_WAITS has counted, and those whose long fill
  LONG_DEMOTED has counted. -/
  waiting : List Nat
  stuck : List Nat
  demoted : List Nat
  slices : SMap Slice
  stamp : Nat
  net : List NetMsg
  refusals : Word
  toLong : SMap Nat
  toShort : SMap Nat
  /-- Old values of reductions on their way back to the atomic units (R143). -/
  replies : List RedReply
  nextTag : Nat
  atomics : List DeviceAtomic
deriving DecidableEq, Repr

/-- A loaded XTS key slot of an HBM stack (R255): the job and the key. -/
structure KeySlot where
  job : Word
  key : BitVec 512
deriving DecidableEq, Repr

/-- An entry of a correctable-error table (R263). -/
structure EccEntry where
  location : Dword
  count : Nat
  last : Dword
  recorded : Bool
deriving DecidableEq, Repr

structure Hbm where
  /-- Contents of the HBM stacks as the job that holds the key reads them; stack h at h × 2^36 (R251, R256). -/
  mem : Memory
  keys : SMap KeySlot
  /-- Unfilled portions of the launch fill: device pages, by HBM stack (R257). -/
  unfilled : SMap (List Nat)
  /-- The address tables, by 3 × stack + type (R263). -/
  tables : SMap (List EccEntry)
  late : BitVec 24
  /-- Scrub reads made in the current lap (R266): of channel c of HBM stack h under 32 h + c, of sole s under 512 + s. -/
  scrubAt : SMap Nat
  /-- Lines in BR whose sectors the sole scrubber has passed over (R266). -/
  passed : List Nat
  /-- Flipped bits of stored units, by LOCATION (R260), and of sole words, by 2^30 × stack + LOCATION (R261). -/
  flips : SMap (BitVec 576)
  soleFlips : SMap (BitVec 72)
  /-- What the units of an HBM stack outside every filled footprint hold: zeros (none), or what the key slot's destruction
  at this draw left (R258, R259). -/
  residue : SMap Nat
  /-- HBM stacks in self refresh (R249). -/
  selfRefresh : BitVec 16
  counters : SMap Counters
  /-- Banks under refresh, by 2^13 × HBM stack + 2^8 × channel + 2^7 × pseudo-channel + bank (R249, R310). -/
  refreshing : List Nat
deriving DecidableEq, Repr

/-- An arbitration point's memory (R304, R305). -/
structure ArbPoint where
  /-- The last grants of tiers A and B, newest first: true for tier A; at most 3 are kept. -/
  recent : List Bool
  /-- Grants since the last grant to tier C. -/
  sinceC : Nat
  /-- The master served last in tier C. -/
  lastMaster : Nat
deriving DecidableEq, Repr

/-- A beat in a replay buffer, as it was sent (R224, R226): its data, header and check, and what the wires for the opposite
direction's credits, acknowledgements and NAKs carry with it. -/
structure Beat where
  num : Nat
  data : BitVec 4096
  header : BitVec 8
  crc : BitVec 16
  back : Byte
deriving DecidableEq, Repr

/-- One direction of a welt channel. -/
structure WeltDir where
  /-- The number of the next new beat. -/
  sent : Nat
  /-- The next beat the receiver passes on, and how often that beat has failed in succession (R225, R226). -/
  expect : Nat
  fails : Nat
  /-- A NAK naming a beat is on its way to the sender. -/
  nak : Option Nat
  replay : List Beat
  /-- Beats being sent again. -/
  resend : List Beat
  /-- Mismatches of the current window (R227). -/
  window : Nat
  minHoriz : Byte
  minVert : Byte
  /-- What the choice among the waiting packets of the even and of the odd slice remembers, and whether the odd slice was
  served last (R243). -/
  even : ArbPoint
  odd : ArbPoint
  oddLast : Bool
deriving DecidableEq, Repr

structure WeltChan where
  up : WeltDir
  down : WeltDir
  repairing : Bool
  sparesLow : Bool
  testDue : Bool
  /-- The channel has retired and carries nothing (R242), and the job (0 for none) at a retirement that is
  still to be committed. -/
  stopped : Bool
  retiring : Option Nat
  /-- The fabric cycle at which the repair in progress began. -/
  pausedAt : Nat
  /-- The strobes are locked, and the draw at which the deskew settings in force were found (R234, R245). -/
  locked : Bool
  deskew : Option Nat
  counters : Counters
deriving DecidableEq, Repr

structure WeltStack where
  /-- Test age in always-on cycles (R235). -/
  age : Nat
  due : Bool
  testing : Bool
  quiescing : Bool
  quiesces : Word
  drops : Nat
deriving DecidableEq, Repr

structure Welt where
  chans : SMap WeltChan
  units : SMap WeltStack
deriving DecidableEq, Repr

/-! ## Sequence table -/

/-- A sequence descriptor (R277). -/
structure SeqDesc where
  tag : Word
  job : Word
  live : Bool
  page : Nat
  fmt : Nat
  layers : Nat
  entry : Nat
  length : Nat
  stride : Nat
  root : Word
  pages : Nat
  listPages : Nat
  opened : Dword
deriving DecidableEq, Repr

/-- The gather engine of a stack (R280). -/
structure SeqEngine where
  head : Word
  high : Nat
  freeCount : Nat
  counters : Counters
  /-- Translations cached: 2^32 × descriptor + logical page (R295). -/
  cached : List Nat
deriving DecidableEq, Repr

/-- A SEQ operation that a tile has issued and its engine has not executed (R289): it waits in the network, or with the block
that was read at its acceptance in the engine's queue. -/
structure SeqOp where
  tag : Nat
  tile : Nat
  slot : Nat
  group : Word
  job : Nat
  op : Nat
  rd : Nat
  lanes : Word
  pc : Word
  word : BitVec 64
  base : Nat
  stack : Nat
  hdr : Hdr
  block : Option (BitVec 256)
deriving DecidableEq, Repr

/-- A SEQ operation whose result word is still to be written (R288). -/
structure SeqResult where
  tag : Nat
  tile : Nat
  slot : Nat
  group : Word
  rd : Nat
  lanes : Word
  word : Word
  stack : Nat
  /-- The header of its request (R299). -/
  hdr : Hdr
deriving DecidableEq, Repr

structure Seq where
  /-- Descriptors by global number. -/
  descs : SMap SeqDesc
  engines : SMap SeqEngine
  /-- Operations issued and not executed, in the order of their issue, and results outstanding. -/
  ops : List SeqOp
  results : List SeqResult
  nextTag : Nat
deriving DecidableEq, Repr

/-! ## Bandwidth regulation -/

/-- A bandwidth master (R300 to R307). -/
structure Master where
  /-- Bytes charged in the window, by class. -/
  used : SMap Nat
  granted : SMap Nat
  demoted : SMap Nat
  /-- Latency of the most recently completed request, and the outstanding ones with their grant times, oldest first, by
  class, in fabric cycles. -/
  lastLatency : SMap Nat
  outstanding : SMap (List (Nat × Nat))
  latMax : SMap Nat
  urgency : SMap Nat
deriving DecidableEq, Repr

/-- A request that waits at its master's injection port (R302): its charge in bytes, its line and the request. -/
structure Inject where
  master : Nat
  cls : BitVec 3
  bytes : Nat
  line : BitVec 32
  req : Request
deriving DecidableEq, Repr

structure Qos where
  /-- Limits in force by 8 × kind + class, and targets of classes 4–7 (R313). -/
  limits : SMap Nat
  targets : SMap Nat
  /-- The staged values checked by a commit that awaits the next window. -/
  pending : Option (List Nat × List Nat)
  refused : Bool
  kind : Nat
  masters : SMap Master
  points : SMap ArbPoint
  /-- What the last grant of an arbitration point chose. -/
  chosen : Option NetMsg
  /-- Requests that wait for an injection grant, oldest first, and the number of the next request granted. -/
  inject : List Inject
  nextTag : Nat
deriving DecidableEq, Repr

/-! ## Trerik fabric -/

/-- A flit in a port's buffers, without its link header (R363): channel, SOM, EOM, type and payload. -/
structure Flit where
  ftype : Nat
  vc : Nat
  som : Bool
  eom : Bool
  length : Nat
  payload : BitVec 1792
deriving DecidableEq, Repr

/-- The awl of a port (R386, R387). -/
structure Awl where
  armed : Bool
  remaining : Nat
  taken : Nat
  skipLeft : Nat
  every : Nat
  everyLeft : Nat
  refused : Bool
  /-- The 256 bytes of the flit that REORDER holds. -/
  held : Option (BitVec 2048)
deriving DecidableEq, Repr

structure FabPort where
  width : Nat
  lanes : BitVec 8
  usable : BitVec 8
  up : Bool
  retraining : Bool
  /-- The retrain in progress needs a new key exchange (R361, R369). -/
  needKeys : Bool
  neighbourValid : Bool
  neighbourId : BitVec 16
  neighbourPort : BitVec 5
  neighbourSerial : Dword
  epoch : Word
  /-- KEY_PHASE and keys of the two directions, sent and received; a renewed key of the received direction waits for the
  first flit of its phase, with its epoch (R367, R370). -/
  txPhase : Bool
  rxPhase : Bool
  rxEpoch : Word
  txKey : BitVec 256
  rxKey : BitVec 256
  rxNext : Option (BitVec 256 × Word)
  /-- New DATA flits sent and received under the present keys (R368, R370). -/
  txCount : Nat
  rxCount : Nat
  renewalFailed : Bool
  nextLseq : BitVec 16
  expectLseq : BitVec 16
  /-- The next flit sent carries NAK; a NAK received names where to resend from (R365). -/
  nakOwed : Bool
  nakFrom : Option (BitVec 16)
  /-- Flits sent and not acknowledged (R365), oldest first, with the 256 stored bytes. -/
  replay : List (BitVec 16 × BitVec 2048)
  /-- Flits waiting to be sent; credits held and credits owed, by channel. -/
  queue : List Flit
  /-- What the choice between messages remembers (R364). -/
  arb : ArbPoint
  credits : SMap Nat
  owed : SMap Nat
  /-- Bytes received on each channel since the SOM of a message, and messages received whole. -/
  partialMsg : SMap (List Byte)
  inbox : List Message
  /-- The last flit put on the line (the model's own observable). -/
  line : Option (BitVec 2048)
  /-- Failures in succession of the expected flit, and CRC failures in the window (R361, R366). -/
  fails : Nat
  window : Nat
  awl : Awl
  counters : Counters
deriving DecidableEq, Repr

/-- A peer access awaiting its reply (R376, R385). -/
structure PeerAccess where
  tag : BitVec 16
  tile : Nat
  slot : Nat
  group : Word
  job : Word
  /-- PC and threads of the issue, for the fault record (R516). -/
  pc : Word
  set : Word
  /-- Destination register, bytes, and for an atomic the lanes served in the order of the reply's values. -/
  rd : Nat
  size : Nat
  signed : Bool
  lanes : List Nat
  dest : BitVec 16
  /-- Peer address of the 256-byte line. -/
  line : Nat
  ordered : Bool
  acquire : Bool
  /-- Always-on counter when the message was sent (R385). -/
  sentAt : Nat
  /-- The header it was granted with (R307). -/
  hdr : Hdr
deriving DecidableEq, Repr

structure Fabric where
  /-- The fabric ID in effect, as the last port training took it (R371). -/
  ownId : BitVec 16
  ports : SMap FabPort
  /-- Next SEQ by 2 × destination + (1 if unordered); expected ordered SEQ by source (R380). -/
  nextSeq : SMap Nat
  expectSeq : SMap Nat
  outstanding : List PeerAccess
  nextTag : BitVec 16
deriving DecidableEq, Repr

/-! ## Check-value units -/

structure Cvu where
  poly : BitVec 2
  readout : Bool
  /-- The running remainder, before the final XOR. -/
  crc : BitVec 64
  foldLo : Word
  bytes : Nat
  isOpen : Bool
  /-- Data bytes, not only the fold word, have been fed. -/
  sawAny : Bool
  done : Bool
  isMatch : Bool
  mismatch : Bool
  orderError : Bool
  refused : Bool
  failed : Bool
  expect : Dword
  compares : Nat
  mismatches : Nat
deriving DecidableEq, Repr

/-! ## Power and thermal -/

inductive Boost where
  | ready | engaged | recovering
deriving DecidableEq, Repr

/-- A power region (R433 to R447). -/
structure Region where
  state : Power
  failed : BitVec 8
  trips : Nat
  boost : Boost
  /-- Always-on count of the boost's last release: it cannot engage again for 8 µs (R436). -/
  releasedAt : Nat
  halved : Bool
  /-- A ramp is asked for and has not started (R445), and when its wait on a blocking neighbour began. -/
  waiting : Bool
  waitAt : Option Nat
  quarter : Bool
  /-- The region tripped, for this reason (R520), and awaits its one re-ramp (R442). -/
  tripped : Option Nat
  milliamps : Nat
deriving DecidableEq, Repr

structure Pwr where
  millivolts : Nat
  watts : Nat
  /-- The power samples of the last 40,000 always-on cycles with their always-on counts, newest first (R467). -/
  recent : List (Nat × Nat)
  windowSum : Nat
  windowCount : Nat
  average : Nat
  /-- Power windows completed since the last entry to READY (R467). -/
  windows : Nat
  setting : Nat
  /-- The setting with which the present window began (R449). -/
  windowStart : Nat
  active : Bool
  /-- The request's ENFORCE_AT has been judged (R449 step 2). -/
  judged : Bool
  enforced : Bool
  fast : Bool
  inputHigh : Bool
  highEpisode : Bool
  target : Nat
  requestAt : Dword
  coolRun : Nat
  /-- Consecutive samples above the fast limit taken with the setting at 10 (R450). -/
  fastRun : Nat
  /-- The last completed window's average exceeded W_T (R449 step 2). -/
  lastOver : Bool
  regions : SMap Region
  /-- Suspect runs of the drop check, by 292 × stack + phase (R439). -/
  drop : SMap Nat
  gated : BitVec 8
  uncoreTrips : SMap Nat
  counters : SMap Counters
  /-- Input protection has opened (R428). -/
  inputOpen : Bool
deriving DecidableEq, Repr

structure Sensor where
  reading : Option Int
  raw : Word
  sameRun : Nat
  outRun : Nat
  reference : Option Int
  rise : Nat
  fast : Bool
  /-- A condition of R458 was met at a sample of this window. -/
  fastMet : Bool
  /-- Every sample of the window read at or below the release limit; the greatest sample. -/
  windowMax : Option Int
deriving DecidableEq, Repr

structure Die where
  hot : Bool
  rate : Bool
  rateMet : Bool
  lastHottest : Option Int
deriving DecidableEq, Repr

structure Thm where
  sensors : SMap Sensor
  dies : SMap Die
  /-- The running tread counters (R239), committed to MRAM at each count and every 1,000 rounds (R240). -/
  tread : SMap Tread
  settings : SMap Nat
  cool : SMap Nat
  hotInWindow : BitVec 8
  hotAtEnd : BitVec 8
  active : Bool
  judged : Bool
  enforced : Bool
  target : Nat
  requestAt : Dword
  standing : Nat
  ack : Bool
  newBroken : Bool
  hottest : Int
  hottestDie : Nat
  hottestSensor : Nat
  rounds : Nat
  counters : Counters
deriving DecidableEq, Repr

/-! ## Security -/

inductive SlotState where
  | empty | offered | ready | bound
deriving DecidableEq, Repr

/-- A key slot (R487). -/
structure SecSlot where
  state : SlotState
  ide : Bool
  job : Word
  nonce : List Byte
  offeredAt : Dword
  offerDigest : BitVec 256
  /-- Which draw of the entropy source made the ML-KEM pair, while the slot is OFFERED. -/
  pair : Nat
  sessionKey : BitVec 256
  binding : BitVec 256
deriving DecidableEq, Repr

structure Sec where
  mr : SMap (BitVec 256)
  slots : SMap SecSlot
  ideTx : BitVec 256
  ideRx : BitVec 256
  ideSet : Bool
  entropyOk : Bool
  entropyFail : Bool
  auditLost : Bool
  lossEpisode : Bool
  lossFirst : Dword
  ackHi : Word
  epoNonce : Option (BitVec 16)
  epoAt : Dword
  counters : Counters
  dbgCounters : Counters
deriving DecidableEq, Repr

/-! ## The whole device -/

structure State where
  /-- Commands waiting, first in, first out. -/
  pending : List Instr
  /-- The always-on counter (R5). -/
  aon : Dword
  /-- How many free values have been drawn (the model's own field). -/
  draws : Nat
  part : Part
  dev : Dev
  mram : Mram
  flash : Flash
  plan : Plan
  host : HostLink
  mgt : Mgt
  /-- Registers that hold what is written to them, by address; an unlisted one reads its reset value. -/
  regs : SMap Word
  /-- High words latched by a read of a counter's low word (R219), by address. -/
  latches : SMap Word
  rings : SMap Ring
  inflight : List InFlight
  dcClock : Bool
  jobs : SMap Job
  tiles : SMap Tile
  sole : Sole
  hbm : Hbm
  welt : Welt
  seq : Seq
  qos : Qos
  fabric : Fabric
  cvus : SMap Cvu
  pwr : Pwr
  thm : Thm
  sec : Sec
deriving DecidableEq, Repr

/-! ## Reset -/

def UnitEntry.working : UnitEntry := ⟨0, 0, 0⟩
def Plan.empty : Plan := ⟨[], [], [], [], [], [], [], [], 0, 0, 0, 0⟩
def Defects.empty : Defects := ⟨[], [], [], [], false⟩
def Policy.factory : Policy := ⟨0, 0x6C, List.replicate 64 0, [], [], []⟩
def RouteEntry.none : RouteEntry := ⟨0x1F, 0x1F, 0x1F, 0x1F, 0⟩
def Tread.fresh : Tread := ⟨Option.none, Option.none, false, 0⟩
def TwoCopy.both {α : Type} (v : α) : TwoCopy α := ⟨some v, some v⟩

def Ring.reset : Ring := ⟨false, 0, 0, 0, 0, false, 0, false, 0, 0, 0, 0, [], []⟩
def Rng.reset : Rng := ⟨false, 0, false, false, false, false, [], []⟩
def Face.free : Face := ⟨false, 0, 0, 0, []⟩
def Tile.reset : Tile :=
  ⟨.off, [], Face.free, Face.free, [], [], [], [], [], [], [], Rng.reset, 0, [], [], [], [], []⟩
def SoleLine.absent : SoleLine :=
  ⟨0, 0, 0, .raw, false, 0, false, .i, 0, 0, 0, 0, [], Option.none, false, 0, false, false⟩
/-- The header of a packet that no master is charged for. -/
def Hdr.zero : Hdr := ⟨0, 0, false, 0, 0⟩
def Slice.reset : Slice := ⟨false, 0, 0, 0, 0, 0, []⟩
def AutoRecord.reset : AutoRecord := ⟨false, 0, 0⟩
def WeltStack.reset : WeltStack := ⟨0, false, false, false, 0, 0⟩
def SeqDesc.free : SeqDesc := ⟨0, 0, false, 0, 0, 0, 0, 0, 0, 0, 0, 0, 0⟩
def SeqEngine.reset : SeqEngine := ⟨0, 0, 0, [], []⟩
def Master.reset : Master := ⟨[], [], [], [], [], [], []⟩
def ArbPoint.reset : ArbPoint := ⟨[], 0, 0⟩
def WeltDir.reset : WeltDir := ⟨0, 0, 0, Option.none, [], [], 0, 0, 0, ArbPoint.reset, ArbPoint.reset, false⟩
def WeltChan.reset : WeltChan := ⟨WeltDir.reset, WeltDir.reset, false, false, false, false, Option.none, 0, false, Option.none, []⟩
def Awl.reset : Awl := ⟨false, 0, 0, 0, 1, 1, false, Option.none⟩
def FabPort.reset : FabPort where
  width := 0
  lanes := 0
  usable := 0
  up := false
  retraining := false
  needKeys := false
  neighbourValid := false
  neighbourId := 0
  neighbourPort := 0
  neighbourSerial := 0
  epoch := 0
  txPhase := false
  rxPhase := false
  rxEpoch := 0
  txKey := 0
  rxKey := 0
  rxNext := Option.none
  txCount := 0
  rxCount := 0
  renewalFailed := false
  nextLseq := 0
  expectLseq := 0
  nakOwed := false
  nakFrom := Option.none
  replay := []
  queue := []
  arb := ArbPoint.reset
  credits := []
  owed := []
  partialMsg := []
  inbox := []
  line := Option.none
  fails := 0
  window := 0
  awl := Awl.reset
  counters := []
def Cvu.reset : Cvu :=
  ⟨0, false, 0xFFFFFFFF, 0, 0, false, false, false, false, false, false, false, false, 0, 0, 0⟩
def Region.reset : Region := ⟨.off, 0, 0, .ready, 0, false, false, Option.none, false, Option.none, 0⟩
def Sensor.reset : Sensor := ⟨Option.none, 0, 0, 0, Option.none, 0, false, false, Option.none⟩
def Die.reset : Die := ⟨false, false, false, Option.none⟩
def SecSlot.empty : SecSlot := ⟨.empty, false, 0, [], 0, 0, 0, 0, 0⟩

def Dev.reset : Dev :=
  ⟨.off, 0, .idle, 0, 0, [], 0, false, Option.none, Option.none, 0, false, false, false, Option.none, false, 0, 0, 0,
    [], false, 0, (0, 0, []), Option.none⟩
def Part.reset : Part := ⟨0, 0, 0, 0, [], [], [], [], [], [], [], []⟩
def Mram.reset : Mram :=
  ⟨0, TwoCopy.both Defects.empty, TwoCopy.both Option.none, TwoCopy.both Option.none, TwoCopy.both ⟨0, 0, []⟩,
    TwoCopy.both ⟨false, false⟩, TwoCopy.both ⟨0, 0⟩, TwoCopy.both Policy.factory, TwoCopy.both 0, 0, 0xFFFF, [], [],
    0, 0, [], 0, [], [], 0, 0, [], [], [], [], 0⟩
def HostLink.reset : HostLink := ⟨false, 0, 0, false, [], [], [], Option.none⟩
def Mgt.reset : Mgt := ⟨0, 0, false, 0, [], false, 0, 0, 0, 0, 0, 0, 0⟩
def Sole.reset : Sole := ⟨[], [], [], [], [], [], 0, [], 0, [], [], [], 0, []⟩
def Hbm.reset : Hbm := ⟨[], [], [], [], 0, [], [], [], [], [], 0, [], []⟩
def Pwr.reset : Pwr :=
  ⟨0, 0, [], 0, 0, 0, 0, 27, 27, false, false, false, false, false, false, 0, 0, 0, 0, false, [], [], 0, [], [], false⟩
def Thm.reset : Thm :=
  ⟨[], [], [], [], [], 0, 0, false, false, false, 0, 0, 0, false, false, 0, 0, 0, 0, []⟩
def Sec.reset : Sec :=
  ⟨[], [], 0, 0, false, true, false, false, false, 0, 0, Option.none, 0, [], []⟩

/-- The K880 as it leaves manufacture, unpowered: OFF, the MRAM records at their factory values (R371, R405, R495),
every register at its reset value, empty flash slots (see the assumption log for what the spec leaves open). -/
def State.reset : State where
  pending := []
  aon := 0
  draws := 0
  part := Part.reset
  dev := Dev.reset
  mram := Mram.reset
  flash := ⟨none, none, none, none⟩
  plan := Plan.empty
  host := HostLink.reset
  mgt := Mgt.reset
  regs := []
  latches := []
  rings := []
  inflight := []
  dcClock := true
  jobs := []
  tiles := []
  sole := Sole.reset
  hbm := Hbm.reset
  welt := ⟨[], []⟩
  seq := ⟨[], [], [], [], 0⟩
  qos := ⟨[], [], none, false, 0, [], [], none, [], 0⟩
  fabric := ⟨0xFFFF, [], [], [], [], 0⟩
  cvus := []
  pwr := Pwr.reset
  thm := Thm.reset
  sec := Sec.reset

end Sys2Proof.Machine
end

