-- ==== Sys2Proof/WellFormed.lean ====
section
/-! DEFINITION. When a command's operands name something the device has: units in range (R21), operands that spell the row they
stand under, and messages of a length the fabric carries. A command that is not well-formed stands for nothing that happens
to the device. -/

namespace Sys2Proof

/-- How many units of a kind the package has (R21). -/
def unitCount : UnitKind → Nat
  | .stack => 8 | .tile => 416 | .slice => 512 | .welt => 512 | .hbmStack => 16 | .hbmChannel => 512 | .lacing => 14
  | .port => 18 | .cvu => 8 | .hbmController => 16

/-- A unit that the package has. -/
def UnitId.wf (u : UnitId) : Bool := decide (u.num < unitCount u.kind)

/-- Sensors of a die by its code (R455, R474): uppers, soles, I/O dies, HBM stacks. -/
def dieSensorCount (d : Nat) : Nat := if d < 8 then 96 else if d < 16 then 24 else if d < 18 then 4 else 1

/-- Lanes that rise strictly. -/
def lanesRise : List RedOperand → Bool
  | [] => true
  | [_] => true
  | a :: b :: r => decide (a.lane.val < b.lane.val) && lanesRise (b :: r)

/-- A reduction carries one operand or more, in ascending lane order (R143). -/
def RedRequest.wf (r : RedRequest) : Bool := !r.operands.isEmpty && lanesRise r.operands

/-- Flipped bits lie in a memory the device has: a tile word in an array of a tile (R263). -/
def Upset.wf (u : Upset) : Bool :=
  match u with
  | .hbm .. | .sole .. => true
  | .tile word _ => decide (word.toNat % 512 < 416) && decide (word.toNat / 512 % 8 < 6)

/-- A message carries at most 2,048 data bytes (R377). -/
def Message.wf (m : Message) : Bool := decide (m.data.length ≤ 2048)

/-- An aligned register (R319, R321). -/
def RegAddr.wf (r : RegAddr) : Bool :=
  match r with
  | .bar0 off => decide (off.toNat % 4 = 0)
  | .ind _ off => decide (off.toNat % 4 = 0)

/-- Whether a command's operands are ones it can have. -/
def Instr.wf (i : Instr) : Bool :=
  match i with
  | .startUpTests found => found.all UnitId.wf
  | .sensorSample die sensor _ _ => decide (sensor.val < dieSensorCount die.val)
  | .red _ req => req.wf
  | .hbmScrubRead _ _ upsets => upsets.all Upset.wf
  | .soleScrubRead _ upsets => upsets.all Upset.wf
  | .ringEnable v => v.getLsbD 0
  | .ringDisable v => !v.getLsbD 0
  | .firmwareInstallStart v => v.getLsbD 0
  | .registerWrite offset _ => decide (offset.toNat % 4 = 0)
  | .rcRead reg => reg.wf
  | .counterLatchRead reg => reg.wf
  | .qosCommit v => v.getLsbD 0
  | .tileCntClear v => v.getLsbD 0
  | .arbitrationGrant _ waiting => !waiting.isEmpty
  | .sidebandUnknownCommand code => !(decide (1 ≤ code.toNat) && decide (code.toNat ≤ 5))
  | .retrain v _ => v.getLsbD 1
  | .rekey v _ => v.getLsbD 0
  | .messageForward _ msg => msg.wf
  | .fabricRead _ msg => msg.wf
  | .fabricWrite _ msg => msg.wf
  | .fabricRed _ msg => msg.wf
  | .fabricData _ msg => msg.wf
  | .fabricAck _ msg => msg.wf
  | .fabricNack _ msg => msg.wf
  | .bcast _ msg => msg.wf
  | .awlDisarm v => decide (v.toNat % 4 = 0)
  | .awlArmDrop v => decide (v.toNat % 4 = 1)
  | .awlArmCorrupt v => decide (v.toNat % 4 = 2)
  | .awlArmReorder v => decide (v.toNat % 4 = 3)
  | .cxlLinkUp width rate => [16, 8, 4].contains width.toNat && decide (rate.toNat < 3)
  | .bistComplete _ _ found => found.all UnitId.wf
  | .twelveVGood .. | .inputSample .. | .lossOf12V .. | .inputOvervoltage .. | .inputStable .. | .firmwarePairChoice ..
  | .stackPowerUp .. | .hbmTraining .. | .slipOn .. | .weltColdTraining .. | .floorPlanBuild .. | .portTraining .. | .trainingAttemptTimeout ..
  | .lastCompare .. | .warmReset .. | .computeReset .. | .coldReset .. | .heldResetRelease .. | .quiesceDrainEnd ..
  | .flrOrHotReset .. | .cxlLinkLoss .. | .scHeartbeatTimeout .. | .dcHeartbeatTimeout .. | .mcLockstepMismatch ..
  | .iodUncorrectable .. | .jobEndScrub .. | .shutdownPowerRemoval .. | .thermalWindowEnd .. | .thermalEnforceAt ..
  | .thmAck .. | .powerWindowEnd .. | .powerEnforceAt .. | .fastLimitFatal .. | .modulePhaseFailure ..
  | .phaseRegulationLoss .. | .phaseOverCurrent .. | .dropCheckSample .. | .dropCheckFail .. | .regionOverCurrent ..
  | .regionUndervoltage .. | .regionReramp .. | .boostEngage .. | .boostRelease .. | .clockHalving .. | .clockRestore ..
  | .regionRampStart .. | .quarterSlopeRamp .. | .regionRampDone .. | .tilePark .. | .upperPowerGate .. | .weltBeat ..
  | .weltNak .. | .strobeLoss .. | .weltRepairEnd .. | .weltErrorWindowEnd .. | .weltTestDue .. | .weltSelfTest ..
  | .weltSelfTestCommit .. | .gets .. | .getm .. | .putm .. | .ncrd .. | .ncwr .. | .redApply .. | .brEpisodeClose ..
  | .fillComplete .. | .fillRetry .. | .writebackAccepted .. | .recall .. | .recallAnswer .. | .l1Fill ..
  | .ownershipGrant .. | .writeAcknowledge .. | .tack .. | .untack .. | .thrashWindowEnd ..
  | .scrubLate .. | .launchFillPortion .. | .groupDispatch .. | .doorbellSnoop .. | .doorbellPoll .. | .descriptorFetch ..
  | .completionPost .. | .dcClockStop .. | .statusPageWrite .. | .nopDescriptor .. | .launch .. | .suspend .. | .resume ..
  | .abort .. | .dmaH2d .. | .dmaD2h .. | .dmaD2d .. | .dmaTack .. | .dmaUntack .. | .seqOpOpen .. | .seqOpFree ..
  | .seqOpQuery .. | .setLast .. | .installLicence .. | .keyExchangeOffer .. | .keyExchangeAccept .. | .keyExchangeRelease ..
  | .keyOfferExpiry .. | .attest .. | .identityTreeReady .. | .entropyHealthTest .. | .bistWelt .. | .bistTiles ..
  | .bistSole .. | .queryFloorPlan .. | .setPolicy .. | .debugHalt .. | .debugRead .. | .debugStep .. | .debugStepTimeout ..
  | .debugRelease .. | .auditRead .. | .blackboxRead .. | .firmwareInstallDone .. | .indirectAccess .. | .mgtBar2JobWrite ..
  | .bar2Read .. | .bar2Write .. | .bar0BadAccess .. | .auditAckHi .. | .auditAck .. | .soleCntClearSlice ..
  | .soleCntClearStack .. | .bandwidthWindowStart .. | .injectionGrant .. | .getState .. | .getTelemetry ..
  | .readBlackbox .. | .epoArm .. | .epoFire .. | .mctpControl .. | .ideKSetGo .. | .ideKeyProg .. | .flitTransmit ..
  | .flitReceive .. | .flitReplay .. | .downPortAttempt .. | .linkKeyRenewal .. | .renewalRetry .. | .fabricErrorWindowEnd ..
  | .fabricTimeout .. | .awlReorderRelease .. | .fabFabricIdWrite .. | .fabRouteHopsWrite .. | .fabRouteBcastWrite ..
  | .cvuCtlWrite .. | .cvuReset .. | .cvuFinish .. | .cvuFoldLo .. | .cvuFoldHi .. | .cvuData8 .. | .cvuData16 ..
  | .cvuData32 .. | .cvuPortTest .. | .mma .. | .ewmul .. | .ewadd .. | .arrayExecute .. | .arrayOpComplete .. | .add ..
  | .sub .. | .mul .. | .mulhi .. | .mulhu .. | .andI .. | .orI .. | .xorI .. | .shl .. | .shr .. | .shra .. | .minI ..
  | .maxI .. | .minu .. | .maxu .. | .setI .. | .sel .. | .popc .. | .clz .. | .fadd .. | .fsub .. | .fmul .. | .ffma ..
  | .fmin .. | .fmax .. | .fabs .. | .fneg .. | .fset .. | .cvt .. | .movi .. | .movs .. | .ldl .. | .stl .. | .ldg ..
  | .stg .. | .aadd .. | .amin .. | .amax .. | .aminu .. | .amaxu .. | .aand .. | .aor .. | .axor .. | .afadd .. | .awadd ..
  | .acas .. | .aexch .. | .deviceAtomicReply .. | .fence .. | .bar .. | .waita .. | .waitv .. | .nop .. | .bra .. | .brz ..
  | .brnz .. | .brs .. | .call .. | .jmp .. | .exitT .. | .trap .. | .seqOpen .. | .seqAppend .. | .seqGather ..
  | .seqFree .. | .seqQuery .. | .seqResult .. | .rngv .. | .vsetvl .. | .vadd .. | .vsub .. | .vmul .. | .vfma .. | .vmin ..
  | .vmax .. | .vabs .. | .vneg .. | .vand .. | .vor .. | .vxor .. | .vshl .. | .vshr .. | .vcmpeq .. | .vcmplt ..
  | .vcmple .. | .vcmpgt .. | .vsel .. | .vexp2 .. | .vrcp .. | .vrsqrt .. | .vcvt .. | .vld .. | .vst .. | .vlds ..
  | .vsts .. | .vgather .. | .vscatter .. | .vscani .. | .vscanx .. | .vred .. | .vcompress .. | .vsum .. | .vwscani ..
  | .vwscanx .. | .vwred .. | .vwadd .. | .vwrealign .. | .vectorExecute .. | .vectorResultVisible .. | .portSignalLoss ..
  | .completionRingSnoop .. | .hbmRefresh .. => true

end Sys2Proof
end

