-- ==== Sys2Proof/Machine/Ops.lean ====
section
/-! DEFINITION. The named operations over the state that the commands share: access to the parts of the state, the
floor plan (R18 to R35, R253), the address map (R250 to R252), host memory (R336, R337), the black box (R518 to R523),
the audit log (R501 to R504), completions (R336, R343) and the decision of a job's end (R348, R511, R512). -/

namespace Sys2Proof.Machine

/-- What a command answers. -/
abbrev Out := Host.Outcome State Fault Refusal

/-- Applies a change when a condition holds; otherwise the command has no effect. -/
def State.when (s : State) (c : Bool) (f : State → State) : State := if c then f s else s

/-! ## Parts of the state -/

def State.tile (s : State) (t : Nat) : Tile := smGet Tile.reset s.tiles t
def State.setTile (s : State) (t : Nat) (v : Tile) : State := { s with tiles := smSet Tile.reset s.tiles t v }
def State.updTile (s : State) (t : Nat) (f : Tile → Tile) : State := s.setTile t (f (s.tile t))
def State.ring (s : State) (r : Nat) : Ring := smGet Ring.reset s.rings r
def State.setRing (s : State) (r : Nat) (v : Ring) : State := { s with rings := smSet Ring.reset s.rings r v }
def State.updRing (s : State) (r : Nat) (f : Ring → Ring) : State := s.setRing r (f (s.ring r))
def State.job (s : State) (j : Nat) : Option Job := smFind s.jobs j
def State.setJob (s : State) (j : Nat) (v : Job) : State := { s with jobs := smPut s.jobs j v }
def State.updJob (s : State) (j : Nat) (f : Job → Job) : State :=
  match s.job j with
  | some v => s.setJob j (f v)
  | none => s
def State.cvu (s : State) (u : Nat) : Cvu := smGet Cvu.reset s.cvus u
def State.setCvu (s : State) (u : Nat) (v : Cvu) : State := { s with cvus := smSet Cvu.reset s.cvus u v }
def State.port (s : State) (p : Nat) : FabPort := smGet FabPort.reset s.fabric.ports p
def State.setPort (s : State) (p : Nat) (v : FabPort) : State :=
  { s with fabric.ports := smSet FabPort.reset s.fabric.ports p v }
def State.updPort (s : State) (p : Nat) (f : FabPort → FabPort) : State := s.setPort p (f (s.port p))
/-- A power region: stack and R433 region number. -/
def State.region (s : State) (k r : Nat) : Region := smGet Region.reset s.pwr.regions (56 * k + r)
def State.setRegion (s : State) (k r : Nat) (v : Region) : State :=
  { s with pwr.regions := smSet Region.reset s.pwr.regions (56 * k + r) v }
/-- A welt channel by its global number. -/
def State.chan (s : State) (c : Nat) : WeltChan := smGet WeltChan.reset s.welt.chans c
def State.setChan (s : State) (c : Nat) (v : WeltChan) : State :=
  { s with welt.chans := smSet WeltChan.reset s.welt.chans c v }
def State.weltStack (s : State) (k : Nat) : WeltStack := smGet WeltStack.reset s.welt.units k
def State.setWeltStack (s : State) (k : Nat) (v : WeltStack) : State :=
  { s with welt.units := smSet WeltStack.reset s.welt.units k v }
/-- A slice by its global number. -/
def State.slice (s : State) (k : Nat) : Slice := smGet Slice.reset s.sole.slices k
def State.setSlice (s : State) (k : Nat) (v : Slice) : State :=
  { s with sole.slices := smSet Slice.reset s.sole.slices k v }
def State.cntSlice (s : State) (k off n : Nat) : State :=
  s.setSlice k { s.slice k with counters := (s.slice k).counters.add off n }
def State.soleLine (s : State) (l : Nat) : SoleLine := smGet SoleLine.absent s.sole.lines l
def State.setLine (s : State) (l : Nat) (v : SoleLine) : State :=
  { s with sole.lines := smSet SoleLine.absent s.sole.lines l v }
def State.engine (s : State) (k : Nat) : SeqEngine := smGet SeqEngine.reset s.seq.engines k
def State.setEngine (s : State) (k : Nat) (v : SeqEngine) : State :=
  { s with seq.engines := smSet SeqEngine.reset s.seq.engines k v }
def State.cntSeq (s : State) (k off n : Nat) : State :=
  s.setEngine k { s.engine k with counters := (s.engine k).counters.add off n }
def State.seqDesc (s : State) (d : Nat) : SeqDesc := smGet SeqDesc.free s.seq.descs d
def State.setSeqDesc (s : State) (d : Nat) (v : SeqDesc) : State :=
  { s with seq.descs := smSet SeqDesc.free s.seq.descs d v }
def State.master (s : State) (m : Nat) : Master := smGet Master.reset s.qos.masters m
def State.setMaster (s : State) (m : Nat) (v : Master) : State :=
  { s with qos.masters := smSet Master.reset s.qos.masters m v }
/-- A thermal sensor: die code (0–7 soles … as R456 numbers them) and sensor. -/
def State.sensor (s : State) (d n : Nat) : Sensor := smGet Sensor.reset s.thm.sensors (96 * d + n)
def State.setSensor (s : State) (d n : Nat) (v : Sensor) : State :=
  { s with thm.sensors := smSet Sensor.reset s.thm.sensors (96 * d + n) v }
def State.die (s : State) (d : Nat) : Die := smGet Die.reset s.thm.dies d
def State.setDie (s : State) (d : Nat) (v : Die) : State := { s with thm.dies := smSet Die.reset s.thm.dies d v }
def State.keySlot (s : State) (n : Nat) : SecSlot := smGet SecSlot.empty s.sec.slots n
def State.setKeySlot (s : State) (n : Nat) (v : SecSlot) : State :=
  { s with sec.slots := smSet SecSlot.empty s.sec.slots n v }
/-- Counters of a stack's HBM block (R271). -/
def State.cntHbm (s : State) (k off n : Nat) : State :=
  { s with hbm.counters := smSet [] s.hbm.counters k (Counters.add (smGet [] s.hbm.counters k) off n) }
/-- Counters of a stack's PWR block (R454). -/
def State.cntPwr (s : State) (k off n : Nat) : State :=
  { s with pwr.counters := smSet [] s.pwr.counters k (Counters.add (smGet [] s.pwr.counters k) off n) }
def State.cntThm (s : State) (off n : Nat) : State := { s with thm.counters := s.thm.counters.add off n }
def State.cntSec (s : State) (off n : Nat) : State := { s with sec.counters := s.sec.counters.add off n }
def State.cntDbg (s : State) (off n : Nat) : State := { s with sec.dbgCounters := s.sec.dbgCounters.add off n }
def State.cntTile (s : State) (t off n : Nat) : State :=
  s.updTile t fun v => { v with counters := v.counters.add off n }
def State.cntPort (s : State) (p off n : Nat) : State :=
  s.updPort p fun v => { v with counters := v.counters.add off n }
def State.cntChan (s : State) (c off n : Nat) : State :=
  s.setChan c { s.chan c with counters := (s.chan c).counters.add off n }

/-- The present fabric cycle: 1.35 GHz against the 40 MHz always-on clock (R5). -/
def State.fabricNow (s : State) : Nat := s.aon.toNat * 135 / 4

/-- The key of a register of the indirect window (R323) in the register table; a BAR0 register's key is its offset. -/
def indKey (space off : Nat) : Nat := 2 ^ 20 * (space + 1) + off
/-- A register that holds what is written to it, by key and reset value. -/
def State.reg (s : State) (key dflt : Nat) : Nat := (smGet (BitVec.ofNat 32 dflt) s.regs key).toNat
def State.setReg (s : State) (key dflt : Nat) (v : Word) : State := { s with regs := smSet (BitVec.ofNat 32 dflt) s.regs key v }

/-- Draws a fresh free value's index (the model's own counter). -/
def State.draw (s : State) : Nat × State := (s.draws, { s with draws := s.draws + 1 })

/-! ## Licence and policy -/

/-- Whether a copy's generation or counter decides for it: the newer copy of R405. -/
def TwoCopy.read {α : Type} (newer : α → α → Bool) (dflt : α) (t : TwoCopy α) : α :=
  match t.a, t.b with
  | some a, some b => if newer a b then a else b
  | some a, none => a
  | none, some b => b
  | none, none => dflt

/-- Ports a variant licenses (R35). -/
def variantPorts (v : Nat) (p : Nat) : Bool :=
  if v = 0 then p < 3 || (9 ≤ p && p < 12) else if v = 1 then p < 6 || (9 ≤ p && p < 15) else true
/-- Module input power tier of a variant, W (R3). -/
def variantTier (v : Nat) : Nat := if v = 0 then 5000 else if v = 1 then 6200 else 7500
/-- Sequence descriptors a variant licenses (R3). -/
def variantSeq (v : Nat) : Nat := if v = 0 then 262144 else 1048576
/-- Ports a variant licenses, as LICENSED_PORTS counts them (R32). -/
def variantPortCount (v : Nat) : Nat := if v = 0 then 6 else if v = 1 then 12 else 18

/-- The variant in force (R425). -/
def State.variant (s : State) : Nat := s.dev.licence.2.1.toNat
def State.portLicensed (s : State) (p : Nat) : Bool := variantPorts s.variant p

/-- The licence record (R405, R425). -/
def State.licenceRec (s : State) : Licence :=
  s.mram.licence.read (fun a b => decide (b.counter.toNat < a.counter.toNat)) ⟨0, 0, []⟩
/-- The policy in force (R495, R497). -/
def State.policy (s : State) : Policy :=
  s.mram.policy.read (fun a b => decide (b.counter.toNat < a.counter.toNat)) Policy.factory
def State.defects (s : State) : Defects := s.mram.defects.read (fun _ _ => false) Defects.empty
def State.lastTable (s : State) : Option LastTable := s.mram.last.read (fun _ _ => false) none
def State.floors (s : State) : Floors := s.mram.floors.read (fun _ _ => false) ⟨0, 0⟩
def State.slots (s : State) : SlotPointers := s.mram.slots.read (fun _ _ => false) ⟨false, false⟩
/-- The stored floor plan: the copy with the higher generation (R405). -/
def State.storedPlan (s : State) : Option Plan :=
  s.mram.plan.read (fun a b => decide ((b.map (fun p => p.generation.toNat)).getD 0 < (a.map (fun p => p.generation.toNat)).getD 0))
    none
/-- The signature index q (R482): the higher of the copies (R483). With neither copy readable the key counts as exhausted,
so that no index signs twice (DESIGN CHOICE). -/
def State.sigIndex (s : State) : Nat := s.mram.sigIndex.read (fun a b => decide (b < a)) (2 ^ 30)

/-- A policy flag in force (R496). -/
def State.flag (s : State) (n : Nat) : Bool := s.policy.flags.getLsbD n
/-- A permission of a job: the flag in its snapshot and in the policy in force (R498). -/
def State.jobFlag (s : State) (j : Job) (n : Nat) : Bool := j.flags.getLsbD n && s.flag n

def State.setDefects (s : State) (d : Defects) : State := { s with mram.defects := TwoCopy.both d }
/-- Enters a unit in the defect record (R404); a unit recorded already keeps its entry. -/
def State.addDefect (s : State) (u : UnitId) (reason : Nat) : State :=
  let d := s.defects
  if d.units.any (fun e => e.1 == u) then s else s.setDefects { d with units := d.units ++ [(u, BitVec.ofNat 8 reason)] }

/-! ## Floor plan -/

/-- The entry of a unit other than a stack. -/
def Plan.get (p : Plan) (k : UnitKind) (n : Nat) : UnitEntry :=
  match k with
  | .tile => smGet UnitEntry.working p.tile n
  | .slice => smGet UnitEntry.working p.slice n
  | .welt => smGet UnitEntry.working p.welt n
  | .hbmStack | .hbmController => smGet UnitEntry.working p.hbmStack n
  | .hbmChannel => smGet UnitEntry.working p.hbmChannel n
  | .lacing => smGet UnitEntry.working p.lacing n
  | .port => smGet UnitEntry.working p.port n
  | .stack | .cvu => UnitEntry.working

def Plan.set (p : Plan) (k : UnitKind) (n : Nat) (e : UnitEntry) : Plan :=
  match k with
  | .tile => { p with tile := smSet UnitEntry.working p.tile n e }
  | .slice => { p with slice := smSet UnitEntry.working p.slice n e }
  | .welt => { p with welt := smSet UnitEntry.working p.welt n e }
  | .hbmStack | .hbmController => { p with hbmStack := smSet UnitEntry.working p.hbmStack n e }
  | .hbmChannel => { p with hbmChannel := smSet UnitEntry.working p.hbmChannel n e }
  | .lacing => { p with lacing := smSet UnitEntry.working p.lacing n e }
  | .port => { p with port := smSet UnitEntry.working p.port n e }
  | .stack | .cvu => p

def UnitEntry.isWorking (e : UnitEntry) : Bool := e.state == 0
/-- WORKING or DEGRADED. -/
def UnitEntry.inService (e : UnitEntry) : Bool := e.state == 0 || e.state == 1
def UnitEntry.isDisabled (e : UnitEntry) : Bool := e.state == 2

/-- A tile that works (WORKING or DEGRADED, R32). -/
def Plan.tileOk (p : Plan) (t : Nat) : Bool := (p.get .tile t).inService
/-- A live slice (R32). -/
def Plan.sliceOk (p : Plan) (k : Nat) : Bool := (p.get .slice k).isWorking
def State.tileOk (s : State) (t : Nat) : Bool := s.plan.tileOk t
def State.sliceOk (s : State) (k : Nat) : Bool := s.plan.sliceOk k

/-- Working tiles of a stack, by global number, ascending. -/
def Plan.stackTiles (p : Plan) (k : Nat) : List Nat := ((upTo 52).map (52 * k + ·)).filter p.tileOk
/-- Live slices of a stack, by their number in the stack, ascending. -/
def Plan.stackSlices (p : Plan) (k : Nat) : List Nat := (upTo 64).filter (fun n => p.sliceOk (64 * k + n))

/-- Whether a stack misses a minimum of R4. -/
def Plan.below (p : Plan) (k : Nat) : Bool := (p.stackTiles k).length < 48 || (p.stackSlices k).length < 60

/-- Working channels of an HBM stack, ascending, by their number in the stack (R252). -/
def Plan.channels (p : Plan) (h : Nat) : List Nat := (upTo 32).filter (fun c => (p.get .hbmChannel (32 * h + c)).isWorking)
/-- The channel of an HBM offset, 32 on a stack without one (R252). -/
def Plan.channelOf (p : Plan) (h x : Nat) : Nat :=
  let cs := p.channels h
  if cs.length = 0 then 32 else cs.getD (x / 2048 % cs.length) 32
/-- A live HBM stack (R253). -/
def Plan.hbmLive (p : Plan) (h : Nat) : Bool := !(p.get .hbmStack h).isDisabled && !(p.channels h).isEmpty
/-- Bytes a live HBM stack offers, in GiB × 2 per channel (R253). -/
def Plan.hbmGib (p : Plan) (h : Nat) : Nat := if p.hbmLive h then 2 * (p.channels h).length else 0
/-- DEVICE_MEMORY in MiB (R253). -/
def Plan.deviceMemory (p : Plan) : Nat :=
  let live := (upTo 16).filter p.hbmLive
  match live with
  | [] => 0
  | h :: r => live.length * (r.foldl (fun m x => min m (p.hbmGib x)) (p.hbmGib h)) * 1024

/-- The endpoints of a lacing link (R19): stacks 0–7, I/O dies 8 and 9. -/
def lacingEnds (l : Nat) : Nat × Nat :=
  [(0, 1), (1, 2), (2, 3), (4, 5), (5, 6), (6, 7), (0, 4), (1, 5), (2, 6), (3, 7), (8, 0), (8, 4), (9, 3), (9, 7)].getD l (0, 0)

/-- Widens a set of joined dies by one pass over the working links. -/
def Plan.joinPass (p : Plan) : List Nat → List Nat → List Nat
  | [], r => r
  | l :: ls, r =>
    let e := lacingEnds l
    let r' := if (p.get .lacing l).inService then
        if r.contains e.1 && !r.contains e.2 then e.2 :: r
        else if r.contains e.2 && !r.contains e.1 then e.1 :: r else r
      else r
    p.joinPass ls r'

def Plan.joinN (p : Plan) : Nat → List Nat → List Nat
  | 0, r => r
  | n + 1, r => p.joinN n (p.joinPass (upTo 14) r)

/-- Every stack and I/O die is joined by working lacing links (R25). -/
def Plan.connected (p : Plan) : Bool := (p.joinN 10 [0]).length == 10

/-- The minimum of R25 is met: connection, and at least 512 GiB of device memory. -/
def Plan.meets25 (p : Plan) : Bool := p.connected && decide (512 * 1024 ≤ p.deviceMemory)

/-- Takes a tile or slice out of service, with DETAIL 0 (a tile that is out has no clock cap), keeping the REASON its stack
carries when that makes the stack miss a minimum (R34). -/
def Plan.disable (p : Plan) (k : UnitKind) (n : Nat) (reason : Byte) : Plan :=
  let p' := p.set k n ⟨2, reason, 0⟩
  let st := match k with | .tile => n / 52 | .slice => n / 64 | _ => 8
  if st < 8 && p'.below st && !p.below st then { p' with stackReason := smSet 0 p'.stackReason st reason } else p'

/-- The entry of a compute stack (R34). -/
def Plan.stackEntry (p : Plan) (k : Nat) : UnitEntry :=
  let d := BitVec.ofNat 16 ((p.stackTiles k).length + 256 * (p.stackSlices k).length)
  if p.below k then ⟨2, smGet 0 p.stackReason k, d⟩ else ⟨0, 0, d⟩

def UnitEntry.bytes (e : UnitEntry) : List Byte := [e.state, e.reason] ++ natToBytes 2 e.detail.toNat

/-- The entries of a section of the record. -/
def Plan.section (p : Plan) (k : UnitKind) : List Byte := ((upTo (unitCount k)).map (fun n => (p.get k n).bytes)).flatten

/-- Bytes 0x0000 to 0x1F9F of the floor-plan record (R31, R32). -/
def Plan.body (p : Plan) (part : Part) (stateCode origin : Nat) : List Byte :=
  natToBytes 4 0x464C5031 ++ natToBytes 2 1 ++ natToBytes 2 0x1FC0 ++ natToBytes 4 p.generation.toNat ++ natToBytes 4 0 ++
  natToBytes 8 p.aonCount.toNat ++ natToBytes 1 stateCode ++ natToBytes 1 origin ++
  natToBytes 2 ((upTo 416).filter p.tileOk).length ++ natToBytes 2 ((upTo 512).filter p.sliceOk).length ++
  natToBytes 2 ((upTo 512).filter (fun c => (p.get .hbmChannel c).isWorking)).length ++
  ((upTo 8).map (fun k => BitVec.ofNat 8 (p.stackTiles k).length)) ++
  ((upTo 8).map (fun k => BitVec.ofNat 8 (p.stackSlices k).length)) ++
  natToBytes 2 part.upperStepping.toNat ++ natToBytes 2 part.soleStepping.toNat ++ natToBytes 2 part.iodStepping.toNat ++
  natToBytes 1 (((upTo 8).filter p.below).foldl (fun m k => m + 2 ^ k) 0) ++ natToBytes 1 (variantPortCount p.variant.toNat) ++
  natToBytes 4 p.deviceMemory ++ natToBytes 4 0 ++
  ((upTo 8).map (fun k => (p.stackEntry k).bytes)).flatten ++
  p.section .tile ++ p.section .slice ++ p.section .welt ++ p.section .hbmStack ++ p.section .hbmChannel ++
  p.section .lacing ++ p.section .port

/-- The whole record with its digest (R31). -/
def Plan.record (p : Plan) (part : Part) (stateCode origin : Nat) : List Byte :=
  let b := p.body part stateCode origin
  b ++ sha256 b

/-! ## Measurement registers -/

def State.mr (s : State) (n : Nat) : BitVec 256 := smGet 0 s.sec.mr n
/-- MRn := SHA-256(MRn ‖ D) (R476). -/
def State.extendMr (s : State) (n : Nat) (d : List Byte) : State :=
  { s with sec.mr := smSet 0 s.sec.mr n (digestBits (sha256 (digestBytes (s.mr n) ++ d))) }
def State.clearMr (s : State) (n : Nat) : State := { s with sec.mr := smSet 0 s.sec.mr n 0 }

/-- Commits a floor plan: the generation rises by 1, never past its greatest value, since it never decreases (R27; log
entry 150), the record is written to MRAM (R26, R406) and MR6 is extended with its digest (R476). -/
def State.commitPlan (s : State) (p : Plan) (origin : Nat) : State :=
  let g := BitVec.ofNat 32 (satAdd32 s.mram.generation.toNat 1)
  let p' := { p with generation := g, aonCount := s.aon, origin := BitVec.ofNat 8 origin, variant := BitVec.ofNat 8 s.variant }
  let s' := { s with plan := p', mram.generation := g, mram.plan := TwoCopy.both (some p') }
  s'.extendMr 6 (sha256 (p'.body s.part s.dev.mode.code origin))

/-! ## Address map -/

/-- The compute stacks of a mask, ascending. -/
def maskStacks (m : BitVec 8) : List Nat := (upTo 8).filter (fun k => m.getLsbD k)

/-- The live HBM stacks of a job's set, ascending (R251). -/
def Plan.liveOf (p : Plan) (j : BitVec 8) : List Nat :=
  ((maskStacks j).map (fun k => [2 * k, 2 * k + 1])).flatten.filter p.hbmLive

/-- F: the declared footprint (R250). -/
def Image.footprint (im : Image) : Nat := im.fI + im.fS.foldl (· + ·) 0

/-- B_s: where the local range of a stack begins (R250). -/
def Image.localBase (im : Image) (k : Nat) : Nat :=
  im.fI + (((maskStacks im.stackBits).filter (· < k)).map (fun t => im.fS.getD t 0)).foldl (· + ·) 0

/-- The stack whose local range holds an address. -/
def Image.localStack (im : Image) (a : Nat) : Option Nat :=
  (maskStacks im.stackBits).find? (fun k => decide (im.localBase k ≤ a) && decide (a < im.localBase k + im.fS.getD k 0))

/-- Where a device address of a job lies (R251): HBM stack h, offset x, home stack s and stack-local offset o. -/
structure Place where
  h : Nat
  x : Nat
  s : Nat
  o : Nat
deriving DecidableEq, Repr

def mkPlace (h m a : Nat) : Place := ⟨h, m * 4096 + a % 4096, h / 2, (2 * m + h % 2) * 4096 + a % 4096⟩

/-- The map of R251; none outside the footprint. -/
def Plan.place (p : Plan) (im : Image) (a : Nat) : Option Place :=
  let hs := p.liveOf im.stackBits
  let n := a / 4096
  if a < im.fI then
    if hs.length = 0 then none else some (mkPlace (hs.getD (n % hs.length) 0) (n / hs.length) a)
  else
    match im.localStack a with
    | none => none
    | some t =>
      let k := (a - im.localBase t) / 4096
      let pr := [2 * t, 2 * t + 1].filter p.hbmLive
      let ni := im.fI / 4096
      if pr.length = 0 then none
      else some (mkPlace (pr.getD (k % pr.length) 0)
        ((if hs.length = 0 then 0 else (ni + hs.length - 1) / hs.length) + k / pr.length) a)

/-- The number of a line: home stack and line within the stack-local space. -/
def Place.line (pl : Place) : Nat := pl.s * 2 ^ 29 + pl.o / 256

/-- The HBM stack of a line and its offset there (R251 read backwards). -/
def lineHbm (l : Nat) : Nat × Nat :=
  let st := l / 2 ^ 29
  let o := l % 2 ^ 29 * 256
  (2 * st + o / 4096 % 2, o / 8192 * 4096 + o % 4096)

/-- A byte address in the contents of the HBM stacks. -/
def hbmAddr (h x : Nat) : Nat := h * 2 ^ 36 + x

/-- The job that holds a compute stack (R346): its identifier. -/
def State.jobOn (s : State) (k : Nat) : Option Nat :=
  (s.jobs.find? (fun e => e.2.image.stackBits.getLsbD k)).map Prod.fst

/-- A job that is present (R346): its end is not decided. -/
def State.present (s : State) (j : Nat) : Bool :=
  match s.job j with
  | some v => v.ended.isNone
  | none => false

/-! ## Host memory -/

/-- Whether a host access would succeed: the link is up and no failing range is touched (R337). -/
def State.hostOk (s : State) (a n : Nat) : Bool :=
  s.host.up && s.host.failing.all (fun r => decide (a + n ≤ r.1) || decide (r.1 + r.2 ≤ a))

/-- Counts a host access that failed on the link (R329). -/
def State.hostError (s : State) : State := { s with mgt.hostErrors := BitVec.ofNat 32 (satAdd32 s.mgt.hostErrors.toNat 1) }

def State.hostRead (s : State) (a n : Nat) : List Byte := s.host.mem.readBytes a n
def State.hostWrite (s : State) (a : Nat) (bs : List Byte) : State := { s with host.mem := s.host.mem.writeBytes a bs }

/-! ## Audit log -/

/-- U of R504. -/
def State.unacked (s : State) : Nat := s.mram.auditHead.toNat - s.mram.auditAck.toNat
/-- The audit reserve is in force (R504). -/
def State.auditReserve (s : State) : Bool := decide (15360 ≤ s.unacked)

def AuditEntry.bytes (e : AuditEntry) : List Byte :=
  natToBytes 8 e.index.toNat ++ natToBytes 8 e.aonCount.toNat ++ natToBytes 2 e.origin.toNat ++ natToBytes 2 e.originId.toNat ++
  natToBytes 4 e.event.toNat ++ natToBytes 8 e.job.toNat ++ natToBytes 64 e.payload.toNat

def AuditEntry.blank : AuditEntry := ⟨0, 0, 0, 0, 0, 0, 0, 0⟩

/-- Writes one entry at the head with its chain hash and commits the head (R501, R502). -/
def State.auditPut (s : State) (origin oid event job : Nat) (payload : List Byte) : State :=
  let h := s.mram.auditHead.toNat
  let prev := if h = 0 then 0 else (smGet AuditEntry.blank s.mram.audit ((h - 1) % 16384)).chain
  let e : AuditEntry := ⟨BitVec.ofNat 64 h, s.aon, BitVec.ofNat 8 origin, BitVec.ofNat 16 oid, BitVec.ofNat 16 event,
    BitVec.ofNat 32 job, BitVec.ofNat 512 (bytesToNat payload), 0⟩
  let e' := { e with chain := digestBits (sha256 (digestBytes prev ++ e.bytes)) }
  { s with mram.audit := smPut s.mram.audit (h % 16384) e', mram.auditHead := s.mram.auditHead + 1 }

/-- The acknowledged index advances with an overwrite of the oldest retained entry (R504). -/
def State.auditOver (s : State) : State :=
  if 16384 ≤ s.unacked then { s with mram.auditAck := s.mram.auditAck + 1, sec.auditLost := true } else s

/-- Appends an entry; the first overwrite of a loss episode is followed by one AUDIT_LOST entry (R504). -/
def State.audit (s : State) (origin oid event job : Nat) (payload : List Byte) : State :=
  if 16384 ≤ s.unacked && !s.sec.lossEpisode then
    let first := s.mram.auditAck
    let s1 := s.auditOver.auditPut origin oid event job payload
    let s2 := s1.auditOver.auditPut 3 0 0x19 0 (natToBytes 8 first.toNat ++ natToBytes 8 (first.toNat + 1))
    { s2 with sec.lossEpisode := true, sec.lossFirst := first }
  else s.auditOver.auditPut origin oid event job payload

/-- An entry of origin firmware, the MC (R501). -/
def State.auditFw (s : State) (event job : Nat) (payload : List Byte) : State := s.audit 3 0 event job payload
/-- An entry of origin host link for a descriptor of a ring (R501). -/
def State.auditRing (s : State) (ring event job : Nat) (payload : List Byte) : State := s.audit 0 ring event job payload

/-! ## Black box -/

/-- The 64 bytes of a record (R519), the last four its CRC-32C. -/
def bbBytes (index ty code stack state : Nat) (aon : Dword) (gen : Word) (job : Nat) (payload : List Byte) (mfw : Word) :
    List Byte :=
  let b := natToBytes 4 index ++ natToBytes 1 ty ++ natToBytes 1 code ++ natToBytes 1 stack ++ natToBytes 1 state ++
    natToBytes 8 aon.toNat ++ natToBytes 4 gen.toNat ++ natToBytes 4 job ++ natToBytes 32 (bytesToNat payload) ++
    natToBytes 4 mfw.toNat
  b ++ natToBytes 4 (crc32c b)

/-- Appends a record to copy A, then copy B, and advances the head (R521), within the limits of R523. -/
def State.blackBox (s : State) (ty code stack job : Nat) (payload : List Byte) : State :=
  let h := s.mram.bbHead
  if 65536 ≤ h || (65024 ≤ h && !(decide (ty = 1) || decide (ty = 2) || decide (ty = 3) || decide (ty = 4))) then
    { s with mram.bbDropped := BitVec.ofNat 32 (satAdd32 s.mram.bbDropped.toNat 1) }
  else
    let v := BitVec.ofNat 512 (bytesToNat (bbBytes h ty code stack s.dev.mode.code s.aon s.mram.generation job payload
      s.dev.mfwVersion))
    { s with mram.bbA := smPut s.mram.bbA h v, mram.bbB := smPut s.mram.bbB h v, mram.bbHead := h + 1 }

/-- REASON of a FIELD_DEFECT record (R520): START_TEST during a bring-up or slip-on, IN_SERVICE otherwise. -/
def State.findReason (s : State) : Nat :=
  match s.dev.mode with
  | .boot | .bringup | .check | .aon => 2
  | _ => if s.dev.stackReset = 0 then 0x0B else 2

/-- A FIELD_DEFECT record (R520). -/
def State.fieldDefect (s : State) (kind unit reason : Nat) (detail : List Byte) (stack : Nat) : State :=
  s.blackBox 5 kind stack 0 (natToBytes 4 unit ++ [BitVec.ofNat 8 reason] ++ List.replicate 3 0 ++ detail)

/-! ## Completions -/

/-- The fields of the descriptor header and body (R339, R341): `n` bytes at an offset. -/
def descField (d : BitVec 512) (off n : Nat) : Nat := d.toNat / 2 ^ (8 * off) % 2 ^ (8 * n)

/-- A descriptor in flight. -/
def State.findDesc (s : State) (r : Nat) (i : Word) : Option InFlight :=
  s.inflight.find? (fun f => f.ring == r && f.idx == i)

/-- Counters that completions raise (R507). -/
def State.countStatus (s : State) (status : Nat) : State :=
  if status = 1 then s.cntSec 0x120 1 else if status = 0x3B then s.cntSec 0x108 1
  else if status = 0x3A then s.cntSec 0x128 1 else s

/-- Completes a descriptor: it is no longer in flight, and its completion waits to be posted (R336, R343). -/
def State.complete (s : State) (r : Nat) (i : Word) (status detail result : Nat) : State :=
  match s.findDesc r i with
  | none => s
  | some f =>
    let rg := s.ring r
    let c : Completion := ⟨i.toNat % 2 ^ rg.log2.toNat, BitVec.ofNat 8 status, BitVec.ofNat 32 (descField f.bytes 4 4),
      BitVec.ofNat 32 (descField f.bytes 8 4), BitVec.ofNat 8 (descField f.bytes 0 1), BitVec.ofNat 8 detail,
      BitVec.ofNat 64 result⟩
    let s' := { s with inflight := s.inflight.filter (fun g => !(g.ring == r && g.idx == i)) }
    (s'.updRing r fun g => { g with waiting := g.waiting ++ [c] }).countStatus status

/-- NOT_READY, or TOPOLOGY while the device is held (R7). -/
def State.notReady (s : State) : Nat := if s.dev.mode = .held then 0x0D else 5

/-! ## The end of a job -/

/-- What every end records. -/
def JobEnd.plain (status : Nat) (aon : Dword) (stackBits : BitVec 8) : JobEnd :=
  ⟨BitVec.ofNat 8 status, 0, aon, 0xFFFFFFFF, 0xFFFFFFFF, 0, 0, 0, 0, stackBits, 0, 0xFFFFFFFF, false⟩

/-- Decides a job's end; a job whose end is decided keeps it (R348). -/
def State.endJob (s : State) (j : Nat) (e : JobEnd) : State :=
  s.updJob j fun v => if v.ended.isSome then v else { v with ended := some e }

/-- Where a job-fatal fault happened: tile, group identifier, threads of the set and its PC (R516). -/
structure FaultSite where
  tile : Word
  group : Word
  lanes : Word
  pc : Word
deriving DecidableEq, Repr

/-- A fault of no thread. -/
def FaultSite.none : FaultSite := ⟨0xFFFFFFFF, 0xFFFFFFFF, 0, 0⟩

/-- A job-fatal fault (R511): the first decides the job's end; every later one counts in SUPPRESSED. -/
def State.jobFault (s : State) (j : Nat) (code : Nat) (at_ : FaultSite) (info : List Byte) (bb : Word) : State :=
  s.updJob j fun v =>
    if v.ended.isSome then { v with suppressed := BitVec.ofNat 32 (satAdd32 v.suppressed.toNat 1) }
    else { v with ended := some ⟨3, BitVec.ofNat 8 code, s.aon, at_.tile, at_.group, at_.lanes, at_.pc, 1, BitVec.ofNat 8 code,
      v.image.stackBits, BitVec.ofNat 256 (bytesToNat info), bb, false⟩ }

/-- Decides the end of every job that a test selects. -/
def State.endJobs (s : State) (p : Nat → Job → Bool) (e : Job → JobEnd) : State :=
  { s with jobs := smMap (fun k v => if p k v && v.ended.isNone then { v with ended := some (e v) } else v) s.jobs }

/-- The welt of a stack begins to quiesce (R246, R247): repairs are abandoned and flagged, the pause so far being counted, and a
self-test stops. -/
def State.quiesce (s : State) (k : Nat) : State :=
  let s1 := ((upTo 64).map (64 * k + ·)).foldl (fun t c =>
    let x := t.chan c
    if x.repairing then
      (t.setChan c { x with repairing := false, testDue := true }).cntChan c 0x120 (min 8192 (t.fabricNow - x.pausedAt))
    else t) s
  let w := s1.weltStack k
  s1.setWeltStack k { w with
    due := w.due || w.testing, testing := false, quiescing := true
    quiesces := BitVec.ofNat 32 (satAdd32 w.quiesces.toNat 1) }

/-- A stack-fatal fault (R509, R510, R512, R527): the fatal-fault record, the end of every job holding an affected stack, and
in READY the start of the stacks' compute reset (R413); in the other states with powered stacks a compute reset is
requested (R414). -/
def State.stackFatal (s : State) (mask : BitVec 8) (cause : Nat) (unit : List Byte) : State :=
  let bb := s.mram.bbHead
  let st := (maskStacks mask).headD 0xFF
  let s1 := s.blackBox 1 cause st 0 ([2, 0] ++ List.replicate 6 0 ++ natToBytes 8 (bytesToNat unit) ++ natToBytes 4 0xFFFFFFFF)
  let idx : Word := if s1.mram.bbHead = bb then 0xFFFFFFFF else BitVec.ofNat 32 bb
  let s2 := s1.endJobs (fun _ v => v.image.stackBits &&& mask != 0) fun _ =>
    ⟨0x3C, 0, s.aon, 0xFFFFFFFF, 0xFFFFFFFF, 0, 0, 2, BitVec.ofNat 8 cause, mask, BitVec.ofNat 256 (bytesToNat unit), idx, false⟩
  match s.dev.mode with
  | .ready => (maskStacks mask).foldl (fun t k => t.quiesce k) { s2 with
      dev.stackReset := s2.dev.stackReset ||| mask
      hbm.selfRefresh := (maskStacks mask).foldl (fun m k => m ||| BitVec.ofNat 16 (3 * 4 ^ k)) s2.hbm.selfRefresh }
  | .boot | .bringup | .check | .held => { s2 with dev.heldReset := some .compute }
  | .off | .aon | .limp | .shutdown => s2

/-- A change of the floor plan (R26): committed, and stack-fatal for each stack that it takes below R4, the stack being
the unit concerned (R517). -/
def State.changePlan (s : State) (p : Plan) (origin : Nat) : State :=
  let newly := (upTo 8).filter (fun k => p.below k && !s.plan.below k)
  let s1 := s.commitPlan p origin
  newly.foldl (fun t k => t.stackFatal (BitVec.ofNat 8 (2 ^ k)) 1 (natToBytes 8 k)) s1

end Sys2Proof.Machine
end

