-- ==== Sys2Proof/Machine/Errors.lean ====
section
/-! DEFINITION. Memory errors as every memory shares them (R261 to R265): correctable errors with their tables and repair
records, the job-fatal fault of an uncorrectable one, and the words of the tiles. -/

namespace Sys2Proof.Machine

/-! ## Correctable errors (R262 to R264) -/

/-- The table of a stack and memory type. -/
def State.eccTable (s : State) (k ty : Nat) : List EccEntry := smGet [] s.hbm.tables (3 * k + ty)
def State.setEccTable (s : State) (k ty : Nat) (t : List EccEntry) : State :=
  { s with hbm.tables := smSet [] s.hbm.tables (3 * k + ty) t }

/-- HBM_REPAIR_LEVEL, 0 acting as 1 (R271). -/
def State.repairLevel (s : State) : Nat := max 1 (s.reg (indKey 2 8) 4 % 256)

/-- The row of the unit at a LOCATION: its global channel, and the row within it (R252, R264). -/
def Plan.hbmRow (p : Plan) (loc : Nat) : Dword :=
  let h := loc / 2 ^ 30
  let x := loc % 2 ^ 30 * 64
  let c := 32 * h + p.channelOf h x
  BitVec.ofNat 64 (2 ^ 32 * c + (Config.hbmRow c (x / 2048 / (p.channels h).length * 32 + x % 2048 / 64)).toNat)

/-- Records the row of an HBM unit for repair (R264): a row recorded already adds nothing. -/
def State.recordRow (s : State) (k loc : Nat) : State :=
  let row := s.plan.hbmRow loc
  if s.mram.hbmRows.any (fun r => r.row == row) then s
  else
    let s1 := if s.mram.hbmRows.length < 4096 then
        { s with mram.hbmRows := s.mram.hbmRows ++ [⟨BitVec.ofNat 64 loc, row, false⟩] } else s
    s1.fieldDefect 3 (loc / 2 ^ 30) s.findReason (natToBytes 8 loc) k

/-- Records a sole word for sparing (R264); the record's row field names its stack. -/
def State.recordWord (s : State) (k loc : Nat) : State :=
  let word : RepairRecord := ⟨BitVec.ofNat 64 loc, BitVec.ofNat 64 k, false⟩
  if s.mram.soleWords.any (fun r => r.location == word.location && r.row == word.row) then s
  else
    let s1 := if s.mram.soleWords.length < 4096 then { s with mram.soleWords := s.mram.soleWords ++ [word] } else s
    s1.fieldDefect 4 (64 * k + loc % 64) s.findReason (natToBytes 8 loc) k

/-- Whether the repair record of a location is held. -/
def State.isRecorded (s : State) (k ty loc : Nat) : Bool :=
  if ty = 0 then s.mram.hbmRows.any (fun r => r.row == s.plan.hbmRow loc)
  else s.mram.soleWords.any (fun r => r.location == BitVec.ofNat 64 loc && r.row == BitVec.ofNat 64 k)

/-- Sets RECORDED in a location's entry once its record is held (R264). -/
def State.markRecorded (s : State) (k ty loc : Nat) : State :=
  if s.isRecorded k ty loc then
    s.setEccTable k ty ((s.eccTable k ty).map fun x => if x.location == BitVec.ofNat 64 loc then { x with recorded := true } else x)
  else s

/-- The entry that a new location replaces in a full table: the lowest COUNT, the oldest LAST on a tie. -/
def eccVictim : List EccEntry → Option EccEntry → Option EccEntry
  | [], b => b
  | e :: es, none => eccVictim es (some e)
  | e :: es, some b =>
    eccVictim es (if e.count < b.count || (e.count == b.count && decide (e.last.toNat < b.last.toNat)) then some e else some b)

/-- A correction at a location (R262, R263): counted, and entered in the table; an HBM or SOLE entry at the repair level is
recorded. -/
def State.correctable (s : State) (k ty loc : Nat) : State :=
  let s := s.cntHbm k (0x100 + 8 * ty) 1
  let t := s.eccTable k ty
  let here := BitVec.ofNat 64 loc
  let old := (t.find? (fun e => e.location == here)).getD ⟨here, 0, 0, false⟩
  let e : EccEntry := { old with count := min 0xFFFF (old.count + 1), last := s.aon }
  let hit := t.any (fun e => e.location == here)
  let s1 :=
    if hit then s.setEccTable k ty (t.map fun x => if x.location == here then e else x)
    else if t.length < 32 then s.setEccTable k ty (t ++ [e])
    else
      match eccVictim t none with
      | none => s
      | some v => (s.setEccTable k ty (t.map fun x => if x = v then e else x)).cntHbm k 0x140 1
  if ty < 2 && decide (s.repairLevel ≤ e.count) && !old.recorded then
    (if ty = 0 then s1.recordRow k loc else s1.recordWord k loc).markRecorded k ty loc
  else s1

/-! ## Uncorrectable errors (R265, R268) -/

/-- The job-fatal fault 0x2C of an uncorrectable error (R265): a fatal-fault record, and the job's end; for a job whose end
is decided it is logged and counted (R268, R511). -/
def State.memFault (s : State) (k ty loc j : Nat) (tile : Word) : State :=
  let info := [BitVec.ofNat 8 ty] ++ List.replicate 7 0 ++ natToBytes 8 loc
  let h := s.mram.bbHead
  let s1 := s.blackBox 1 0x2C k j ([1, BitVec.ofNat 8 ty] ++ List.replicate 6 0 ++ natToBytes 8 loc ++ natToBytes 4 tile.toNat)
  s1.jobFault j 0x2C ⟨tile, 0xFFFFFFFF, 0, 0⟩ info (if s1.mram.bbHead = h then 0xFFFFFFFF else BitVec.ofNat 32 h)

/-! ## Words of the tiles (R261, R263, R265) -/

/-- The LOCATION of a word of a tile, numbered 2^20 × array + word. -/
def tileLocation (t n : Nat) : Nat := t + 512 * (n / 2 ^ 20) + 4096 * (n % 2 ^ 20)
/-- The word of a thread's register: TGP `p`, slot, N_R registers a thread. -/
def regWord (p slot nR r lane : Nat) : Nat := 2 ^ 20 * p + 32 * nR * slot + 32 * r + lane
/-- The words of the shared array that hold some bytes of the local-store share. -/
def inShare (lo len n : Nat) : Bool := n / 2 ^ 20 == 4 && decide (lo / 4 ≤ n % 2 ^ 20) && decide (n % 2 ^ 20 * 4 < lo + len)
/-- The word of the shared array that holds word `i` of an L1 line, above a share of `share` bytes. -/
def l1Word (t share l i : Nat) : Nat := 2 ^ 22 + share / 4 + 64 * Config.l1Frame t l + i
/-- The words of an L1 line that hold bytes of a mask, and its tag. -/
def inL1 (t share l : Nat) (mask : BitVec 256) (n : Nat) : Bool :=
  n == 2 ^ 20 * 5 + Config.l1Frame t l ||
  (upTo 64).any fun i => n == l1Word t share l i && BitVec.extractLsb' (4 * i) 4 mask != 0

/-- Flipped data bits that a read leaves in place: the register, the bytes of the share or of the L1 line now hold them. -/
def Tile.leaveWord (x : Tile) (t nR share n left : Nat) : Tile :=
  let w := n % 2 ^ 20
  if n / 2 ^ 20 < 4 then
    { x with groups := smMap (fun k g => if k = 16 * (n / 2 ^ 20) + w / (32 * nR) then
        { g with regs := smSet 0 g.regs (w % (32 * nR)) (smGet 0 g.regs (w % (32 * nR)) ^^^ BitVec.ofNat 32 left) } else g) x.groups }
  else if n / 2 ^ 20 = 4 && decide (4 * w < share) then
    { x with share := x.share.writeNat (4 * w) 4 (x.share.readNat (4 * w) 4 ^^^ left) }
  else
    let hit := fun l => (upTo 64).filter fun i => n == l1Word t share l i
    { x with l1 := smMap (fun l c => { c with data := (hit l).foldl (fun d i => d ^^^ BitVec.ofNat 2048 (left * 2 ^ (32 * i))) c.data }) x.l1 }

/-- The job that holds a stack, as its tiles serve it. -/
def State.jobHolding (s : State) (k : Nat) : Option (Nat × Job) := (s.jobOn k).bind fun j => (s.job j).map fun v => (j, v)

/-- One word of a tile is read, its register file holding N_R registers a thread and its share some bytes: corrected in
place, or uncorrectable (R261, R262). -/
def State.tileWord (s : State) (t nR share n : Nat) : Bool × State :=
  match readWord 39 32 (smGet 0 (s.tile t).flips n).toNat with
  | none => (false, s.cntHbm (t / 52) 0x128 1)
  | some left =>
    let s1 := s.updTile t fun x =>
      { (if left = 0 then x else x.leaveWord t nR share n left) with flips := smErase x.flips n }
    (true, s1.correctable (t / 52) 2 (tileLocation t n))

/-- Words of a tile are read until one cannot be used, which is named. -/
def State.tileWords (s : State) (t nR share : Nat) (p : Nat → Bool) : Option Nat × State :=
  (smKeys (fun n _ => p n) (s.tile t).flips).foldl
    (fun r n => if r.1.isSome then r else let q := r.2.tileWord t nR share n; (if q.1 then none else some n, q.2)) (none, s)

/-- The job-fatal fault of an uncorrectable word of a tile (R265). -/
def State.tileBad (s : State) (t n : Nat) : State :=
  match s.jobOn (t / 52) with
  | none => s
  | some j => (s.memFault (t / 52) 2 (tileLocation t n) j (BitVec.ofNat 32 t)).cntTile t 0x150 1

/-- Reads words of a tile whose loss ends the job (R265): whether all of them can be used. -/
def State.readWords (s : State) (t nR share : Nat) (p : Nat → Bool) : Bool × State :=
  if (s.tile t).flips.isEmpty then (true, s)
  else match s.tileWords t nR share p with
    | (none, s1) => (true, s1)
    | (some n, s1) => (false, s1.tileBad t n)

/-- Words of a tile are written: their flipped bits are gone. -/
def Tile.written (x : Tile) (p : Nat → Bool) : Tile := { x with flips := smFilter (fun n _ => !p n) x.flips }

end Sys2Proof.Machine
end

