-- ==== Sys2Proof/Machine/Formats.lean ====
section
/-! DEFINITION. The number formats and their conversions (R36 to R68): decoding a code to its exact value, rounding an
exact value once into a destination, the wide partial WP96, anchors, and quantising to block-scaled form. -/

namespace Sys2Proof.Machine

/-! ## Exact values -/

/-- An exact value: a NaN, an infinity, or ± num ÷ den × 2^exp. -/
inductive Val where
  | nan
  | inf (neg : Bool)
  | fin (neg : Bool) (num den : Nat) (exp : Int)
deriving DecidableEq, Repr

def Val.zero : Val := .fin false 0 1 0
/-- A whole number as a value. -/
def Val.ofInt (i : Int) : Val := .fin (decide (i < 0)) i.natAbs 1 0

/-- A number times 2^k, k of either sign, as a fraction. -/
def scaleUp (n : Nat) (k : Int) : Nat := n * 2 ^ k.toNat

/-- floor(log2 (num ÷ den × 2^exp)) of a non-zero magnitude. -/
def log2Frac (num den : Nat) (exp : Int) : Int :=
  let k : Int := (Nat.log2 num : Int) - (Nat.log2 den : Int)
  if den * 2 ^ k.toNat ≤ num * 2 ^ (-k).toNat then k + exp else k - 1 + exp

/-! ## Format tables -/

/-- Width in bits of a format code (R36). -/
def fmtBits : Nat → Nat
  | 0 => 32 | 1 => 16 | 2 => 16 | 3 => 8 | 4 => 8 | 5 => 6 | 6 => 6 | 7 => 4 | 8 => 8 | 9 => 8 | 10 => 4 | 11 => 32
  | 12 => 8 | 13 => 8 | 14 => 128 | _ => 0
/-- Mantissa bits of a floating-point format (R37). -/
def fmtM : Nat → Nat
  | 0 => 23 | 1 => 10 | 2 => 7 | 3 => 2 | 4 => 3 | 5 => 2 | 6 => 3 | _ => 1
/-- Exponent bits of a floating-point format (R37). -/
def fmtE : Nat → Nat
  | 0 => 8 | 1 => 5 | 2 => 8 | 3 => 5 | 4 => 4 | 5 => 3 | 6 => 2 | _ => 2
/-- Exponent bias (R37). -/
def fmtBias : Nat → Int
  | 0 => 127 | 1 => 15 | 2 => 127 | 3 => 15 | 4 => 7 | 5 => 3 | _ => 1
/-- Floating-point element formats (R37). -/
def isFloat (f : Nat) : Bool := f < 8
/-- Integer formats (R40). -/
def isInt (f : Nat) : Bool := f = 8 || f = 9 || f = 10 || f = 11
/-- 8-bit-and-narrower formats (R68). -/
def isNarrow (f : Nat) : Bool := 3 ≤ f && f ≤ 10
/-- Formats with infinities: binary32, binary16, bfloat16, E5M2 (R38). -/
def hasInf (f : Nat) : Bool := f < 4
/-- Formats with NaN codes (R38). -/
def hasNan (f : Nat) : Bool := f < 5
/-- Exponent of the smallest subnormal step of a floating-point format. -/
def minStep (f : Nat) : Int := 1 - fmtBias f - (fmtM f : Int)
/-- Code of the largest finite magnitude (R37). -/
def maxCode (f : Nat) : Nat :=
  match f with
  | 0 => 0x7F7FFFFF | 1 => 0x7BFF | 2 => 0x7F7F | 3 => 0x7B | 4 => 0x7E | 5 => 0x1F | 6 => 0x1F | _ => 7
/-- Code of +∞. -/
def infCode (f : Nat) : Nat := (2 ^ fmtE f - 1) * 2 ^ fmtM f
/-- The canonical NaN (R38). -/
def nanCode (f : Nat) : Nat :=
  match f with
  | 0 => 0x7FC00000 | 1 => 0x7E00 | 2 => 0x7FC0 | 3 => 0x7E | 4 => 0x7F | _ => 0
def signBit (f : Nat) (neg : Bool) : Nat := if neg then 2 ^ (fmtBits f - 1) else 0
/-- Least and greatest value of an integer format (R40). -/
def intRange (f : Nat) : Int × Int :=
  match f with
  | 8 => (-128, 127) | 9 => (0, 255) | 10 => (-8, 7) | _ => (-2 ^ 31, 2 ^ 31 - 1)

/-- A two's-complement number of `w` bits. -/
def signed (w v : Nat) : Int := if v < 2 ^ (w - 1) then (v : Int) else (v : Int) - 2 ^ w
/-- An integer as `w` bits, two's complement. -/
def toBits (w : Nat) (i : Int) : Nat := (i % 2 ^ w).toNat

/-- The exact value of an element code (R37 to R40). -/
def decodeElem (f v : Nat) : Val :=
  if isFloat f then
    let m := fmtM f
    let neg := decide (v / 2 ^ (fmtBits f - 1) % 2 = 1)
    let e := v / 2 ^ m % 2 ^ fmtE f
    let mant := v % 2 ^ m
    if e = 0 then .fin neg mant 1 (minStep f)
    else if hasInf f && e = 2 ^ fmtE f - 1 then (if mant = 0 then .inf neg else .nan)
    else if f = 4 && e = 15 && mant = 7 then .nan
    else .fin neg (2 ^ m + mant) 1 (minStep f + (e : Int) - 1)
  else if f = 9 then .fin false v 1 0
  else Val.ofInt (signed (fmtBits f) v)

/-- The value of an E8M0 or UE5M3 block scale (R41, R42); none: NaN. -/
def decodeScale (mode v : Nat) : Option (Nat × Int) :=
  if mode = 1 then (if v = 0xFF then none else some (1, (v : Int) - 127))
  else
    let e := v / 8
    some (if e = 0 then (v % 8, -17) else (8 + v % 8, (e : Int) - 18))

/-- An element of a block under its scale (R45, R46); mode 0 is unscaled. -/
def decodeScaled (f mode scale v : Nat) : Val :=
  let x := match decodeElem f v with
    | .fin n a d e => if f = 8 && mode = 1 then .fin n a d (e - 6) else .fin n a d e
    | y => y
  if mode = 0 then x
  else match decodeScale mode scale with
    | none => .nan
    | some (k, e) =>
      match x with
      | .fin n a d e' => .fin n (a * k) d (e + e')
      | y => if k = 0 then .nan else y

/-! ## Rounding -/

/-- Exceptions of a conversion (R65): INEXACT 1, OVERFLOW 2, UNDERFLOW 4, INVALID 8. -/
abbrev Exc := BitVec 4

/-- A rounded magnitude: units of 2^step, and whether it is exact. -/
structure Rounded where
  units : Nat
  step : Int
  exact : Bool
deriving DecidableEq, Repr

/-- Rounds a magnitude to whole units of 2^step by the rounding field: 0 to nearest even, 1 toward zero, 2 stochastic
with the draw r (R59, R60). -/
def roundMag (rnd r num den : Nat) (exp step : Int) : Rounded :=
  let n := scaleUp num (exp - step)
  let d := scaleUp den (step - exp)
  let q := n / d
  let rem := n % d
  let up : Bool :=
    if rnd = 0 then decide (d < 2 * rem) || (decide (2 * rem = d) && decide (q % 2 = 1))
    else if rnd = 1 then false
    else decide (r < (32 * rem + d) / (2 * d))
  ⟨if up then q + 1 else q, step, decide (rem = 0)⟩

/-- A magnitude rounded to a floating-point format with unbounded exponent. -/
def roundToFmt (f rnd r num den : Nat) (exp : Int) : Rounded :=
  if num = 0 then ⟨0, minStep f, true⟩
  else roundMag rnd r num den exp (max (log2Frac num den exp - (fmtM f : Int)) (minStep f))

/-- The code of a rounded magnitude that is at most the largest finite one. -/
def Rounded.code (f : Nat) (x : Rounded) : Nat := x.units + (x.step - minStep f).toNat * 2 ^ fmtM f

/-- Converts a finite value to a floating-point format (R59 to R65). -/
def finToFloat (f rnd r : Nat) (sat neg : Bool) (num den : Nat) (exp : Int) : Nat × Exc :=
  let x := roundToFmt f rnd r num den exp
  let c := x.code f
  if maxCode f < c then
    if rnd = 1 || sat || !hasNan f then (signBit f neg + maxCode f, 3)
    else if hasInf f then (signBit f neg + infCode f, 3)
    else (nanCode f, 11)
  else
    let under := !x.exact && decide (c < 2 ^ fmtM f)
    (signBit f neg + c, (if x.exact then 0 else 1) ||| (if under then 4 else 0))

/-- Converts a finite value to an integer format on the grid 2^step (R63, R64): step −6 for INT8 in MX mode. -/
def finToInt (f rnd r : Nat) (step : Int) (neg : Bool) (num den : Nat) (exp : Int) : Nat × Exc :=
  let x := roundMag rnd r num den exp step
  let i : Int := if neg then -(x.units : Int) else x.units
  let (lo, hi) := intRange f
  if i < lo then (toBits (fmtBits f) lo, 3)
  else if hi < i then (toBits (fmtBits f) hi, 3)
  else (toBits (fmtBits f) i, if x.exact then 0 else if x.units = 0 then 5 else 1)

/-- Converts any value to any format of codes 0 to 11 (R59 to R65). -/
def convert (f rnd r : Nat) (sat : Bool) (step : Int) (v : Val) : Nat × Exc :=
  match v with
  | .nan => (nanCode f, if hasNan f then 0 else 8)
  | .inf neg =>
    if isFloat f then
      if hasInf f && !sat then (signBit f neg + infCode f, 0)
      else if f = 4 && !sat then (nanCode f, 8)
      else (signBit f neg + maxCode f, 3)
    else (toBits (fmtBits f) (if neg then (intRange f).1 else (intRange f).2), 3)
  | .fin neg n d e => if isFloat f then finToFloat f rnd r sat neg n d e else finToInt f rnd r step neg n d e

/-! ## Wide partials -/

def wSticky : BitVec 5 := 1
def wOverflow : BitVec 5 := 2
def wInvalid : BitVec 5 := 4
def wPosInf : BitVec 5 := 8
def wNegInf : BitVec 5 := 16

/-- The marker of an overflowed partial (R48). -/
def wideMark : Int := -2 ^ 95
def wideFits (i : Int) : Bool := decide (-2 ^ 95 ≤ i) && decide (i ≤ 2 ^ 95 - 1)
def Wide.zero : Wide := ⟨0, 0⟩

/-- The exact sum of two partials of one anchor (R50). -/
def Wide.add (x y : Wide) : Wide :=
  let f := x.flags ||| y.flags
  if f.getLsbD 1 || !wideFits (x.int + y.int) then ⟨wideMark, f ||| wOverflow⟩ else ⟨x.int + y.int, f⟩

/-- Truncates a magnitude toward zero to whole units 2^(anchor − 94), with STICKY for what is lost (R49). -/
def toUnits (neg : Bool) (num : Nat) (exp anchor : Int) : Wide :=
  let sh := exp - (anchor - 94)
  let m := if 0 ≤ sh then num * 2 ^ sh.toNat else num / 2 ^ (-sh).toNat
  let lost : Bool := decide (sh < 0) && decide (num % 2 ^ (-sh).toNat ≠ 0)
  ⟨if neg then -(m : Int) else m, if lost then wSticky else 0⟩

/-- Moves a partial to another anchor: right with truncation of the magnitude, left with OVERFLOW where a significant
bit is lost (R51). -/
def Wide.realign (x : Wide) (fromA toA : Int) : Wide :=
  if x.flags.getLsbD 1 || fromA = toA then x
  else
    let y := toUnits (decide (x.int < 0)) x.int.natAbs (fromA - 94) toA
    if wideFits y.int then ⟨y.int, x.flags ||| y.flags⟩ else ⟨wideMark, x.flags ||| wOverflow⟩

/-- A product as it enters a partial (R49). -/
def Val.product (x y : Val) (anchor : Int) : Wide :=
  match x, y with
  | .nan, _ => ⟨0, wInvalid⟩
  | _, .nan => ⟨0, wInvalid⟩
  | .inf n, .inf m => ⟨0, if n = m then wPosInf else wNegInf⟩
  | .inf n, .fin m a _ _ => ⟨0, if a = 0 then wInvalid else if n = m then wPosInf else wNegInf⟩
  | .fin m a _ _, .inf n => ⟨0, if a = 0 then wInvalid else if n = m then wPosInf else wNegInf⟩
  | .fin n a _ e, .fin m b _ e' => toUnits (n != m) (a * b) (e + e') anchor

def Wp96.wide (x : Wp96) : Wide := ⟨x.int, x.flags⟩
def Wp96.zero : Wp96 := ⟨0, 0, 0⟩

/-- The sum of two stored partials, aligned to the larger anchor (R51). -/
def Wp96.add (x y : Wp96) : Wp96 :=
  let a := max x.anchor y.anchor
  let w := (x.wide.realign x.anchor a).add (y.wide.realign y.anchor a)
  ⟨w.int, a, w.flags⟩

/-- A partial moved to an anchor (R51). -/
def Wp96.moveTo (x : Wp96) (a : Int) : Wp96 :=
  let w := x.wide.realign x.anchor a
  ⟨w.int, a, w.flags⟩

/-- The 16 stored bytes as a number (R47). -/
def Wp96.encode (x : Wp96) : Nat := toBits 96 x.int + 2 ^ 96 * toBits 16 x.anchor + 2 ^ 112 * x.flags.toNat
/-- A stored partial (R47): reserved bits are ignored. -/
def Wp96.decode (v : Nat) : Wp96 :=
  ⟨signed 96 (v % 2 ^ 96), signed 16 (v / 2 ^ 96 % 2 ^ 16), BitVec.ofNat 5 (v / 2 ^ 112)⟩

/-- The source a partial is to a conversion: the cases in their fixed order (R64 and the list that follows it), with the
exceptions that the source alone raises. -/
def Wp96.source (x : Wp96) : Val × Exc :=
  let sticky : Exc := if x.flags.getLsbD 0 then 1 else 0
  if x.flags.getLsbD 2 || (x.flags.getLsbD 3 && x.flags.getLsbD 4) then (.nan, 8 ||| sticky)
  else if x.flags.getLsbD 3 then (.inf false, sticky)
  else if x.flags.getLsbD 4 then (.inf true, sticky)
  else if x.flags.getLsbD 1 then (.nan, 10 ||| sticky)
  else (.fin (decide (x.int < 0)) x.int.natAbs 1 (x.anchor - 94), sticky)

/-- Converts a partial (R62 to R65). -/
def Wp96.toFmt (x : Wp96) (f rnd r : Nat) (sat : Bool) : Nat × Exc :=
  let (v, e) := x.source
  let (c, e') := convert f rnd r sat 0 v
  (c, e ||| e')

/-! ## Anchors and ceilings -/

/-- q of R52. -/
def fmtQ : Nat → Int
  | 3 => -16 | 4 => -9 | 5 => -4 | 6 => -3 | 7 => -1 | _ => 0
/-- c of R52. -/
def fmtC : Nat → Int
  | 3 => 16 | 4 => 9 | 5 => 5 | 6 => 3 | 7 => 3 | 8 => 8 | 9 => 8 | _ => 4

/-- An operand that qualifies for the default anchor (R52): unscaled, 8-bit-and-narrower. -/
def defaultOk (f scl : Nat) : Bool := scl = 0 && isNarrow f

/-- The ceiling of a non-zero finite element of binary32, binary16 or bfloat16 (R53). -/
def elemCeiling (f v : Nat) : Option Int :=
  let e := v / 2 ^ fmtM f % 2 ^ fmtE f
  if v % 2 ^ (fmtBits f - 1) = 0 || e = 2 ^ fmtE f - 1 then none
  else some ((max e 1 : Nat) - fmtBias f + 1)

/-- The ceiling of a block-scaled element (R53): the scale's ceiling plus c of the element format. -/
def scaledCeiling (f mode scale v : Nat) : Option Int :=
  match decodeScaled f mode scale v with
  | .fin _ n _ _ =>
    if n = 0 then none
    else some ((if mode = 1 then (scale : Int) - 127 else (max (scale / 8) 1 : Nat) - 14) + (if f = 8 && mode = 1 then 2 else fmtC f))
  | _ => none

/-! ## Which engines take which formats (R44, R66, R68) -/

/-- Block-scaling combinations of R44. -/
def scaleOk (mode f : Nat) : Bool :=
  if mode = 0 then true
  else if mode = 1 then f = 3 || f = 4 || f = 5 || f = 6 || f = 7 || f = 8
  else if mode = 2 then f = 4 || f = 5 || f = 6 || f = 7 || f = 8 || f = 10
  else false

/-- Elements in a block. -/
def blockSize (mode : Nat) : Nat := if mode = 1 then 32 else 16

/-- Operand formats of the cube array: both wide or both narrow (R68). -/
def arrayPair (fa fb : Nat) : Bool := (fa < 3 && fb < 3) || (isNarrow fa && isNarrow fb)

/-! ## Quantising to block-scaled form (R67) -/

/-- emax: the exponent of the element format's largest finite value; INT8 in MX mode counts in 2^−6. -/
def fmtEmax : Nat → Int
  | 3 => 15 | 4 => 8 | 5 => 4 | 6 => 2 | 7 => 2 | _ => 0
/-- The element format's largest finite value as units and exponent. -/
def fmtMax : Nat → Nat × Int
  | 4 => (448, 0) | 5 => (28, 0) | 6 => (15, -1) | 7 => (6, 0) | 8 => (127, 0) | 10 => (7, 0) | _ => (57344, 0)

/-- Compares two finite magnitudes of denominator 1: whether the first is smaller. -/
def magLt (n : Nat) (e : Int) (n' : Nat) (e' : Int) : Bool := decide (scaleUp n (e - e') < scaleUp n' (e' - e))

/-- amax: the largest finite magnitude of a block, 0 when it has none. -/
def blockAmax : List Val → Nat × Int → Nat × Int
  | [], a => a
  | .fin _ n _ e :: vs, (n', e') => blockAmax vs (if magLt n' e' n e then (n, e) else (n', e'))
  | _ :: vs, a => blockAmax vs a

/-- The next UE5M3 code at or above a quotient, or 0xFF where it exceeds 122,880 (R67). -/
def fineScale (num den : Nat) (exp : Int) : Nat :=
  if num = 0 then 0
  else
    let step := max (log2Frac num den exp - 3) (-17)
    let n := scaleUp num (exp - step)
    let d := scaleUp den (step - exp)
    min 0xFF ((n + d - 1) / d + (step + 17).toNat * 8)

/-- The scale code of a block (R67). -/
def blockScale (mode f : Nat) (vs : List Val) : Nat :=
  let (n, e) := blockAmax vs (0, 0)
  if n = 0 then 0
  else if mode = 1 then (min 127 (max (-127) (log2Frac n 1 e - fmtEmax f)) + 127).toNat
  else fineScale n (fmtMax f).1 (e - (fmtMax f).2)

/-- One element of a block under its scale (R67): a finite source is divided by the scale and saturates; the others
convert directly under the operation's SAT. -/
def quantElem (mode f scale rnd r : Nat) (sat : Bool) (v : Val) : Nat × Exc :=
  let step : Int := if f = 8 && mode = 1 then -6 else 0
  match v with
  | .fin neg n d e =>
    match decodeScale mode scale with
    | none => convert f rnd r true step v
    | some (k, ke) =>
      if k = 0 then (if isFloat f then signBit f (neg && decide (n ≠ 0)) else 0, 0)
      else convert f rnd r true step (.fin neg n (d * k) (e - ke))
  | _ => convert f rnd r sat step v

end Sys2Proof.Machine
end

