-- ==== Sys2Proof/Machine/Random.lean ====
section
/-! DEFINITION. The random-bit unit (R158 to R179): the draw function G, the counters of element-keyed and lane mode, and
the taking of rounding nibbles and words. -/

namespace Sys2Proof.Machine

/-- The round constants (R160). -/
def rngRC : List Nat :=
  [0x7A1C4E93, 0x2D5B8F16, 0xC4E931A7, 0x5F02D6B8, 0x9B376C45, 0x1E8AF0D9, 0xE6C12B5A, 0x48F597CE]

def rotl32 (x n : Nat) : Nat := ((x <<< n) % 2 ^ 32) ||| (x >>> (32 - n))

/-- One round of the draw (R159), with the key word it injects. -/
def rngRound (k rc : Nat) : Nat × Nat × Nat × Nat → Nat × Nat × Nat × Nat
  | (x0, x1, x2, x3) =>
    let x0 := (x0 + (k ^^^ rc)) % 2 ^ 32
    let x1 := rotl32 x1 13 ^^^ x0
    let x2 := (x2 + x1) % 2 ^ 32
    let x3 := rotl32 x3 7 ^^^ x2
    let x0 := (x0 + x3) % 2 ^ 32
    (x1, x2, x3, x0)

/-- The rounds, alternating the key words. -/
def rngRounds : List Nat → Nat → Nat → Nat × Nat × Nat × Nat → Nat × Nat × Nat × Nat
  | [], _, _, x => x
  | rc :: rcs, k, k', x => rngRounds rcs k' k (rngRound k rc x)

/-- G(K, C) (R159): a 64-bit key and a 128-bit counter give 128 bits. -/
def rngDraw (key ctr : Nat) : Nat :=
  let k0 := key % 2 ^ 32
  let k1 := key / 2 ^ 32 % 2 ^ 32
  let c := fun j => ctr / 2 ^ (32 * j) % 2 ^ 32
  let (x0, x1, x2, x3) := rngRounds rngRC k0 k1 (c 0, c 1, c 2 ^^^ k0, c 3 ^^^ k1)
  (x0 + c 0) % 2 ^ 32 + 2 ^ 32 * ((x1 + c 1) % 2 ^ 32) + 2 ^ 64 * ((x2 + c 2) % 2 ^ 32) + 2 ^ 96 * ((x3 + c 3) % 2 ^ 32)

/-- Nibble n of a draw (R161). -/
def nibble (d n : Nat) : Nat := d / 2 ^ (4 * n) % 16

/-- The counter TID ‖ IDX ‖ D (R165). -/
def keyedCtr (tid idx d : Nat) : Nat := tid % 2 ^ 32 * 2 ^ 96 + idx % 2 ^ 64 * 2 ^ 32 + d % 2 ^ 32

/-- The rounding nibble of element e of a tensor (R166). -/
def keyedRound (key tid e : Nat) : Nat := nibble (rngDraw key (keyedCtr tid (e / 32) 0xFFFFFFFF)) (e % 32)
/-- The RNGV word of element j of a tensor under draw number D (R167). -/
def keyedWord (key tid j d : Nat) : Nat := rngDraw key (keyedCtr tid (j / 4) d) / 2 ^ (32 * (j % 4)) % 2 ^ 32

/-- The range g of a lane (R168, R171). -/
def Rng.range (g : Rng) (t lane : Nat) : Nat := smGet (128 * t + lane) g.ranges lane
/-- The counter v of a lane. -/
def Rng.ctr (g : Rng) (t lane : Nat) : Nat := (smGet (BitVec.ofNat 128 (g.range t lane * 2 ^ 64)) g.lanes lane).toNat
def Rng.setCtr (g : Rng) (lane v : Nat) : Rng := { g with lanes := smPut g.lanes lane (BitVec.ofNat 128 v) }

/-- Takes the rounding nibble of one converted value (R166, R168): none at the end of the lane's range (R171). -/
def Rng.takeRound (g : Rng) (t lane tid e : Nat) : Option (Nat × Rng) :=
  if g.lane then
    let v := g.ctr t lane
    if (g.range t lane + 1) * 2 ^ 64 ≤ v then none
    else some (nibble (rngDraw g.key.toNat (v / 32 * 32)) (v % 32), g.setCtr lane (v + 1))
  else some (keyedRound g.key.toNat tid e, g)

/-- Takes one RNGV word (R167, R168): none at the end of the lane's range (R171). -/
def Rng.takeWord (g : Rng) (t lane tid j d : Nat) : Option (Nat × Rng) :=
  if g.lane then
    let v := (g.ctr t lane + 7) / 8 * 8
    if (g.range t lane + 1) * 2 ^ 64 ≤ v then none
    else some (rngDraw g.key.toNat (v / 32 * 32) / 2 ^ (4 * (v % 32)) % 2 ^ 32, g.setCtr lane (v + 8))
  else some (keyedWord g.key.toNat tid j d, g)

/-- Draws that serve `n` consecutive elements from `first` on, when each serves `per` of them. -/
def spanDraws (per first n : Nat) : Nat := if n = 0 then 0 else (first + n - 1) / per - first / per + 1

/-- Draws served (R161, R179) as a generator took values for `n` elements from `first` on: in element-keyed mode those that
hold the elements' nibbles or words; in lane mode those that a lane's counter entered. -/
def Rng.drawsTo (g g' : Rng) (t per first n : Nat) : Nat :=
  if g.lane then (g'.lanes.map fun e => (e.2.toNat + 31) / 32 - (g.ctr t e.1 + 31) / 32).foldl (· + ·) 0
  else spanDraws per first n

/-- The known-answer test of R162 returns the test vector. -/
def rngKnownAnswer : Bool := decide (rngDraw 0 0 = 0xCB83B608B645B2C8B54084344B8C4642)

end Sys2Proof.Machine
end

