-- ==== Sys2Proof/Machine/Operands.lean ====
section
/-! DEFINITION. Operand forms of the thread-group processors (R124 to R131, R139): fields of an instruction word, the
shape an operation gives its fields, the set of threads that issues, the registers of a thread, and the job-fatal fault
of an instruction (R156). -/

namespace Sys2Proof.Machine

/-! ## Fields of an instruction word (R130) -/

/-- Bits hi:lo of a word. -/
def bitsOf (w hi lo : Nat) : Nat := w / 2 ^ lo % 2 ^ (hi - lo + 1)
def insRD (w : Nat) : Nat := bitsOf w 51 45
def insRA (w : Nat) : Nat := bitsOf w 44 38
def insI (w : Nat) : Bool := bitsOf w 37 37 == 1
def insRB (w : Nat) : Nat := bitsOf w 36 30
def insRC (w : Nat) : Nat := bitsOf w 29 23
def insRND (w : Nat) : Nat := bitsOf w 22 21
/-- MOD: [20:16] in Form R, [36:32] in Form I. -/
def insMOD (w : Nat) : Nat := if insI w then bitsOf w 36 32 else bitsOf w 20 16
def insOFF (w : Nat) : Nat := bitsOf w 15 0
def insIMM (w : Nat) : Nat := bitsOf w 31 0

/-- What an operation gives its fields: registers named at each field (0: the field is unused), the forms it exists in,
the MOD codes it accepts, the RND codes it accepts, and whether OFF and IMM mean something. -/
structure Shape where
  rd : Nat
  ra : Nat
  rb : Nat
  rc : Nat
  formR : Bool
  formI : Bool
  modOk : Bool
  rndMax : Nat
  off : Bool
  imm : Bool
deriving DecidableEq, Repr

/-- A field that must be 0 when unused. -/
def unusedOk (n v : Nat) : Bool := n != 0 || v == 0

/-- The registers an instruction names. -/
def Shape.regs (h : Shape) (w : Nat) : List Nat :=
  (upTo h.rd).map (insRD w + ·) ++ (upTo h.ra).map (insRA w + ·) ++
  (if insI w then [] else (upTo h.rb).map (insRB w + ·) ++ (upTo h.rc).map (insRC w + ·))

/-- A well-formed instruction of a kernel with `n` registers (R128 to R130): its form exists, unused fields are 0, its
codes are not reserved, and every register it names exists. -/
def Shape.ok (h : Shape) (w n : Nat) : Bool :=
  (if insI w then h.formI && (h.imm || insIMM w == 0)
    else h.formR && unusedOk h.rb (insRB w) && unusedOk h.rc (insRC w) && decide (insRND w ≤ h.rndMax) &&
      (h.off || insOFF w == 0)) &&
  unusedOk h.rd (insRD w) && unusedOk h.ra (insRA w) && h.modOk && (h.regs w).all (fun r => decide (r < n))

/-! ## Threads and groups -/

/-- The group in a slot of a TGP of a tile. -/
def State.groupAt (s : State) (t p g : Nat) : Option Group := smFind (s.tile t).groups (16 * p + g)

def State.setGroup (s : State) (t key : Nat) (v : Group) : State :=
  s.updTile t fun x => { x with groups := smPut x.groups key v }
def State.updGroup (s : State) (t key : Nat) (f : Group → Group) : State :=
  match smFind (s.tile t).groups key with
  | some v => s.setGroup t key (f v)
  | none => s

def Group.reg (g : Group) (lane r : Nat) : Word := smGet 0 g.regs (32 * r + lane)
def Group.setReg (g : Group) (lane r : Nat) (v : Word) : Group := { g with regs := smSet 0 g.regs (32 * r + lane) v }
def Group.pcOf (g : Group) (lane : Nat) : Nat := (smGet 0 g.pc lane).toNat
def Group.setPc (g : Group) (lane : Nat) (v : Nat) : Group := { g with pc := smSet 0 g.pc lane (BitVec.ofNat 32 v) }

/-- Registers r to r+3 of a thread as one value, low register first. -/
def Group.quad (g : Group) (lane r : Nat) : Nat :=
  (g.reg lane r).toNat + 2 ^ 32 * (g.reg lane (r + 1)).toNat + 2 ^ 64 * (g.reg lane (r + 2)).toNat +
    2 ^ 96 * (g.reg lane (r + 3)).toNat
def Group.setQuad (g : Group) (lane r v : Nat) : Group :=
  (((g.setReg lane r (BitVec.ofNat 32 v)).setReg lane (r + 1) (BitVec.ofNat 32 (v / 2 ^ 32))).setReg lane (r + 2)
    (BitVec.ofNat 32 (v / 2 ^ 64))).setReg lane (r + 3) (BitVec.ofNat 32 (v / 2 ^ 96))

/-- Writes one register of several threads. -/
def Group.setLanes (g : Group) (r : Nat) (f : Nat → Word) (lanes : List Nat) : Group :=
  lanes.foldl (fun g l => g.setReg l r (f l)) g

/-- Moves threads past an instruction. -/
def Group.advance (g : Group) (pc : Nat) (lanes : List Nat) : Group := lanes.foldl (fun g l => g.setPc l (pc + 8)) g

def Group.isBusy (g : Group) (lane r : Nat) : Bool := g.busy.contains (32 * r + lane)
def Group.isLive (g : Group) (lane : Nat) : Bool := g.live.getLsbD lane
def Group.waits (g : Group) (lane : Nat) : Bool := g.atBarrier.getLsbD lane

/-- Marks registers of threads as awaiting a result (R127). -/
def Group.claim (g : Group) (lanes regs : List Nat) : Group :=
  { g with busy := g.busy ++ (lanes.map (fun l => regs.map (fun r => 32 * r + l))).flatten }
def Group.release (g : Group) (lane : Nat) (regs : List Nat) : Group :=
  { g with busy := g.busy.filter (fun b => !(regs.map (fun r => 32 * r + lane)).contains b) }

def laneMask (lanes : List Nat) : Word := BitVec.ofNat 32 (lanes.foldl (fun m l => m + 2 ^ l) 0)
def maskLanes (m : Word) : List Nat := (upTo 32).filter (fun l => m.getLsbD l)

/-- A job whose threads issue: present, neither suspended nor being suspended. -/
def Job.runs (j : Job) : Bool := j.ended.isNone && !j.suspended && !j.suspending

/-- An instruction as it issues: where, for which threads, at which PC, and for which job. -/
structure Issue where
  t : Nat
  p : Nat
  slot : Nat
  lanes : List Nat
  pc : Nat
  word : Nat
  grp : Group
  jobId : Nat
  job : Job
deriving DecidableEq, Repr

def Issue.key (i : Issue) : Nat := 16 * i.p + i.slot
/-- The lowest-numbered thread of the set, which gives scalar operands (R103, R125). -/
def Issue.low (i : Issue) : Nat := i.lanes.headD 0
/-- A register of the lowest thread. -/
def Issue.scalar (i : Issue) (r : Nat) : Word := i.grp.reg i.low r
def Issue.site (i : Issue) : FaultSite := ⟨BitVec.ofNat 32 i.t, i.grp.id, laneMask i.lanes, BitVec.ofNat 32 i.pc⟩

/-- The set of a thread: the runnable threads of its group that share its PC (R124, R127). -/
def Group.setOf (g : Group) (lane : Nat) (regs : List Nat) : List Nat :=
  (upTo 32).filter fun l =>
    g.isLive l && !g.waits l && (g.pcOf l == g.pcOf lane) && regs.all (fun r => !g.isBusy l r)

/-- The issue of an instruction at a site; none where the named thread has no runnable set. A set whose group the
debugger has halted does not issue (R148). -/
def State.issueAt (s : State) (t p slot lane word : Nat) (regs : List Nat) : Option Issue :=
  match s.groupAt t p slot with
  | none => none
  | some g =>
    match s.job g.job.toNat with
    | none => none
    | some j =>
      let lanes := g.setOf lane regs
      if j.runs && !g.halted && decide ((s.tile t).power = .on) && lanes.contains lane then
        some ⟨t, p, slot, lanes, g.pcOf lane, word, g, g.job.toNat, j⟩
      else none

/-! ## Occupancy (R145 to R147) -/

/-- Bytes of L1 and of the local-store share under a split code (R145). -/
def splitL1 (c : Nat) : Nat := match c with | 0 => 262144 | 1 => 524288 | 2 => 1048576 | 3 => 1572864 | _ => 2097152
def splitShare (c : Nat) : Nat := 2621440 - splitL1 c
def Image.share (im : Image) : Nat := splitShare im.l1Split
def Image.quarter (im : Image) : Nat := im.share / 4
/-- Resident groups per TGP, G (R146). -/
def Image.groupsPerTgp (im : Image) : Nat :=
  let r := min 16 (if im.nR = 0 then 16 else 65536 / (32 * im.nR))
  if im.lG = 0 then r else min r (im.quarter / im.lG)
/-- LS_BASE of a slot (R147). -/
def Image.lsBase (im : Image) (p slot : Nat) : Nat := p * im.quarter + slot * im.lG
/-- GROUPS of a launch (R350). -/
def Image.groups (im : Image) : Nat := (im.kernels.map Kernel.count).foldl (· + ·) 0

/-- Decides a job-fatal fault of an instruction (R156, R516, R517): the first 8 bytes of INFO are the instruction, the
next 4 a local-store or block address. -/
def State.tileFault (s : State) (t jobId : Nat) (site : FaultSite) (code word addr : Nat) : State :=
  (s.jobFault jobId code site (natToBytes 8 word ++ natToBytes 4 addr) 0xFFFFFFFF).cntTile t 0x150 1

def State.insFault (s : State) (i : Issue) (code addr : Nat) : State := s.tileFault i.t i.jobId i.site code i.word addr

/-- A PC inside the code section of the job's image (R129). -/
def Job.pcOk (j : Job) (pc : Nat) : Bool := decide (pc % 8 = 0) && decide (pc + 8 ≤ j.image.code.length)

/-- The whole 64-bit word of an instruction. -/
def insWord (cls op : Nat) (low : BitVec 52) : Nat := cls * 2 ^ 58 + op * 2 ^ 52 + low.toNat

/-- The registers an instruction reads, and those it writes. -/
def Shape.sources (h : Shape) (w : Nat) : List Nat :=
  (upTo h.ra).map (insRA w + ·) ++ (if insI w then [] else (upTo h.rb).map (insRB w + ·) ++ (upTo h.rc).map (insRC w + ·))
def Shape.dests (h : Shape) (w : Nat) : List Nat := (upTo h.rd).map (insRD w + ·)

/-- The words of some registers of the issuing threads. -/
def Issue.inRegs (i : Issue) (rs : List Nat) (n : Nat) : Bool :=
  rs.any fun r => i.lanes.any fun l => n == regWord i.p i.slot i.job.image.nR r l

/-- An issue on a tile that holds flipped bits (R261, R265): the registers read are checked, and those written have fresh
codes; a register that cannot be used ends the job. -/
def State.issueChecked (s : State) (i : Issue) (h : Shape) (body : Issue → State → State) : State :=
  let r := s.readWords i.t i.job.image.nR i.job.image.share (i.inRegs (h.sources i.word))
  if r.1 then
    body { i with grp := (r.2.groupAt i.t i.p i.slot).getD i.grp } (r.2.updTile i.t fun x => x.written (i.inRegs (h.dests i.word)))
  else r.2

/-- Issues an instruction of the given shape at a site: nothing where no set is runnable; the fault 0x25 for a fetch
outside the code section or an ill-formed instruction (R129); else its effect. -/
def State.issueIns (s : State) (site : Site) (w : Nat) (h : Shape) (body : Issue → State → State) : State :=
  match s.issueAt site.tile.val site.tgp.val site.slot.val site.lane.val w (h.regs w) with
  | none => s
  | some i =>
    let s1 := s.cntTile i.t 0x100 1
    if !i.job.pcOk i.pc || !h.ok w i.job.image.nR then s1.insFault i 0x25 0
    else if (s1.tile i.t).flips.isEmpty then body i s1 else s1.issueChecked i h body

/-- Replaces the issuing group. -/
def State.putGroup (s : State) (i : Issue) (g : Group) : State := s.setGroup i.t i.key g

/-- The group as the state holds it now, moved past the instruction. -/
def State.pass (s : State) (i : Issue) : State := s.updGroup i.t i.key fun g => g.advance i.pc i.lanes

end Sys2Proof.Machine
end

