-- ==== Sys2Proof/Machine/Flags.lean ====
section
/-! DEFINITION. The flag computations: comparisons, the exceptions of R65 as they reach CSTAT and AFLAGS, and the exact
binary floating-point operations of R110 and R134. -/

namespace Sys2Proof.Machine

/-- ORs exceptions into the group's conversion status (R65). -/
def Group.orCstat (g : Group) (e : Exc) : Group := { g with cstat := g.cstat ||| e }
/-- ORs WP96 flags into the group's array flag summary (R83). -/
def Group.orAflags (g : Group) (f : BitVec 5) : Group := { g with aflags := g.aflags ||| f }

/-- Two's-complement value of a word. -/
def Word.int (w : Word) : Int := signed 32 w.toNat
def Word.ofInt (i : Int) : Word := BitVec.ofNat 32 (toBits 32 i)
def Word.ofBool (b : Bool) : Word := if b then 1 else 0

/-- The comparisons of SET by MOD (R133). -/
def setCompare (md : Nat) (a b : Word) : Bool :=
  match md with
  | 0 => a == b
  | 1 => a != b
  | 2 => decide (Word.int a < Word.int b)
  | 3 => decide (Word.int a ≤ Word.int b)
  | 4 => decide (a.toNat < b.toNat)
  | _ => decide (a.toNat ≤ b.toNat)

/-! ## Exact operations on values -/

def Val.neg : Val → Val
  | .nan => .nan
  | .inf n => .inf (!n)
  | .fin n a d e => .fin (!n) a d e

/-- The sign and whether the value is zero. -/
def Val.isNan : Val → Bool
  | .nan => true
  | _ => false
def Val.isZero : Val → Bool
  | .fin _ 0 _ _ => true
  | _ => false
def Val.isNeg : Val → Bool
  | .nan => false
  | .inf n => n
  | .fin n _ _ _ => n

/-- The signed numerator of a finite value over 2^e. -/
def finNum (n : Bool) (a : Nat) (ae e : Int) : Int :=
  let m := scaleUp a (ae - e)
  if n then -(m : Int) else m

/-- The exact sum of two values whose denominators are 1; a zero sum of values of unlike sign is +0 under the rounding
modes of the device, and a NaN met here marks an invalid operation. -/
def Val.addExact (x y : Val) : Val :=
  match x, y with
  | .nan, _ => .nan
  | _, .nan => .nan
  | .inf n, .inf m => if n = m then .inf n else .nan
  | .inf n, _ => .inf n
  | _, .inf m => .inf m
  | .fin n a _ e, .fin m b _ e' =>
    let q := min e e'
    let v := finNum n a e q + finNum m b e' q
    if v = 0 then .fin (n && m) 0 1 q else .fin (decide (v < 0)) v.natAbs 1 q

/-- The exact product of two values whose denominators are 1. -/
def Val.mulExact (x y : Val) : Val :=
  match x, y with
  | .nan, _ => .nan
  | _, .nan => .nan
  | .inf n, .inf m => .inf (n != m)
  | .inf n, .fin m a _ _ => if a = 0 then .nan else .inf (n != m)
  | .fin n a _ _, .inf m => if a = 0 then .nan else .inf (n != m)
  | .fin n a _ e, .fin m b _ e' => .fin (n != m) (a * b) 1 (e + e')

/-- Rounds the exact result of an operation once to a floating-point format (R110, R134): an infinity an operation
produces is exact, overflow gives an infinity under round to nearest and the largest finite value toward zero, and a NaN
made from operands that are not NaN is INVALID. -/
def roundResult (f rnd : Nat) (anyNan : Bool) (v : Val) : Nat × Exc :=
  match v with
  | .nan => (nanCode f, if anyNan then 0 else 8)
  | v => convert f rnd 0 false 0 v

/-- x + y in a format (R134, R110). -/
def fpAdd (f rnd a b : Nat) : Nat × Exc :=
  let x := decodeElem f a
  let y := decodeElem f b
  roundResult f rnd (x.isNan || y.isNan) (x.addExact y)
def fpSub (f rnd a b : Nat) : Nat × Exc :=
  let x := decodeElem f a
  let y := decodeElem f b
  roundResult f rnd (x.isNan || y.isNan) (x.addExact y.neg)
def fpMul (f rnd a b : Nat) : Nat × Exc :=
  let x := decodeElem f a
  let y := decodeElem f b
  roundResult f rnd (x.isNan || y.isNan) (x.mulExact y)
/-- x × y + z with one rounding. -/
def fpFma (f rnd a b c : Nat) : Nat × Exc :=
  let x := decodeElem f a
  let y := decodeElem f b
  let z := decodeElem f c
  roundResult f rnd (x.isNan || y.isNan || z.isNan) ((x.mulExact y).addExact z)

/-- Whether one value that is no NaN lies below another; −0 is not below +0 here. -/
def Val.lt (x y : Val) : Bool :=
  match x, y with
  | .nan, _ => false
  | _, .nan => false
  | .inf n, .inf m => n && !m
  | .inf n, _ => n
  | _, .inf m => !m
  | .fin n a _ e, .fin m b _ e' => decide (finNum n a e (min e e') < finNum m b e' (min e e'))
def Val.eq (x y : Val) : Bool := !x.isNan && !y.isNan && !x.lt y && !y.lt x

/-- Minimum or maximum of two codes: the canonical NaN when an input is NaN, and −0 below +0 (R110, R134). -/
def fpMinMax (f : Nat) (wantMax : Bool) (a b : Nat) : Nat :=
  let x := decodeElem f a
  let y := decodeElem f b
  if x.isNan || y.isNan then nanCode f
  else
    let below := x.lt y || (x.eq y && x.isNeg && !y.isNeg)
    if below == wantMax then b else a

/-- |x| and −x change only the sign bit. -/
def fpAbs (f a : Nat) : Nat := a % 2 ^ (fmtBits f - 1)
def fpNeg (f a : Nat) : Nat := a ^^^ 2 ^ (fmtBits f - 1)

/-- Comparisons of FSET by MOD (R134). -/
def fsetCompare (md a b : Nat) : Bool :=
  let x := decodeElem 0 a
  let y := decodeElem 0 b
  match md with
  | 0 => x.eq y
  | 1 => x.lt y
  | 2 => x.lt y || x.eq y
  | _ => x.isNan || y.isNan

end Sys2Proof.Machine
end

