-- ==== Sys2Proof/Machine/VecQueue.lean ====
section
/-! DEFINITION. The fields of a vector instruction (R107) and of RNGV (R172), what an instruction in the vector queue will
write, and the waits that the rest of the tile makes on it (R105, R106). -/

namespace Sys2Proof.Machine

/-! ## Fields (R107) -/

def vfFmt (w : Nat) : Nat := bitsOf w 49 46
def vfVD (w : Nat) : Nat := bitsOf w 45 41
def vfVA (w : Nat) : Nat := bitsOf w 40 36
def vfVB (w : Nat) : Nat := bitsOf w 35 31
def vfVC (w : Nat) : Nat := bitsOf w 30 26
def vfRnd (w : Nat) : Nat := bitsOf w 25 24
def vfSat (w : Nat) : Bool := bitsOf w 23 23 == 1
def vfCarry (w : Nat) : Bool := bitsOf w 22 22 == 1
def vfBs (w : Nat) : Bool := bitsOf w 21 21 == 1
def vfXs (w : Nat) : Nat := bitsOf w 20 14
def vfScl (w : Nat) : Nat := bitsOf w 13 12
def vfFmt2 (w : Nat) : Nat := bitsOf w 11 8
def vfFlg (w : Nat) : Bool := bitsOf w 7 7 == 1
def vfVop (w : Nat) : Nat := bitsOf w 57 50

/-- RNGV's fields (R172). -/
def rngVD (w : Nat) : Nat := bitsOf w 51 47
def rngXS (w : Nat) : Nat := bitsOf w 46 40

/-- Bytes of `n` elements, without those beyond element n − 1 (R101). -/
def vecBytes (f n : Nat) : Nat := (n * fmtBits f + 7) / 8

/-- The bytes of the share an operation may write, for the waits of R105: base and length. -/
def VecOp.dest (op : VecOp) (base size : Nat) : Nat × Nat :=
  let w := op.word.toNat
  let vop := vfVop w
  if w / 2 ^ 58 = 0x0B then (base + 4096 * rngVD w, 4096)
  else if vop = 0x22 then ((op.xs.headD 0).toNat, vecBytes (vfFmt w) 1024)
  else if vop = 0x24 || vop = 0x26 then (0, size)
  else if vop = 0x21 && vfFmt w = 14 then (base + 4096 * vfVD w, 16384)
  else if 0x38 ≤ vop then (base + 4096 * vfVD w, if vop = 0x3A then 0 else 16384)
  else if vop = 0x20 && vfScl w ≠ 0 then (base, 32 * 4096)
  else if vop = 0 || vop = 0x32 || vop = 0x34 then (0, 0)
  else (base + 4096 * vfVD w, 4096)

/-- An operation that writes SSUM, one that writes VACC and one that writes CSTAT (R106, R109, R110, R112, R115, R121). -/
def writesSsum (w : Nat) : Bool := vfVop w = 0x34 || vfVop w = 0x33
def writesVacc (w : Nat) : Bool :=
  let v := vfVop w
  v = 0x30 || v = 0x31 || v = 0x32 || v = 0x38 || v = 0x39 || v = 0x3A
def writesCstat (w : Nat) : Bool :=
  let v := vfVop w
  v = 0x20 || (isFloat (vfFmt w) &&
    ((decide (1 ≤ v) && decide (v ≤ 8)) || (decide (0x13 ≤ v) && decide (v ≤ 0x15)) || (decide (0x30 ≤ v) && decide (v ≤ 0x32))))

/-- An earlier vector instruction of the group that writes SSUM, VACC or CSTAT is not yet visible (R106, R136). -/
def Tile.vecPending (x : Tile) (key : Nat) (ss va cs : Bool) : Bool :=
  x.vecQueue.any (fun v =>
    let w := v.word.toNat
    v.slot == key && decide (w / 2 ^ 58 = 0x10) && ((ss && writesSsum w) || (va && writesVacc w) || (cs && writesCstat w))) ||
  x.vecDone.any (fun v => v.slot == key && ((ss && v.ssum.isSome) || (va && v.vacc.isSome) || (cs && v.exc.isSome)))

/-- A range overlaps the destination of an uncompleted vector instruction of the group (R105). -/
def Tile.vecOverlap (x : Tile) (im : Image) (key a n : Nat) : Bool :=
  let base := im.lsBase (key / 16) (key % 16)
  let meets := fun (d : Nat × Nat) => decide (a < d.1 + d.2) && decide (d.1 < a + n)
  x.vecQueue.any (fun v => v.slot == key && meets (v.dest base im.share)) ||
    x.vecDone.any (fun v => v.slot == key && meets (v.base, v.len))

end Sys2Proof.Machine
end

