-- ==== Sys2Proof/Machine/Scalar.lean ====
section
/-! DEFINITION. The scalar families of the thread-group processors: IALU (R133), FALU (R134), CVT (R135) and MOVE
(R136). -/

namespace Sys2Proof.Machine

/-- The second source: RB, or IMM in Form I (R130). -/
def Issue.src2 (i : Issue) (lane : Nat) : Word :=
  if insI i.word then BitVec.ofNat 32 (insIMM i.word) else i.grp.reg lane (insRB i.word)

/-- Writes RD of every thread of the set and moves it past the instruction. -/
def State.aluWrite (s : State) (i : Issue) (f : Nat → Word) : State :=
  s.putGroup i ((i.grp.setLanes (insRD i.word) f i.lanes).advance i.pc i.lanes)

/-! ## IALU (R133) -/

/-- Two sources, Form R or I; `md`: the operation takes a MOD code below it. -/
def ialuShape (w md : Nat) : Shape := ⟨1, 1, 1, 0, true, true, decide (insMOD w < md), 0, false, true⟩

/-- An integer operation of RA and the second source. -/
def State.ialu (s : State) (site : Site) (op : Nat) (low : BitVec 52) (f : Word → Word → Word) : State :=
  let w := insWord 0 op low
  s.issueIns site w (ialuShape w 1) fun i s =>
    s.aluWrite i fun l => f (i.grp.reg l (insRA w)) (i.src2 l)

/-- ADD (R133): wraps modulo 2^32. -/
def execAdd (site : Site) (low : BitVec 52) (s : State) : Out := .next (s.ialu site 0 low fun a b => a + b)
/-- SUB (R133): wraps modulo 2^32. -/
def execSub (site : Site) (low : BitVec 52) (s : State) : Out := .next (s.ialu site 1 low fun a b => a - b)
/-- MUL (R133): low 32 bits. -/
def execMul (site : Site) (low : BitVec 52) (s : State) : Out := .next (s.ialu site 2 low fun a b => a * b)
/-- MULHI (R133): high word of the signed product. -/
def execMulhi (site : Site) (low : BitVec 52) (s : State) : Out := .next (s.ialu site 3 low fun a b => BitVec.ofNat 32 (toBits 64 (Word.int a * Word.int b) / 2 ^ 32))
/-- MULHU (R133): high word of the unsigned product. -/
def execMulhu (site : Site) (low : BitVec 52) (s : State) : Out := .next (s.ialu site 4 low fun a b => BitVec.ofNat 32 (a.toNat * b.toNat / 2 ^ 32))
/-- AND (R133): bitwise. -/
def execAndI (site : Site) (low : BitVec 52) (s : State) : Out := .next (s.ialu site 5 low fun a b => a &&& b)
/-- OR (R133): bitwise. -/
def execOrI (site : Site) (low : BitVec 52) (s : State) : Out := .next (s.ialu site 6 low fun a b => a ||| b)
/-- XOR (R133): bitwise. -/
def execXorI (site : Site) (low : BitVec 52) (s : State) : Out := .next (s.ialu site 7 low fun a b => a ^^^ b)
/-- SHL (R133): left shift, the amount modulo 32. -/
def execShl (site : Site) (low : BitVec 52) (s : State) : Out := .next (s.ialu site 8 low fun a b => a <<< (b.toNat % 32))
/-- SHR (R133): logical right shift. -/
def execShr (site : Site) (low : BitVec 52) (s : State) : Out := .next (s.ialu site 9 low fun a b => a >>> (b.toNat % 32))
/-- SHRA (R133): arithmetic right shift. -/
def execShra (site : Site) (low : BitVec 52) (s : State) : Out := .next (s.ialu site 10 low fun a b => a.sshiftRight (b.toNat % 32))
/-- MIN (R133): signed minimum. -/
def execMinI (site : Site) (low : BitVec 52) (s : State) : Out := .next (s.ialu site 11 low fun a b => if Word.int b < Word.int a then b else a)
/-- MAX (R133): signed maximum. -/
def execMaxI (site : Site) (low : BitVec 52) (s : State) : Out := .next (s.ialu site 12 low fun a b => if Word.int a < Word.int b then b else a)
/-- MINU (R133): unsigned minimum. -/
def execMinu (site : Site) (low : BitVec 52) (s : State) : Out := .next (s.ialu site 13 low fun a b => if b.toNat < a.toNat then b else a)
/-- MAXU (R133): unsigned maximum. -/
def execMaxu (site : Site) (low : BitVec 52) (s : State) : Out := .next (s.ialu site 14 low fun a b => if a.toNat < b.toNat then b else a)

/-- SET (R133): 1 where RA MOD the second source, else 0; MOD 6 to 31 are reserved. -/
def execSetI (site : Site) (low : BitVec 52) (s : State) : Out :=
  let w := insWord 0 0x0F low
  .next (s.issueIns site w (ialuShape w 6) fun i s =>
    s.aluWrite i fun l => Word.ofBool (setCompare (insMOD w) (i.grp.reg l (insRA w)) (i.src2 l)))

/-- SEL (R133): RA if RC is not 0, else RB; Form R only. -/
def execSel (site : Site) (low : BitVec 52) (s : State) : Out :=
  let w := insWord 0 0x10 low
  .next (s.issueIns site w ⟨1, 1, 1, 1, true, false, insMOD w == 0, 0, false, false⟩ fun i s =>
    s.aluWrite i fun l => if i.grp.reg l (insRC w) ≠ 0 then i.grp.reg l (insRA w) else i.grp.reg l (insRB w))

/-- One source, RA. -/
def unaryShape (w : Nat) : Shape := ⟨1, 1, 0, 0, true, true, insMOD w == 0, 0, false, false⟩

def popCount (w : Word) : Nat := ((upTo 32).filter (fun k => w.getLsbD k)).length
def leadingZeros (w : Word) : Nat := if w = 0 then 32 else 31 - Nat.log2 w.toNat

/-- POPC (R133): the population count of RA. -/
def execPopc (site : Site) (low : BitVec 52) (s : State) : Out :=
  let w := insWord 0 0x11 low
  .next (s.issueIns site w (unaryShape w) fun i s =>
    s.aluWrite i fun l => BitVec.ofNat 32 (popCount (i.grp.reg l (insRA w))))

/-- CLZ (R133): the leading zeros of RA. -/
def execClz (site : Site) (low : BitVec 52) (s : State) : Out :=
  let w := insWord 0 0x12 low
  .next (s.issueIns site w (unaryShape w) fun i s =>
    s.aluWrite i fun l => BitVec.ofNat 32 (leadingZeros (i.grp.reg l (insRA w))))

/-! ## FALU (R134) -/

/-- Writes RD of every thread and ORs the exceptions of all of them into CSTAT (R65). -/
def State.faluWrite (s : State) (i : Issue) (f : Nat → Nat × Exc) : State :=
  let e := (i.lanes.map (fun l => (f l).2)).foldl (· ||| ·) 0
  s.putGroup i (((i.grp.setLanes (insRD i.word) (fun l => BitVec.ofNat 32 (f l).1) i.lanes).advance i.pc i.lanes).orCstat e)

/-- A binary32 operation that rounds under RND (RNE or RTZ): it needs RND, so it exists in Form R only (R130). -/
def State.falu (s : State) (site : Site) (op : Nat) (low : BitVec 52) (f : Nat → Nat → Nat → Nat × Exc) : State :=
  let w := insWord 1 op low
  s.issueIns site w ⟨1, 1, 1, 0, true, false, insMOD w == 0, 1, false, false⟩ fun i s =>
    s.faluWrite i fun l => f (insRND w) (i.grp.reg l (insRA w)).toNat (i.grp.reg l (insRB w)).toNat

/-- FADD (R134). -/
def execFadd (site : Site) (low : BitVec 52) (s : State) : Out := .next (s.falu site 0 low (fpAdd 0))
/-- FSUB (R134). -/
def execFsub (site : Site) (low : BitVec 52) (s : State) : Out := .next (s.falu site 1 low (fpSub 0))
/-- FMUL (R134). -/
def execFmul (site : Site) (low : BitVec 52) (s : State) : Out := .next (s.falu site 2 low (fpMul 0))

/-- FFMA (R134): RA × RB + RC, one rounding; Form R only. -/
def execFfma (site : Site) (low : BitVec 52) (s : State) : Out :=
  let w := insWord 1 3 low
  .next (s.issueIns site w ⟨1, 1, 1, 1, true, false, insMOD w == 0, 1, false, false⟩ fun i s =>
    s.faluWrite i fun l =>
      fpFma 0 (insRND w) (i.grp.reg l (insRA w)).toNat (i.grp.reg l (insRB w)).toNat (i.grp.reg l (insRC w)).toNat)

/-- A binary32 operation that does not round. -/
def State.faluPlain (s : State) (site : Site) (op : Nat) (low : BitVec 52) (f : Nat → Nat → Nat) : State :=
  let w := insWord 1 op low
  s.issueIns site w ⟨1, 1, 1, 0, true, true, insMOD w == 0, 0, false, true⟩ fun i s =>
    s.faluWrite i fun l => (f (i.grp.reg l (insRA w)).toNat (i.src2 l).toNat, 0)

/-- FMIN (R134): the canonical NaN when an input is NaN; −0 below +0. -/
def execFmin (site : Site) (low : BitVec 52) (s : State) : Out := .next (s.faluPlain site 4 low (fpMinMax 0 false))
/-- FMAX (R134). -/
def execFmax (site : Site) (low : BitVec 52) (s : State) : Out := .next (s.faluPlain site 5 low (fpMinMax 0 true))

/-- A change of the sign bit of RA. -/
def State.faluSign (s : State) (site : Site) (op : Nat) (low : BitVec 52) (f : Nat → Nat) : State :=
  let w := insWord 1 op low
  s.issueIns site w (unaryShape w) fun i s => s.faluWrite i fun l => (f (i.grp.reg l (insRA w)).toNat, 0)

/-- FABS (R134). -/
def execFabs (site : Site) (low : BitVec 52) (s : State) : Out := .next (s.faluSign site 6 low (fpAbs 0))
/-- FNEG (R134). -/
def execFneg (site : Site) (low : BitVec 52) (s : State) : Out := .next (s.faluSign site 7 low (fpNeg 0))

/-- FSET (R134): 1 or 0 by MOD; MOD 4 to 31 are reserved. -/
def execFset (site : Site) (low : BitVec 52) (s : State) : Out :=
  let w := insWord 1 8 low
  .next (s.issueIns site w ⟨1, 1, 1, 0, true, true, decide (insMOD w < 4), 0, false, true⟩ fun i s =>
    s.aluWrite i fun l => Word.ofBool (fsetCompare (insMOD w) (i.grp.reg l (insRA w)).toNat (i.src2 l).toNat))

/-! ## CVT (R135) -/

/-- The source and destination format codes and SAT. -/
def cvtSrc (w : Nat) : Nat := bitsOf w 15 12
def cvtDst (w : Nat) : Nat := bitsOf w 11 8
def cvtSat (w : Nat) : Bool := bitsOf w 0 0 == 1

/-- The pairs R135 allows. -/
def cvtPair (a b : Nat) : Bool :=
  (a = 0 && (b = 8 || b = 9 || b = 10 || b = 11)) || (a = 11 && b = 0) || ((a = 8 || a = 9 || a = 10) && b = 11)

/-- A narrow result in a register: sign-extended, or zero-extended for UINT8 (R135). -/
def widen (f v : Nat) : Nat := if f = 8 || f = 10 then toBits 32 (signed (fmtBits f) v) else v

/-- Under SR4 the instruction names RB and the pair RC, RC+1. -/
def cvtShape (w : Nat) : Shape :=
  let sr := insRND w = 2
  ⟨1, 1, if sr then 1 else 0, if sr then 2 else 0, true, false,
    insMOD w == 0 && cvtPair (cvtSrc w) (cvtDst w) && bitsOf w 7 1 == 0 && decide (insRC w + 1 < 128 ∨ ¬ sr), 2, true, false⟩

/-- Converts the threads of a set in ascending lane order, each taking its random bits under SR4 (R60, R168); none where
a lane's range is at its end (R171). -/
def cvtLanes (i : Issue) (w : Nat) : List Nat → Group → Rng → Option (Group × Rng)
  | [], g, r => some (g, r)
  | l :: ls, g, r =>
    let v := (i.grp.reg l (insRA w)).toNat % 2 ^ fmtBits (cvtSrc w)
    let idx := (i.grp.reg l (insRC w)).toNat + 2 ^ 32 * (i.grp.reg l (insRC w + 1)).toNat
    match (if insRND w = 2 then r.takeRound i.t (32 * i.p + l) (i.grp.reg l (insRB w)).toNat idx else some (0, r)) with
    | none => none
    | some (n, r') =>
      let (c, e) := convert (cvtDst w) (insRND w) n (cvtSat w) 0 (decodeElem (cvtSrc w) v)
      cvtLanes i w ls ((g.setReg l (insRD w) (BitVec.ofNat 32 (widen (cvtDst w) c))).orCstat e) r'

/-- Counts a use of a lane beyond its range (R171, R178, R179). -/
def State.laneFault (s : State) (i : Issue) : State :=
  (s.updTile i.t fun x => { x with rngCounters := x.rngCounters.add 0x118 1 }).insFault i 0x29 0

/-- CVT (R135). -/
def execCvt (site : Site) (low : BitVec 52) (s : State) : Out :=
  let w := insWord 2 0 low
  .next (s.issueIns site w (cvtShape w) fun i s =>
    match cvtLanes i w i.lanes (i.grp.advance i.pc i.lanes) (s.tile i.t).rng with
    | none => s.laneFault i
    | some (g, r) =>
      if insRND w = 2 then
        (s.updTile i.t fun x => { x with rng := r, rngCounters := x.rngCounters.add 0x108 ((s.tile i.t).rng.drawsTo r i.t 1 0 i.lanes.length) }).putGroup i g
      else s.putGroup i g)

/-! ## MOVE (R136) -/

/-- MOVI (R136): IMM to RD; Form I. -/
def execMovi (site : Site) (low : BitVec 52) (s : State) : Out :=
  let w := insWord 3 0 low
  .next (s.issueIns site w ⟨1, 0, 0, 0, false, true, insMOD w == 0, 0, false, true⟩ fun i s =>
    s.aluWrite i fun _ => BitVec.ofNat 32 (insIMM w))

/-- The special register of a code, for a thread; none: a reserved code (R136). -/
def special (i : Issue) (x : Tile) (code lane : Nat) : Option Nat :=
  let im := i.job.image
  let cyc := x.quarterCycles / 4
  match code with
  | 0x00 => some lane
  | 0x01 => some (16 * i.p + i.slot)
  | 0x02 => some (4 * i.t + i.p)
  | 0x03 => some i.t
  | 0x04 => some (i.t / 52)
  | 0x05 => some i.grp.id.toNat
  | 0x06 => some im.groups
  | 0x07 => some (im.lsBase i.p i.slot)
  | 0x08 => some im.lG
  | 0x09 => some im.share
  | 0x0A => some im.argBase
  | 0x0B => some (im.argBase / 2 ^ 32)
  | 0x0C => some i.grp.vl
  | 0x0D => some i.grp.ssum.toNat
  | 0x0E => some (i.grp.ssum.toNat / 2 ^ 32)
  | 0x0F => some (i.grp.ssum.toNat / 2 ^ 64)
  | 0x10 => some (i.grp.ssum.toNat / 2 ^ 96)
  | 0x11 => some i.grp.vacc.toNat
  | 0x12 => some (i.grp.vacc.toNat / 2 ^ 32)
  | 0x13 => some (i.grp.vacc.toNat / 2 ^ 64)
  | 0x14 => some (i.grp.vacc.toNat / 2 ^ 96)
  | 0x15 => some i.grp.vaccTag.toNat
  | 0x16 => some i.grp.cstat.toNat
  | 0x17 => some i.grp.aflags.toNat
  | 0x18 => some i.grp.aout
  | 0x19 => some i.grp.vout
  | 0x1A => some cyc
  | 0x1B => some (cyc / 2 ^ 32)
  | _ => none

/-- MOVS (R136): the special register of IMM[7:0] to RD; a read of CSTAT or AFLAGS clears it once per issue; a read of
SSUM, VACC or CSTAT waits (R106). -/
def execMovs (site : Site) (low : BitVec 52) (s : State) : Out :=
  let w := insWord 3 1 low
  let c := insIMM w % 256
  .next (s.issueIns site w ⟨1, 0, 0, 0, false, true,
      insMOD w == 0 && decide (insIMM w < 256) && decide (c < 0x1C), 0, false, true⟩ fun i s1 =>
    let x := s.tile i.t
    if x.vecPending i.key (decide (0x0D ≤ c ∧ c ≤ 0x10)) (decide (0x11 ≤ c ∧ c ≤ 0x15)) (decide (c = 0x16)) then s
    else
      let g := (i.grp.setLanes (insRD w) (fun l => BitVec.ofNat 32 ((special i x c l).getD 0)) i.lanes).advance i.pc i.lanes
      s1.putGroup i (if c = 0x16 then { g with cstat := 0 } else if c = 0x17 then { g with aflags := 0 } else g))

end Sys2Proof.Machine
end

