-- ==== Sys2Proof/Machine/Control.lean ====
section
/-! DEFINITION. Control and synchronisation of the thread-group processors: branches, calls, exit and trap (R137), fences,
the group barrier and the engine waits (R138, R141). -/

namespace Sys2Proof.Machine

/-! ## CONTROL (R137) -/

/-- Form I with IMM; `ra` and `rd` registers, MOD codes below `md`. -/
def immShape (w rd ra md : Nat) : Shape := ⟨rd, ra, 0, 0, false, true, decide (insMOD w < md), 0, false, true⟩
/-- Form R with at most RA. -/
def regShape (w ra : Nat) : Shape := ⟨0, ra, 0, 0, true, false, insMOD w == 0, 0, false, false⟩

/-- A branch target: PC + 8 × IMM, IMM signed, modulo 2^32. -/
def branchTarget (pc w : Nat) : Nat := toBits 32 ((pc : Int) + 8 * signed 32 (insIMM w))

/-- Sends threads to their targets; a target outside the code section or misaligned is the fault 0x25 (R156). -/
def State.branch (s : State) (i : Issue) (take : Nat → Bool) (target : Nat → Nat) (g : Group) : State :=
  let taken := i.lanes.filter take
  if taken.all (fun l => i.job.pcOk (target l)) then
    s.putGroup i (taken.foldl (fun g l => g.setPc l (target l)) (g.advance i.pc i.lanes))
  else s.insFault i 0x25 0

/-- NOP (R137). -/
def execNop (site : Site) (low : BitVec 52) (s : State) : Out :=
  let w := insWord 8 0 low
  .next (s.issueIns site w (regShape w 0) fun i s => s.pass i)

/-- BRA (R137): branch always. -/
def execBra (site : Site) (low : BitVec 52) (s : State) : Out :=
  let w := insWord 8 1 low
  .next (s.issueIns site w (immShape w 0 0 1) fun i s => s.branch i (fun _ => true) (fun _ => branchTarget i.pc w) i.grp)

/-- BRZ (R137): each thread branches if its RA is 0. -/
def execBrz (site : Site) (low : BitVec 52) (s : State) : Out :=
  let w := insWord 8 2 low
  .next (s.issueIns site w (immShape w 0 1 1) fun i s =>
    s.branch i (fun l => i.grp.reg l (insRA w) == 0) (fun _ => branchTarget i.pc w) i.grp)

/-- BRNZ (R137): each thread branches if its RA is not 0. -/
def execBrnz (site : Site) (low : BitVec 52) (s : State) : Out :=
  let w := insWord 8 3 low
  .next (s.issueIns site w (immShape w 0 1 1) fun i s =>
    s.branch i (fun l => i.grp.reg l (insRA w) != 0) (fun _ => branchTarget i.pc w) i.grp)

/-- The conditions of BRS by MOD (R137). -/
def brsTaken (md : Nat) (ssum : BitVec 128) : Bool := if md % 2 = 0 then ssum.getLsbD (md / 2) else !ssum.getLsbD (md / 2)

/-- BRS (R137): branch on the group's SSUM; waits for an earlier write of it (R106). -/
def execBrs (site : Site) (low : BitVec 52) (s : State) : Out :=
  let w := insWord 8 4 low
  .next (s.issueIns site w (immShape w 0 0 6) fun i s1 =>
    if (s.tile i.t).vecPending i.key true false false then s
    else s1.branch i (fun _ => brsTaken (insMOD w) i.grp.ssum) (fun _ => branchTarget i.pc w) i.grp)

/-- CALL (R137): RD := PC + 8, then branch. -/
def execCall (site : Site) (low : BitVec 52) (s : State) : Out :=
  let w := insWord 8 5 low
  .next (s.issueIns site w (immShape w 1 0 1) fun i s =>
    s.branch i (fun _ => true) (fun _ => branchTarget i.pc w)
      (i.grp.setLanes (insRD w) (fun _ => BitVec.ofNat 32 (i.pc + 8)) i.lanes))

/-- JMP (R137): PC := RA. -/
def execJmp (site : Site) (low : BitVec 52) (s : State) : Out :=
  let w := insWord 8 6 low
  .next (s.issueIns site w (regShape w 1) fun i s =>
    s.branch i (fun _ => true) (fun l => (i.grp.reg l (insRA w)).toNat) i.grp)

/-- A barrier completes when every live thread waits: the waiting threads pass it (R138). -/
def Group.barrierCheck (g : Group) : Group :=
  if g.live != 0 && (g.live &&& g.atBarrier == g.live) then
    let w := maskLanes g.atBarrier
    { (w.foldl (fun g l => g.setPc l (g.pcOf l + 8)) g) with atBarrier := 0 }
  else g

/-- A face that a group holds is released (R73). -/
def Face.releaseBy (f : Face) (slot : Nat) : Face := if f.held && f.ownerSlot == slot then Face.free else f

/-- The group of a slot, if the vector queue still holds an instruction of it. -/
def Tile.leave (x : Tile) (key : Nat) : List (Nat × Group) :=
  match smFind x.groups key with
  | some g => if x.vecQueue.any (fun v => v.slot == key && v.group == g.id) then [(key, g)] else []
  | none => []

/-- Whether any group of a job is resident. -/
def State.resident (s : State) (j : Nat) : Bool := s.tiles.any (fun e => e.2.groups.any (fun g => g.2.job.toNat == j))

/-- A group ends by its last EXIT: its slot and faces are released (R138), and the last group's exit decides the job's end
with OK (R348). A group with instructions still in the vector queue leaves its registers to the engine (R104). -/
def State.endGroup (s : State) (t key jobId : Nat) : State :=
  let s1 := s.updTile t fun x => { x with
    groups := smErase x.groups key, face0 := x.face0.releaseBy key, face1 := x.face1.releaseBy key
    loads := x.loads.filter (fun p => p.slot != key), leaving := x.leaving ++ x.leave key }
  let s1 := { s1 with sole.atomics := s1.sole.atomics.filter (fun a => !(a.tile == t && a.slot == key)),
                      seq.results := s1.seq.results.filter (fun r => !(r.tile == t && r.slot == key)) }
  let s2 := s1.updJob jobId fun v => { v with exited := v.exited + 1 }
  match s2.job jobId with
  | none => s2
  | some v =>
    if v.image.groups ≤ v.nextGroup && !s2.resident jobId then s2.endJob jobId (JobEnd.plain 0 s2.aon v.image.stackBits)
    else s2

/-- The threads of a set exit; the last one ends the group. -/
def State.exitLanes (s : State) (i : Issue) : State :=
  let g := { i.grp with live := i.grp.live &&& ~~~(laneMask i.lanes) }
  if g.live == 0 then s.endGroup i.t i.key i.jobId else s.putGroup i g.barrierCheck

/-- EXIT (R137, R138): the threads of the set exit; an exited thread counts as arrived at a barrier. -/
def execExitT (site : Site) (low : BitVec 52) (s : State) : Out :=
  .next (s.issueIns site (insWord 8 7 low) (regShape (insWord 8 7 low) 0) fun i s => s.exitLanes i)

/-- TRAP (R137): the job-fatal fault 0x27, IMM[15:0] in the record; IMM[31:16] must be 0. -/
def execTrap (site : Site) (low : BitVec 52) (s : State) : Out :=
  let w := insWord 8 8 low
  .next (s.issueIns site w ⟨0, 0, 0, 0, false, true, insMOD w == 0 && decide (insIMM w < 65536), 0, false, true⟩ fun i s =>
    (s.jobFault i.jobId 0x27 i.site (natToBytes 2 (insIMM w)) 0xFFFFFFFF).cntTile i.t 0x150 1)

/-! ## SYNC (R138, R141) -/

/-- A SYNC operation: Form R, or Form I where `imm` says IMM means something (and else IMM 0). -/
def syncShape (modOk imm : Bool) : Shape := ⟨0, 0, 0, 0, !imm, true, modOk, 0, false, imm⟩

/-- BAR (R138): the threads wait at the group barrier, which completes when every live thread waits. -/
def execBar (site : Site) (low : BitVec 52) (s : State) : Out :=
  let w := insWord 7 1 low
  .next (s.issueIns site w (syncShape (insMOD w == 0) false) fun i s =>
    s.putGroup i ({ i.grp with atBarrier := i.grp.atBarrier ||| laneMask i.lanes }).barrierCheck)

/-- WAITA (R138): the thread passes once the group's outstanding array count is at most IMM. -/
def execWaita (site : Site) (low : BitVec 52) (s : State) : Out :=
  let w := insWord 7 2 low
  .next (s.issueIns site w (syncShape (insMOD w == 0) true) fun i s1 =>
    if i.grp.aout ≤ insIMM w then s1.pass i else s)

/-- WAITV (R138): the thread passes once every earlier vector instruction of the group is visible. -/
def execWaitv (site : Site) (low : BitVec 52) (s : State) : Out :=
  let w := insWord 7 3 low
  .next (s.issueIns site w (syncShape (insMOD w == 0) false) fun i s1 =>
    if i.grp.vout = 0 then s1.pass i else s)

end Sys2Proof.Machine
end

