-- ==== Sys2Proof/Machine/Array.lean ====
section
/-! DEFINITION. The cube array (R69 to R97): the array operation descriptor and its checks, acceptance by MMA, EWMUL and
EWADD, the execution of the operation at the head of the queue, and its completion. -/

namespace Sys2Proof.Machine

/-! ## Tensors in the local store (R43) -/

/-- Bytes of a row of `n` elements: 6-bit elements in whole groups of three bytes. -/
def rowBytes (f n : Nat) : Nat := if fmtBits f = 6 then (n + 3) / 4 * 3 else (n * fmtBits f + 7) / 8

/-- Element `k` of a row. -/
def getElem (m : Memory) (f base k : Nat) : Nat :=
  let w := fmtBits f
  m.readNat (base + k * w / 8) ((k * w % 8 + w + 7) / 8) / 2 ^ (k * w % 8) % 2 ^ w

/-- The bytes of a row of element codes; unused bits are 0. -/
def packRow (f : Nat) (codes : List Nat) : List Byte :=
  natToBytes (rowBytes f codes.length) (codes.foldr (fun c n => c + 2 ^ fmtBits f * n) 0)

/-- Bytes as writes from an address on. -/
def writesAt : Nat → List Byte → List (Nat × Byte)
  | _, [] => []
  | a, b :: bs => (a, b) :: writesAt (a + 1) bs

/-! ## The descriptor (R76 to R80) -/

/-- A field of an AOD: `n` bytes at an offset. -/
def aodField (d : BitVec 640) (off n : Nat) : Nat := d.toNat / 2 ^ (8 * off) % 2 ^ (8 * n)
def aodCtrl0 (d : BitVec 640) (hi lo : Nat) : Nat := bitsOf (aodField d 0 4) hi lo
def aodCtrl1 (d : BitVec 640) (hi lo : Nat) : Nat := bitsOf (aodField d 4 4) hi lo

structure Aod where
  opc : Nat
  stat : Nat
  fa : Nat
  fb : Nat
  sa : Nat
  sb : Nat
  mode : Nat
  init : Nat
  face : Nat
  hold : Bool
  fd : Nat
  sd : Nat
  rnd : Nat
  sat : Bool
  dadd : Bool
  anchor : Int
  k : Nat
  m : Nat
  n : Nat
  aBase : Nat
  aStride : Nat
  bBase : Nat
  bStride : Nat
  cBase : Nat
  cStride : Nat
  dBase : Nat
  dStride : Nat
  aScale : Nat
  bScale : Nat
  dScale : Nat
  tid : Nat
  origin : Nat
  pitch : Nat
  /-- Every reserved field is 0. -/
  reservedOk : Bool
deriving DecidableEq, Repr

/-- Reads the fields of an AOD (R77 to R79). -/
def Aod.decode (d : BitVec 640) : Aod where
  opc := aodCtrl0 d 3 0
  stat := aodCtrl0 d 5 4
  fa := aodCtrl0 d 9 6
  fb := aodCtrl0 d 13 10
  sa := aodCtrl0 d 15 14
  sb := aodCtrl0 d 17 16
  mode := aodCtrl0 d 19 18
  init := aodCtrl0 d 21 20
  face := aodCtrl0 d 22 22
  hold := aodCtrl0 d 23 23 == 1
  fd := aodCtrl0 d 27 24
  sd := aodCtrl0 d 29 28
  rnd := aodCtrl0 d 31 30
  sat := aodCtrl1 d 0 0 == 1
  dadd := aodCtrl1 d 1 1 == 1
  anchor := signed 16 (aodCtrl1 d 31 16)
  k := bitsOf (aodField d 8 4) 23 0
  m := aodField d 0x0C 2
  n := aodField d 0x0E 2
  aBase := aodField d 0x10 4 % 2 ^ 22
  aStride := aodField d 0x14 4 % 2 ^ 22
  bBase := aodField d 0x18 4 % 2 ^ 22
  bStride := aodField d 0x1C 4 % 2 ^ 22
  cBase := aodField d 0x20 4
  cStride := aodField d 0x24 4
  dBase := aodField d 0x28 4
  dStride := aodField d 0x2C 4
  aScale := aodField d 0x30 4
  bScale := aodField d 0x34 4
  dScale := aodField d 0x38 4
  tid := aodField d 0x3C 4
  origin := aodField d 0x40 8
  pitch := aodField d 0x48 4
  reservedOk := decide (aodCtrl1 d 15 2 = 0) && decide (aodField d 8 4 < 2 ^ 24) && decide (aodField d 0x4C 4 = 0) &&
    [0x10, 0x14, 0x18, 0x1C].all (fun o => decide (aodField d o 4 < 2 ^ 22))

/-- d of R69: set by the wider operand. -/
def Aod.depth (o : Aod) : Nat :=
  let w := max (fmtBits o.fa) (fmtBits o.fb)
  if w ≤ 6 then 4 else if w = 8 then 2 else 1

def Aod.elementwise (o : Aod) : Bool := o.opc != 0
/-- Elements of an operand row, and rows of B. -/
def Aod.count (o : Aod) : Nat := if o.elementwise then o.n else o.k
def Aod.bRows (o : Aod) : Nat := if o.elementwise then o.m else o.n

/-- The conditions whose breach is the fault 0x20 (R72, R77 to R80, R94). -/
def Aod.fieldsOk (o : Aod) : Bool :=
  o.reservedOk && decide (o.opc ≤ 2) && decide (o.stat ≠ 3) && decide (o.mode ≠ 3) && decide (o.init ≠ 3) && decide (o.rnd ≠ 3) &&
  (decide (o.fd ≤ 11) || decide (o.fd = 14)) && (decide (o.anchor = 0) || decide (o.mode = 1)) &&
  arrayPair o.fa o.fb && scaleOk o.sa o.fa && scaleOk o.sb o.fb &&
  (decide (o.stat = 0) || (decide (o.init = 0) && !o.hold && decide (o.face = 0))) &&
  (!o.hold || (decide (o.stat = 0) && decide (o.fd = 0) && decide (o.sd = 0) && decide (o.rnd = 0) && !o.sat && !o.dadd &&
    decide (o.dBase = 0) && decide (o.dStride = 0) && decide (o.dScale = 0) && decide (o.tid = 0) && decide (o.origin = 0) &&
    decide (o.pitch = 0))) &&
  (decide (o.fd ≠ 14) || (decide (o.sd = 0) && decide (o.rnd = 0) && !o.sat)) && (!o.dadd || decide (o.fd = 14)) &&
  scaleOk o.sd o.fd &&
  (!o.elementwise || (decide (o.stat = 0) && decide (o.init = 0) && !o.hold && decide (o.face = 0) && decide (o.k = 0))) &&
  (decide (o.mode ≠ 0) || (defaultOk o.fa o.sa && defaultOk o.fb o.sb)) &&
  (decide (o.init = 2) || (decide (o.cBase = 0) && decide (o.cStride = 0))) &&
  (decide (o.sa ≠ 0) || decide (o.aScale = 0)) && (decide (o.sb ≠ 0) || decide (o.bScale = 0)) &&
  (decide (o.sd ≠ 0) || decide (o.dScale = 0)) &&
  (if o.elementwise then decide (o.n ≤ 64)
    else if o.stat = 0 then decide (o.m ≤ 64) && decide (o.n ≤ 64)
    else if o.stat = 1 then decide (o.n ≤ 64) && decide (o.k ≤ 32 * o.depth)
    else decide (o.m ≤ 64) && decide (o.k ≤ 32 * o.depth))

/-- A region: base, stride, rows and bytes of a row. -/
structure Area where
  base : Nat
  stride : Nat
  rows : Nat
  bytes : Nat
deriving DecidableEq, Repr

def Area.fits (r : Area) (share : Nat) : Bool :=
  decide (r.rows = 0) || decide (r.bytes = 0) || decide (r.base + (r.rows - 1) * r.stride + r.bytes ≤ share)

/-- Whether two areas share a byte. -/
def Area.meets (x y : Area) : Bool :=
  (upTo x.rows).any fun i => (upTo y.rows).any fun j =>
    decide (x.base + i * x.stride < y.base + j * y.stride + y.bytes) && decide (y.base + j * y.stride < x.base + i * x.stride + x.bytes)

def ceilDiv (a b : Nat) : Nat := (a + b - 1) / b

/-- What an operation reads (R82): A, B, their scales and C. -/
def Aod.reads (o : Aod) : List Area :=
  [⟨o.aBase, o.aStride, o.m, rowBytes o.fa o.count⟩, ⟨o.bBase, o.bStride, o.bRows, rowBytes o.fb o.count⟩] ++
  (if o.sa ≠ 0 then [⟨o.aScale, 0, 1, o.m * ceilDiv o.count (blockSize o.sa)⟩] else []) ++
  (if o.sb ≠ 0 then [⟨o.bScale, 0, 1, o.bRows * ceilDiv o.count (blockSize o.sb)⟩] else []) ++
  (if o.init = 2 then [⟨o.cBase, o.cStride, o.m, 16 * o.n⟩] else [])

/-- What a drain with DRAIN_ADD reads beside its operands (R89): D. -/
def Aod.adds (o : Aod) : List Area := if o.dadd then [⟨o.dBase, o.dStride, o.m, 16 * o.n⟩] else []

/-- What an operation writes: D and its scales. -/
def Aod.writes (o : Aod) : List Area :=
  if o.hold then []
  else [⟨o.dBase, o.dStride, o.m, rowBytes o.fd o.n⟩] ++
    (if o.sd ≠ 0 then [⟨o.dScale, 0, 1, o.m * ceilDiv o.n (blockSize o.sd)⟩] else [])

/-- The conditions whose breach is the fault 0x21 (R80, R96). -/
def Aod.rangesOk (o : Aod) (share : Nat) : Bool :=
  [o.aBase, o.aStride, o.bBase, o.bStride, o.cBase, o.cStride, o.dBase, o.dStride].all (fun v => decide (v % 16 = 0)) &&
  (o.hold || decide (rowBytes o.fd o.n ≤ o.dStride)) && (o.reads ++ o.writes).all (fun a => a.fits share)

/-! ## Acceptance (R76, R81) -/

/-- Accepts an array operation: its AOD is read and checked now, once the group's earlier vector writes to it are visible
(R105); a full queue, a group with 32 operations outstanding (R83) or an AOD of another row's operation leaves everything
as it is. -/
def State.acceptArray (s0 : State) (site : Site) (opc : Nat) (low : BitVec 52) : State :=
  let w := insWord 9 0 low
  s0.issueIns site w ⟨0, 1, 0, 0, true, false, insMOD w == 0, 0, true, false⟩ fun i s =>
    let a := toBits 32 ((i.scalar (insRA w)).toNat + signed 16 (insOFF w))
    let x := s.tile i.t
    if 32 ≤ x.arrayQueue.length || 32 ≤ i.grp.aout || x.vecOverlap i.job.image i.key a 80 then s0
    else if a % 16 ≠ 0 || i.job.image.share < a + 80 then s.insFault i 0x21 a
    else
      let c := s.readWords i.t i.job.image.nR i.job.image.share (inShare a 80)
      let d := BitVec.ofNat 640 ((c.2.tile i.t).share.readNat a 80)
      let o := Aod.decode d
      if !c.1 then c.2
      else if o.opc ≤ 2 && decide (o.opc ≠ opc) then s0
      else if !o.fieldsOk then c.2.insFault i 0x20 a
      else if !o.rangesOk i.job.image.share then c.2.insFault i 0x21 a
      else
        let op : ArrayOp := ⟨i.key, i.grp.id, d, BitVec.ofNat 64 w, BitVec.ofNat 32 i.pc, laneMask i.lanes, i.grp.vout, a⟩
        let s1 := c.2.updTile i.t fun x => { x with arrayQueue := x.arrayQueue ++ [op] }
        s1.putGroup i { (i.grp.advance i.pc i.lanes) with aout := i.grp.aout + 1 }

/-- MMA (R72, R76, R81): issues a matrix product. -/
def execMma (site : Site) (low : BitVec 52) (s : State) : Out := .next (s.acceptArray site 0 low)
/-- EWMUL (R94): issues an element-wise product. -/
def execEwmul (site : Site) (low : BitVec 52) (s : State) : Out := .next (s.acceptArray site 1 low)
/-- EWADD (R94): issues an element-wise sum. -/
def execEwadd (site : Site) (low : BitVec 52) (s : State) : Out := .next (s.acceptArray site 2 low)

/-! ## Execution -/

/-- The values of an operand row (R45, R77). -/
def operandRow (m : Memory) (f scl base stride sbase count r : Nat) : List Val :=
  (upTo count).map fun k =>
    decodeScaled f scl
      (if scl = 0 then 0 else (m.read (sbase + r * ceilDiv count (blockSize scl) + k / blockSize scl)).toNat)
      (getElem m f (base + r * stride) k)

/-- The greater of two ceilings, absent ones aside. -/
def maxCeil (a b : Option Int) : Option Int :=
  match a, b with
  | some x, some y => some (max x y)
  | some x, none => some x
  | none, y => y

/-- C_X over some rows of an operand (R53, R85). -/
def operandCeil (m : Memory) (f scl base stride sbase count : Nat) (rows : List Nat) : Int :=
  if scl = 0 && isNarrow f then fmtC f
  else
    let cs := rows.map fun r => (upTo count).map fun k =>
      let v := getElem m f (base + r * stride) k
      if scl = 0 then elemCeiling f v
      else scaledCeiling f scl (m.read (sbase + r * ceilDiv count (blockSize scl) + k / blockSize scl)).toNat v
    ((cs.flatten).foldl maxCeil none).getD 0

def Aod.aRow (o : Aod) (m : Memory) (r : Nat) : List Val := operandRow m o.fa o.sa o.aBase o.aStride o.aScale o.count r
def Aod.bRow (o : Aod) (m : Memory) (r : Nat) : List Val := operandRow m o.fb o.sb o.bBase o.bStride o.bScale o.count r

/-- A_sel of a pass over some rows of A and of B (R84, R85, R94). -/
def Aod.anchorSel (o : Aod) (m : Memory) (ra rb : List Nat) : Int :=
  if o.mode = 1 then o.anchor
  else if o.mode = 0 then 94 + (if o.opc = 2 then min (fmtQ o.fa) (fmtQ o.fb) else fmtQ o.fa + fmtQ o.fb)
  else
    let ca := operandCeil m o.fa o.sa o.aBase o.aStride o.aScale o.count ra
    let cb := operandCeil m o.fb o.sb o.bBase o.bStride o.bScale o.count rb
    (if o.opc = 2 then max ca cb else ca + cb) + 23

/-- The sum of a starting value and contributions (R50, R58): a contribution that alone leaves the range gives OVERFLOW
(R54, R87); where some order overflows and another does not, the part's own order decides (a free value). -/
def wideSum (start : Wide) (cs : List Wide) : Wide :=
  let f := cs.foldl (fun f c => f ||| c.flags) start.flags
  let total := cs.foldl (fun n c => n + c.int) start.int
  let up := cs.foldl (fun n c => n + max c.int 0) start.int
  let down := cs.foldl (fun n c => n + min c.int 0) start.int
  if f.getLsbD 1 || !wideFits total || cs.any (fun c => !wideFits c.int) then ⟨wideMark, f ||| wOverflow⟩
  else if wideFits up && wideFits down then ⟨total, f⟩
  else if Config.orderOverflows (start.int :: cs.map Wide.int) then ⟨wideMark, f ||| wOverflow⟩
  else ⟨total, f⟩

/-- The products of two rows. -/
def dotProducts (anchor : Int) (x y : List Val) : List Wide := (x.zip y).map fun p => p.1.product p.2 anchor

def valOne : Val := .fin false 1 1 0

/-- One output of an element-wise operation (R94). -/
def ewOutput (opc : Nat) (anchor : Int) (x y : Val) : Wide :=
  wideSum Wide.zero (if opc = 2 then [x.product valOne anchor, y.product valOne anchor] else [x.product y anchor])

/-- The passes of an operation (R72, R85): 64 rows, or 64 columns for A-stationary. -/
def passRows (n p : Nat) : List Nat := (upTo 64).map (64 * p + ·) |>.filter (· < n)

/-- The results of a stationary or element-wise operation: row, column and value. -/
def Aod.streamed (o : Aod) (m : Memory) : List (List Wp96) :=
  if o.elementwise then
    ((upTo (ceilDiv o.m 64)).map fun p =>
      let rows := passRows o.m p
      let a := o.anchorSel m rows rows
      rows.map fun i => ((o.aRow m i).zip (o.bRow m i)).map fun v =>
        let w := ewOutput o.opc a v.1 v.2
        (⟨w.int, a, w.flags⟩ : Wp96)).flatten
  else if o.stat = 1 then
    ((upTo (ceilDiv o.m 64)).map fun p =>
      let rows := passRows o.m p
      let a := o.anchorSel m rows (upTo o.n)
      rows.map fun i => (upTo o.n).map fun j =>
        let w := wideSum Wide.zero (dotProducts a (o.aRow m i) (o.bRow m j))
        (⟨w.int, a, w.flags⟩ : Wp96)).flatten
  else
    (upTo o.m).map fun i => (upTo o.n).map fun j =>
      let a := o.anchorSel m (upTo o.m) (passRows o.n (j / 64))
      let w := wideSum Wide.zero (dotProducts a (o.aRow m i) (o.bRow m j))
      (⟨w.int, a, w.flags⟩ : Wp96)

def Face.get (f : Face) (i j : Nat) : Wide := smGet Wide.zero f.acc (64 * i + j)

/-- The starting face of an output-stationary operation at its pass anchor (R73, R84, R86). -/
def Aod.startFace (o : Aod) (m : Memory) (f : Face) (aSel : Int) : Int × SMap Wide :=
  if o.init = 1 then
    let a := max aSel f.anchor
    (a, f.acc.filterMap fun e => let w := e.2.realign f.anchor a; if w = Wide.zero then none else some (e.1, w))
  else if o.init = 2 then
    let vals := ((upTo o.m).map fun i => (upTo o.n).map fun j =>
      (64 * i + j, Wp96.decode (m.readNat (o.cBase + i * o.cStride + 16 * j) 16))).flatten
    let a := vals.foldl (fun a v => max a v.2.anchor) aSel
    (a, vals.foldl (fun t v => smSet Wide.zero t v.1 ((v.2.moveTo a).wide)) [])
  else (aSel, [])

/-- The face after an output-stationary operation's products (R84). -/
def Aod.runFace (o : Aod) (m : Memory) (f : Face) : Int × SMap Wide :=
  let (a, acc) := o.startFace m f (o.anchorSel m (upTo o.m) (upTo o.n))
  let cells := ((upTo o.m).map fun i => (upTo o.n).map fun j => (i, j)).flatten
  (a, cells.foldl (fun t c =>
    smSet Wide.zero t (64 * c.1 + c.2)
      (wideSum (smGet Wide.zero t (64 * c.1 + c.2)) (dotProducts a (o.aRow m c.1) (o.bRow m c.2)))) acc)

/-- The draws, exceptions and flags that a drain accumulates. -/
structure Drain where
  rng : Rng
  flags : BitVec 5
  exc : Exc
  taken : Nat
  writes : List (Nat × Byte)
deriving DecidableEq, Repr

/-- The lane of an output in lane mode (R169). -/
def Aod.lane (o : Aod) (i j : Nat) : Nat := if o.stat = 2 then 64 * (j % 2) + i % 64 else 64 * (i % 2) + j % 64

/-- The rounding nibbles of the outputs of a row, in ascending column (R60, R90, R170); none at a lane's range end. -/
def Aod.rowDraws (o : Aod) (t i : Nat) : Nat → Nat → Rng → Option (List Nat × Rng)
  | 0, _, g => some ([], g)
  | n + 1, j, g =>
    match g.takeRound t (o.lane i j) o.tid ((o.origin + i * o.pitch + j) % 2 ^ 64) with
    | none => none
    | some (r, g1) =>
      match o.rowDraws t i n (j + 1) g1 with
      | none => none
      | some (rs, g2) => some (r :: rs, g2)

/-- Converts the blocks of a row (R67, R89): scale codes and element codes. -/
def quantRow (mode f rnd : Nat) (sat : Bool) : Nat → List (Val × Nat) → List Nat × List Nat × Exc
  | 0, _ => ([], [], 0)
  | n + 1, vs =>
    let blk := vs.take (blockSize mode)
    let sc := blockScale mode f (blk.map Prod.fst)
    let cs := blk.map fun v => quantElem mode f sc rnd v.2 sat v.1
    let (ss, es, x) := quantRow mode f rnd sat n (vs.drop (blockSize mode))
    (sc :: ss, cs.map Prod.fst ++ es, cs.foldl (fun e c => e ||| c.2) x)

/-- Drains one row of results through the converter (R89). -/
def Aod.drainRow (o : Aod) (m : Memory) (t i : Nat) (row : List Wp96) (d : Drain) : Option Drain :=
  let base := o.dBase + i * o.dStride
  let vals := if o.dadd then
      (row.zip (upTo row.length)).map fun v => v.1.add (Wp96.decode (m.readNat (base + 16 * v.2) 16))
    else row
  let fl := vals.foldl (fun f v => f ||| v.flags) d.flags
  if o.fd = 14 then
    some { d with flags := fl, writes := d.writes ++ writesAt base (vals.map (fun v => natToBytes 16 v.encode)).flatten }
  else
    match (if o.rnd = 2 then o.rowDraws t i vals.length 0 d.rng else some (List.replicate vals.length 0, d.rng)) with
    | none => none
    | some (rs, g) =>
      let srcs := vals.map Wp96.source
      let taken := d.taken + (if o.rnd = 2 then d.rng.drawsTo g t 32 (o.origin + i * o.pitch) vals.length else 0)
      let se := srcs.foldl (fun e v => e ||| v.2) d.exc
      let vs := (srcs.map Prod.fst).zip rs
      if o.sd = 0 then
        let cs := vs.map fun v => convert o.fd o.rnd v.2 o.sat 0 v.1
        some ⟨g, fl, cs.foldl (fun e c => e ||| c.2) se, taken, d.writes ++ writesAt base (packRow o.fd (cs.map Prod.fst))⟩
      else
        let nb := ceilDiv o.n (blockSize o.sd)
        let (ss, es, x) := quantRow o.sd o.fd o.rnd o.sat nb vs
        some ⟨g, fl, se ||| x, taken, d.writes ++ writesAt base (packRow o.fd es) ++
          writesAt (o.dScale + i * nb) (ss.map (BitVec.ofNat 8))⟩

/-- Drains rows in ascending order. -/
def Aod.drainRows (o : Aod) (m : Memory) (t : Nat) : Nat → List (List Wp96) → Drain → Option Drain
  | _, [], d => some d
  | i, r :: rs, d =>
    match o.drainRow m t i r d with
    | none => none
    | some d' => o.drainRows m t (i + 1) rs d'

/-- What an operation that streams or drains writes; nothing for K = 0 of a stationary operation without DRAIN_ADD (R96). -/
def Aod.results (o : Aod) (m : Memory) (f : Int × SMap Wide) : List (List Wp96) :=
  if o.elementwise then o.streamed m
  else if o.stat = 0 then
    (upTo o.m).map fun i => (upTo o.n).map fun j =>
      let w := smGet Wide.zero f.2 (64 * i + j)
      (⟨w.int, f.1, w.flags⟩ : Wp96)
  else if o.k = 0 && !o.dadd then []
  else o.streamed m

/-- The operation's group still holds its slot: a face is held only for a group that has not ended (R73). -/
def Tile.owns (x : Tile) (slot : Nat) (group : Word) : Bool :=
  match smFind x.groups slot with
  | some g => g.id == group
  | none => false

/-- The face an operation names; a stationary one names face 0 (R73). -/
def Tile.face (x : Tile) (n : Nat) : Face := if n = 0 then x.face0 else x.face1
def Tile.setFace (x : Tile) (n : Nat) (f : Face) : Tile := if n = 0 then { x with face0 := f } else { x with face1 := f }

/-- The earlier operation whose results the head must wait for (R82), in the operands or in the D that DRAIN_ADD reads, or
vector writes it must see (R105). -/
def Tile.arrayHeld (x : Tile) (op : ArrayOp) : Bool :=
  let o := Aod.decode op.aod
  decide (0 < op.afterVec) ||
  x.arrayDone.any (fun e => e.writes.any (fun w => (o.reads ++ o.adds).any (fun r => r.meets ⟨w.1, 0, 1, 1⟩)))

/-- The site of an array operation's fault. -/
def ArrayOp.site (op : ArrayOp) (t : Nat) : FaultSite := ⟨BitVec.ofNat 32 t, op.group, op.lanes, op.pc⟩

/-- Whether a face operation breaks R73: a face another group holds, or KEEP without holding it. -/
def Face.refuses (f : Face) (o : Aod) (slot : Nat) (group : Word) : Bool :=
  let mine := f.held && f.ownerSlot == slot && f.owner == group
  !o.elementwise && ((f.held && !mine) || (decide (o.init = 1) && !mine))

/-- Runs the head of a tile's array queue: its products, its face and its results, which become visible later. -/
def State.runArray (s : State) (t jobId : Nat) (op : ArrayOp) (rest : List ArrayOp) : State :=
  let x := { (s.tile t) with arrayQueue := rest }
  let o := Aod.decode op.aod
  let f := x.face o.face
  if f.refuses o op.slot op.group then (s.setTile t x).tileFault t jobId (op.site t) 0x22 op.word.toNat op.base
  else
    let fr := if !o.elementwise && decide (o.stat = 0) then o.runFace x.share f else (0, [])
    let x1 := if o.elementwise then x
      else if o.hold && x.owns op.slot op.group then x.setFace o.face ⟨true, op.group, op.slot, fr.1, fr.2⟩
      else x.setFace o.face Face.free
    if o.hold then s.setTile t { x1 with arrayDone := x1.arrayDone ++ [⟨op.slot, op.group, [], 0, 0, 0⟩] }
    else
      match o.drainRows x.share t 0 (o.results x.share fr) ⟨x.rng, 0, 0, 0, []⟩ with
      | none =>
        ((s.setTile t { x with rngCounters := x.rngCounters.add 0x118 1 })).tileFault t jobId (op.site t) 0x29 op.word.toNat op.base
      | some d =>
        s.setTile t { x1 with
          rng := d.rng, rngCounters := x1.rngCounters.add 0x100 d.taken,
          arrayDone := x1.arrayDone ++ [⟨op.slot, op.group, d.writes, d.flags, d.exc, 0⟩] }

/-- The job of an accepted operation of a tile: that of the group in its slot, or of any group of the tile. -/
def State.tileJob (s : State) (t : Nat) : Option Nat := s.jobOn (t / 52)

/-- Whether a word of a tile holds a byte of some areas. -/
def holdsAreas (rs : List Area) (n : Nat) : Bool :=
  rs.any fun r => decide (r.bytes ≠ 0) && (upTo r.rows).any fun i => inShare (r.base + i * r.stride) r.bytes n

/-- Reads what an operation is about to use (R96): whether all of it can be used. -/
def State.arrayReads (s : State) (t : Nat) (im : Image) (op : ArrayOp) : Bool × State :=
  let o := Aod.decode op.aod
  if ((s.tile t).face o.face).refuses o op.slot op.group then (true, s)
  else s.readWords t im.nR im.share (holdsAreas (o.reads ++ o.adds))

/-- ARRAY_EXECUTE (R81, R82, R96): the array runs the operation at the head of its queue, unless an interlock holds it; an
operand that cannot be corrected ends the job instead. -/
def execArrayExecute (tile : Fin 416) (s : State) : Out :=
  let t := tile.val
  let x := s.tile t
  match x.arrayQueue, s.tileJob t with
  | op :: rest, some j =>
    match s.job j with
    | some v =>
      if s.present j && !x.arrayHeld op then
        let c := s.arrayReads t v.image op
        .next (if c.1 then c.2.runArray t j op rest else c.2)
      else .next s
    | none => .next s
  | _, _ => .next s

/-- Applies byte writes in order. -/
def Memory.applyWrites (m : Memory) (ws : List (Nat × Byte)) : Memory := ws.foldl (fun m w => m.write w.1 w.2) m

/-- ARRAY_OP_COMPLETE (R83): the oldest executed operation's results become visible, its flags and exceptions reach the
group, and the group's outstanding count falls. -/
def execArrayOpComplete (tile : Fin 416) (s : State) : Out :=
  let t := tile.val
  let x := s.tile t
  match x.arrayDone, s.tileJob t with
  | e :: rest, some j =>
    if s.present j then
      let s1 := s.setTile t { (x.written fun n => e.writes.any fun w => inShare w.1 1 n) with
        arrayDone := rest, share := x.share.applyWrites e.writes, counters := x.counters.add 0x120 1 }
      .next (match smFind x.groups e.slot with
        | some g => if g.id == e.group then
            s1.setGroup t e.slot { (g.orCstat e.exceptions).orAflags e.flags with aout := g.aout - 1 } else s1
        | none => s1)
    else .next s
  | _, _ => .next s

end Sys2Proof.Machine
end

