-- ==== Sys2Proof/Machine/Host.lean ====
section
/-! DEFINITION. How a host register write reaches a register (R319, R320, R496, R504): the gates, and the audit entry that
comes before the change. -/

namespace Sys2Proof.Machine

/-- Registers answer while the host link is up (R6, R316). -/
def State.linked (s : State) : Bool := s.host.up && !(s.dev.mode matches .off | .aon)

/-- Without active IDE under REQUIRE_IDE (R496). -/
def State.ideBlocks (s : State) : Bool := s.flag 4 && !s.host.ide

/-- BAR0 offsets that stay writable without IDE: the RING block, MGT_STATUS_PAGE, MGT_RESET, THM_ACK, SEC_AUDIT_ACK. -/
def ideExempt (off : Nat) : Bool :=
  off / 0x1000 = 1 || off = 0x28 || off = 0x2C || off = 0x40 || off = 0x401C || off = 0x303C || off = 0x3040

/-- A BAR0 write at an offset may have an effect. -/
def State.writable (s : State) (off : Nat) : Bool := s.linked && (ideExempt off || !s.ideBlocks)

/-- The REG_WRITE payload: where, the offset, the value written and the value after (R503). -/
def regWritePayload (space off v after : Nat) : List Byte :=
  natToBytes 4 space ++ natToBytes 4 off ++ natToBytes 4 v ++ natToBytes 4 after

/-- The space code of an entry: a BAR0 block, or an indirect space above 0x100. -/
def barSpace (off : Nat) : Nat := off / 0x1000
def indSpace (space : Nat) : Nat := 0x100 + space

/-- A logged register write (R320, R502, R504): one entry, committed before the change; refused while the reserve is in
force, unless such a write is `never` refused. -/
def State.logWrite (s : State) (space off v : Nat) (never : Bool) (after : State → Nat) (f : State → State) : State :=
  if s.auditReserve && !never then s.cntSec 0x128 1
  else f (s.audit 0 0xFFFF 1 0 (regWritePayload space off v (after (f s))))

/-- A logged write of a BAR0 register. -/
def State.barWrite (s : State) (off : Nat) (v : Word) (after : State → Nat) (f : State → State) : State :=
  if s.writable off then s.logWrite (barSpace off) (off % 0x1000) v.toNat false after f else s

/-- A logged write of a register of the indirect window, reached through MGT_IND_DATA. -/
def State.indWrite (s : State) (space off : Nat) (v : Word) (after : State → Nat) (f : State → State) : State :=
  if s.writable 0x38 then s.logWrite (indSpace space) off v.toNat false after f else s

/-- An unlogged write of a register of the indirect window. -/
def State.indWriteQuiet (s : State) (f : State → State) : State := if s.writable 0x38 then f s else s

/-- The 32-bit halves of a counter or of a 64-bit register. -/
def loWord (n : Nat) : Word := BitVec.ofNat 32 n
def hiWord (n : Nat) : Word := BitVec.ofNat 32 (n / 2 ^ 32)

end Sys2Proof.Machine
end

