-- ==== Sys2Proof/Machine/CheckValue.lean ====
section
/-! DEFINITION. Check-value units (R390 to R401). -/

namespace Sys2Proof.Machine

/-! ## Polynomials (R392) -/

/-- The running remainder of a fresh stream. -/
def cvuInit (poly : BitVec 2) : BitVec 64 := if poly = 2 then 0 else 0xFFFFFFFF
/-- Feeds bytes. -/
def cvuFeed (poly : BitVec 2) (bs : List Byte) (c : BitVec 64) : BitVec 64 :=
  BitVec.ofNat 64 (
    if poly = 2 then crcFeed 64 0x42F0E1EBA9EA3693 bs c.toNat
    else if poly = 1 then crcReflFeed 0xEDB88320 bs c.toNat
    else crcReflFeed 0x82F63B78 bs c.toNat)
/-- The final XOR. -/
def cvuFinal (poly : BitVec 2) (c : BitVec 64) : BitVec 64 := if poly = 2 then c else c ^^^ 0xFFFFFFFF
/-- The bits of EXPECT that are compared. -/
def cvuExpected (poly : BitVec 2) (e : Dword) : Dword := if poly = 2 then e else e &&& 0xFFFFFFFF

/-! ## A unit's operations -/

/-- RESET (R391, R401). -/
def Cvu.fresh (u : Cvu) : Cvu :=
  { u with crc := cvuInit u.poly, bytes := 0, isOpen := false, sawAny := false, done := false, isMatch := false, mismatch := false }

/-- Feeds data bytes (R393, R394). -/
def Cvu.feed (u : Cvu) (bs : List Byte) : Cvu :=
  if u.done then { u with orderError := true }
  else { u with crc := cvuFeed u.poly bs u.crc, bytes := (u.bytes + bs.length) % 2 ^ 32, isOpen := true, sawAny := true }

/-- Feeds a fold word, only as the first bytes of a stream (R394). -/
def Cvu.fold (u : Cvu) (w : Nat) : Cvu :=
  if u.done || u.isOpen then { u with orderError := true }
  else { u with crc := cvuFeed u.poly (natToBytes 8 w) u.crc, bytes := 8, isOpen := true }

/-- FINISH (R395, R396). -/
def Cvu.finish (u : Cvu) : Cvu :=
  if u.readout then { u with done := true }
  else
    let ok := cvuFinal u.poly u.crc == cvuExpected u.poly u.expect
    { u with
      done := true, isMatch := ok, mismatch := !ok, compares := satAdd64 u.compares 1
      mismatches := if ok then u.mismatches else satAdd64 u.mismatches 1 }

/-- CVU_VALUE (R395, R396). -/
def Cvu.value (u : Cvu) : Dword := if u.readout then cvuFinal u.poly u.crc else 0

/-- The unit as a cold or warm reset leaves it (R400); a cold reset clears the counters too (R401). -/
def Cvu.afterReset (u : Cvu) : Cvu := { Cvu.reset with compares := u.compares, mismatches := u.mismatches }

/-! ## Owners and modes (R397) -/

/-- A unit that serves its port. -/
def State.cvuOwned (s : State) (u : Nat) : Bool := u < 36 && s.dev.mode matches .ready && (s.port (u / 2)).up

/-- Whether the host may write a unit now (R397, R399). -/
def State.cvuWritable (s : State) (u : Nat) : Bool :=
  !(s.cvu u).failed && !s.cvuOwned u && !(s.dev.mode matches .boot | .shutdown | .off | .aon)

/-- CVU_SEL, and whether it selects a unit. -/
def State.cvuSel (s : State) : Nat := s.reg (indKey 5 0) 0 % 64

/-- A host write to the selected unit: refused writes set REFUSED (R397). -/
def State.cvuWrite (s : State) (f : Cvu → Cvu) : State :=
  let u := s.cvuSel
  if 44 ≤ u then s
  else if s.cvuWritable u then s.setCvu u (f (s.cvu u))
  else s.setCvu u { s.cvu u with refused := true }

/-- A write of CVU_CTL (R392, R394, R397). -/
def State.cvuCtl (s : State) (v : Word) : State :=
  let u := s.cvuSel
  let readoutOk := !(s.dev.mode matches .ready) || u < 36
  s.cvuWrite fun c =>
    if v.toNat % 4 = 3 || (v.getLsbD 2 && !readoutOk) then { c with refused := true }
    else if c.isOpen then { c with orderError := true }
    else
      let p := BitVec.ofNat 2 v.toNat
      { c with poly := p, readout := v.getLsbD 2, crc := cvuInit p }

/-- CVU_CTL as it reads. -/
def State.cvuCtlValue (s : State) : Nat :=
  let u := s.cvuSel
  if 44 ≤ u then 0 else (s.cvu u).poly.toNat + (if (s.cvu u).readout then 4 else 0)

/-- A write of CVU_CMD. -/
def State.cvuCmd (s : State) (v : Word) : State :=
  if v.getLsbD 0 then s.cvuWrite Cvu.fresh else if v.getLsbD 1 then s.cvuWrite Cvu.finish else s

/-- A write of CVU_FOLD_LO: held until CVU_FOLD_HI. -/
def State.cvuFoldLow (s : State) (v : Word) : State :=
  s.cvuWrite fun c => if c.done || c.sawAny then { c with orderError := true } else { c with foldLo := v }
def State.cvuFoldHigh (s : State) (v : Word) : State :=
  s.cvuWrite fun c => c.fold (c.foldLo.toNat + 2 ^ 32 * v.toNat)
def State.cvuData (s : State) (n : Nat) (v : Word) : State := s.cvuWrite fun c => c.feed (natToBytes n v.toNat)

/-- CVU_STATUS. -/
def State.cvuStatus (s : State) (u : Nat) : Nat :=
  let c := s.cvu u
  let b := fun (x : Bool) n => if x then 2 ^ n else 0
  b c.isOpen 0 + b c.done 1 + b c.isMatch 2 + b c.mismatch 3 + b c.orderError 4 + b c.refused 5 + b (s.cvuOwned u) 6 + b c.failed 7

/-! ## The rows -/

/-- CVU_CTL_WRITE (R397, R401): a logged write. -/
def execCvuCtlWrite (v : BitVec 32) (s : State) : Out := .next (s.indWrite 5 4 v State.cvuCtlValue (fun t => t.cvuCtl v))
/-- CVU_RESET (R391). -/
def execCvuReset (s : State) : Out := .next (s.indWriteQuiet fun t => t.cvuCmd 1)
/-- CVU_FINISH (R395, R396). -/
def execCvuFinish (s : State) : Out := .next (s.indWriteQuiet fun t => t.cvuCmd 2)
/-- CVU_FOLD_LO (R393). -/
def execCvuFoldLo (v : BitVec 32) (s : State) : Out := .next (s.indWriteQuiet fun t => t.cvuFoldLow v)
/-- CVU_FOLD_HI (R394). -/
def execCvuFoldHi (v : BitVec 32) (s : State) : Out := .next (s.indWriteQuiet fun t => t.cvuFoldHigh v)
/-- CVU_DATA8 (R393). -/
def execCvuData8 (v : BitVec 32) (s : State) : Out := .next (s.indWriteQuiet fun t => t.cvuData 1 v)
/-- CVU_DATA16 (R393). -/
def execCvuData16 (v : BitVec 32) (s : State) : Out := .next (s.indWriteQuiet fun t => t.cvuData 2 v)
/-- CVU_DATA32 (R393). -/
def execCvuData32 (v : BitVec 32) (s : State) : Out := .next (s.indWriteQuiet fun t => t.cvuData 4 v)

/-! ## Known-answer tests (R399) -/

/-- The nine bytes "123456789". -/
def nineDigits : List Byte := [0x31, 0x32, 0x33, 0x34, 0x35, 0x36, 0x37, 0x38, 0x39]
/-- The three checks of a sound unit give the check column of R392. -/
def cvuKnownAnswers : Bool :=
  let f := fun (p : BitVec 2) => cvuFinal p (cvuFeed p nineDigits (cvuInit p))
  f 0 == 0xE3069283 && f 1 == 0xCBF43926 && f 2 == 0x6C40DF5F0B497347

end Sys2Proof.Machine
end

