-- ==== Sys2Proof/Machine/Identity.lean ====
section
/-! DEFINITION. The identity key (R481 to R484): its signature index, its trees, its signatures; and the entropy source
(R480). -/

namespace Sys2Proof.Machine

/-- SIG_EXHAUSTED (R484). -/
def State.sigExhausted (s : State) : Bool := decide (2 ^ 30 ≤ s.sigIndex)
/-- The level-1 tree of the next index has been generated (R484). -/
def State.treeReady (s : State) : Bool := decide (s.sigIndex / 2 ^ 15 ≤ s.mram.tree)

/-- Consumes the next index: both copies hold q + 1 before the signature is computed (R482). -/
def State.spendIndex (s : State) : State := { s with mram.sigIndex := TwoCopy.both (s.sigIndex + 1) }

/-- Consumes the next index and releases its signature. -/
def State.takeIndex (s : State) : State := s.spendIndex.cntSec 0x100 1

/-- The signature of an index over a message: 3,284 bytes (R477, R479). -/
def idSignature (q : Nat) (msg : List Byte) : List Byte := (upTo 3284).map (Config.identitySignature q msg)

/-- The device certificate, 3,700 bytes (R481). -/
def State.certBytes (s : State) : List Byte := (upTo 3700).map fun i => s.part.certificate.getD i 0

/-- Bytes of one draw of the entropy source (R480). -/
def entropyBytes (n len : Nat) : List Byte := (upTo len).map (Config.entropy n)

/-- IDENTITY_TREE_READY (R484): the next level-1 tree is stored once q has come within 4,096 of it. -/
def execIdentityTreeReady (s : State) : Out :=
  if 2 ^ 15 * (s.mram.tree + 1) ≤ s.sigIndex + 4096 && decide (s.mram.tree + 1 < 2 ^ 15) && !(s.dev.mode matches .off | .aon) then
    .next { s with mram.tree := s.mram.tree + 1 }
  else .next s

/-- ENTROPY_HEALTH_TEST (R480): the repeated tests set or clear ENTROPY_OK. -/
def execEntropyHealthTest (passed : Bool) (s : State) : Out :=
  if s.dev.mode matches .off | .aon then .next s
  else .next { s with sec.entropyOk := passed, sec.entropyFail := s.sec.entropyFail || !passed }

end Sys2Proof.Machine
end

