-- ==== Sys2Proof/Machine/Qos.lean ====
section
/-! DEFINITION. Traffic classes, budgets and arbitration (R297 to R314). -/

namespace Sys2Proof.Machine

/-- The kind of a master (R300). -/
def masterKind (m : Nat) : Nat :=
  if m < 416 then 0 else if m < 424 then 1 else if m < 488 then 2 else if m < 506 then 3 else if m = 506 then 4 else 5

/-- Reset value of QOS_LIMIT of a kind, and the ceiling a commit checks (R313). -/
def limitReset (k : Nat) : Nat := [768, 768, 384, 444, 283, 96].getD k 0
def limitCeiling (k : Nat) : Nat := [6144, 6144, 3072, 3552, 2268, 768].getD k 0
/-- Reset value of QOS_TARGET of a class 4 to 7 (R313). -/
def targetReset (c : Nat) : Nat := [4096, 2048, 1024, 512].getD (c - 4) 0

/-- The limit in force of a kind and class, in bytes per window (R302). -/
def State.limit (s : State) (k c : Nat) : Nat := 256 * smGet (limitReset k) s.qos.limits (8 * k + c)
/-- The latency target in force of a class 4 to 7; 0 acts as 1. -/
def State.target (s : State) (c : Nat) : Nat := max 1 (smGet (targetReset c) s.qos.targets c)

/-! ## Budgets (R301 to R303, R307) -/

/-- The estimate E_c of a master (R307): the later of its last latency and the age of its oldest outstanding request. -/
def Master.estimate (m : Master) (c now : Nat) : Nat :=
  let last := smGet 0 m.lastLatency c
  match smGet [] m.outstanding c with
  | [] => last
  | t :: _ => max last (now - t.2)

/-- URGENCY from an estimate and a target (R307). -/
def urgencyOf (e target : Nat) : Nat :=
  if 2 * e < target then 0 else if 4 * e < 3 * target then 1 else if e < target then 2 else 3

/-- The mark that a grant of some bytes takes: DEMOTED, and URGENCY. -/
def State.mark (s : State) (m c bytes : Nat) : Bool × Nat :=
  let x := s.master m
  (decide (s.limit (masterKind m) c < smGet 0 x.used c + bytes),
    if c < 4 then 0 else urgencyOf (x.estimate c s.fabricNow) (s.target c))

/-- The packet header's bits [5:0] (R298): CLASS, DEMOTED and URGENCY. -/
def Hdr.bits (h : Hdr) : Nat := h.cls.toNat + (if h.demoted then 8 else 0) + 16 * h.urgency.toNat

/-- A grant is charged and marked (R302, R307): the header that the packet carries, under a number of its own. -/
def State.grant (s : State) (m c bytes : Nat) : Hdr × State :=
  let (dem, u) := s.mark m c bytes
  let x := s.master m
  let tag := s.qos.nextTag + 1
  let used := smSet 0 x.used c (smGet 0 x.used c + bytes)
  let x1 := if dem then { x with used := used, demoted := Counters.add x.demoted c bytes }
    else { x with used := used, granted := Counters.add x.granted c bytes }
  let s1 := s.setMaster m (if c < 4 then x1 else
    { x1 with urgency := smSet 0 x.urgency c u, outstanding := smSet [] x.outstanding c (smGet [] x.outstanding c ++ [(tag, s.fabricNow)]) })
  (⟨m, BitVec.ofNat 3 c, dem, BitVec.ofNat 2 u, tag⟩, { s1 with qos.nextTag := tag })

/-- A reply's data is written at the master (R307): the request it answers is complete. -/
def State.replied (s : State) (h : Hdr) : State :=
  let c := h.cls.toNat
  let x := s.master h.master
  let open_ := smGet [] x.outstanding c
  match open_.find? fun e => e.1 == h.tag with
  | none => s
  | some (_, t) =>
    let l := s.fabricNow - t
    s.setMaster h.master { x with
      outstanding := smSet [] x.outstanding c (open_.filter fun e => e.1 != h.tag), lastLatency := smSet 0 x.lastLatency c l,
      latMax := smSet 0 x.latMax c (min 0xFFFF (max l (smGet 0 x.latMax c))) }

/-- BANDWIDTH_WINDOW_START (R301, R314): the counters clear, and a pending commit takes effect. Windows run in READY. -/
def execBandwidthWindowStart (s : State) : Out :=
  if s.dev.mode ≠ .ready then .next s
  else
    let s2 := { s with qos.masters := smMapD Master.reset (fun _ m => { m with used := [] }) s.qos.masters }
    match s.qos.pending with
    | none => .next s2
    | some (ls, ts) =>
      .next { s2 with
        qos.limits := (upTo 48).foldl (fun t k => smSet (limitReset (k / 8)) t k (ls.getD k 0)) []
        qos.targets := (upTo 4).foldl (fun t k => smSet (targetReset (4 + k)) t (4 + k) (ts.getD k 0)) []
        qos.pending := none }

/-- The oldest request for a line that waits at a master's injection port in a class, and the others. -/
def takeInject (m : Nat) (c : BitVec 3) (l : BitVec 32) : List Inject → Option (Inject × List Inject)
  | [] => none
  | x :: xs =>
    if x.master = m && x.cls == c && x.line == l then some (x, xs)
    else match takeInject m c l xs with
      | none => none
      | some (y, ys) => some (y, x :: ys)

/-- INJECTION_GRANT (R302): a master's injection port grants the oldest request of a class for a line that waits there.
It is charged, and its packet enters the network with its header. -/
def execInjectionGrant (master : Fin 508) (cls : Fin 8) (line : BitVec 32) (s : State) : Out :=
  match takeInject master.val (BitVec.ofFin cls) line s.qos.inject with
  | none => .next s
  | some (x, rest) =>
    if s.dev.mode ≠ .ready then .next s
    else
      let (h, s1) := s.grant master.val cls.val x.bytes
      .next { s1 with qos.inject := rest, sole.net := s1.sole.net ++ [.request x.line ⟨x.req, h⟩] }

/-! ## Sources and labels (R297, R299, R300) -/

/-- Who makes an access that is made whole: its sender, master and class. -/
structure By where
  src : Sender
  master : Nat
  cls : Nat
  /-- The header of a message whose charge has been made. -/
  paid : Option Hdr
deriving DecidableEq, Repr

/-- CXL.mem accesses through BAR2 take the class of QOS_HOST_CLASS (R297). -/
def State.byHost (s : State) : By := ⟨.bar2, 506, s.reg (indKey 4 8) 3 % 8, none⟩
/-- DMA of a command ring takes the class of its descriptor. -/
def byRing (ring cls : Nat) : By := ⟨.dma (Fin.ofNat 64 ring), 424 + ring, cls % 8, none⟩
/-- The gather engine of a stack works in the class of the issuing group. -/
def byEngine (stack cls : Nat) : By := ⟨.engine (Fin.ofNat 8 stack), 416 + stack, cls % 8, none⟩
/-- Firmware takes class 6. -/
def byFirmware : By := ⟨.firmware, 507, 6, none⟩

/-- The header of an access of some bytes: of the message that it serves, or of a grant of its own. -/
def State.charged (s : State) (b : By) (bytes : Nat) : Hdr × State :=
  match b.paid with
  | some h => (h, s)
  | none => s.grant b.master b.cls bytes

/-! ## Arbitration (R304, R305) -/

/-- A message's header (R298, R299). -/
def NetMsg.hdr : NetMsg → Hdr
  | .request _ a => a.hdr
  | .recall _ _ _ h | .answer _ _ _ _ h | .fill _ _ _ _ _ h | .grant _ _ h | .ncData _ _ _ h | .ack _ _ h => h
/-- Replies travel on a virtual network of their own (R299). -/
def NetMsg.isReply : NetMsg → Bool
  | .request .. | .recall .. => false
  | .answer .. | .fill .. | .grant .. | .ncData .. | .ack .. => true

/-- The tile at the far end of a sender's messages. -/
def senderTile : Sender → Option Nat
  | .thread x => some x.tile.val
  | .l1 t => some t.val
  | _ => none
/-- The tile that a message comes from or goes to, and its line. -/
def NetMsg.tileLine : NetMsg → Option (Nat × Nat)
  | .request l a =>
    (match a.req with
      | .gets t _ | .getm t | .putm t _ _ => some t.val
      | .ncrd src _ | .ncwr src _ _ => senderTile src
      | .red q => senderTile q.src
      | _ => none).map fun t => (t, l.toNat)
  | .recall t l _ _ | .answer t l _ _ _ | .fill t l _ _ _ _ | .grant t l _ => some (t.val, l.toNat)
  | .ncData src l _ _ | .ack src l _ => (senderTile src).map fun t => (t, l.toNat)
/-- A message to a tile: it crosses the welt upward. -/
def NetMsg.goesUp : NetMsg → Bool
  | .request .. | .answer .. => false
  | .recall .. | .fill .. | .grant .. | .ncData .. | .ack .. => true

/-- The tier of a header (R304): 0 for A7, 1 for A, 2 for B, 3 for C. -/
def Hdr.tier (h : Hdr) : Nat := if h.demoted then 3 else if h.cls = 7 then 0 else if 4 ≤ h.cls.toNat then 1 else 2

/-- A packet at an arbitration point: what it carries, its header and how long it has waited. On the die a packet moves one
line at most, and so fewer than 2,048 payload bytes (R304). -/
structure Packet (α : Type) where
  msg : α
  hdr : Hdr
  age : Nat
deriving DecidableEq, Repr

def Packet.tier {α : Type} (p : Packet α) : Nat := p.hdr.tier

/-- The packets at some places of the network, the oldest place first. -/
def State.packets (s : State) (places : List Nat) : List (Packet NetMsg) :=
  places.filterMap fun n => s.sole.net[n]?.map fun m => ⟨m, m.hdr, s.sole.net.length - n⟩

/-- Which of two packets goes first within a tier. -/
def packetBefore {α : Type} (tier : Nat) (p q : Packet α) : Bool :=
  if tier = 1 then
    let u := p.hdr.urgency.toNat
    let v := q.hdr.urgency.toNat
    let c := p.hdr.cls.toNat
    let d := q.hdr.cls.toNat
    decide (v < u) || (u == v && (decide (d < c) || (c == d && decide (q.age < p.age))))
  else decide (q.age < p.age)

/-- The first packet of a list by an order. -/
def firstPacket {α : Type} (before : Packet α → Packet α → Bool) : List (Packet α) → Option (Packet α)
  | [] => none
  | p :: ps =>
    match firstPacket before ps with
    | none => some p
    | some q => if before q p then some q else some p

/-- Round robin over masters after the last one served: the next master's oldest packet. -/
def roundRobin {α : Type} (last : Nat) (ps : List (Packet α)) : Option (Packet α) :=
  let turn := fun (p : Packet α) => (p.hdr.master + 2 ^ 16 - (last + 1) % 2 ^ 16) % 2 ^ 16
  firstPacket (fun p q => decide (turn p < turn q) || (turn p == turn q && decide (q.age < p.age))) ps

/-- The packet that an arbitration point serves next (R304) under the protection rules (R305). -/
def ArbPoint.choose {α : Type} (a : ArbPoint) (ps : List (Packet α)) : Option (Packet α) :=
  let of := fun n => ps.filter (fun p => p.tier == n)
  let c := roundRobin a.lastMaster (of 3)
  match firstPacket (packetBefore 0) (of 0) with
  | some p => some p
  | none =>
    if c.isSome && decide (63 ≤ a.sinceC) then c
    else
      match firstPacket (packetBefore 1) (of 1), firstPacket (packetBefore 2) (of 2) with
      | some p, some q => if a.recent.length = 3 && a.recent.all id then some q else some p
      | some p, none => some p
      | none, some q => some q
      | none, none => c

/-- The point's memory after it grants one of the packets that wait at it. -/
def ArbPoint.served {α : Type} (a : ArbPoint) (p : Packet α) (ps : List (Packet α)) : ArbPoint :=
  { recent := if p.tier = 1 || p.tier = 2 then ((p.tier == 1) :: a.recent).take 3 else a.recent
    sinceC := if p.tier = 3 || !ps.any (fun q => q.tier == 3) then 0 else a.sinceC + 1
    lastMaster := if p.tier = 3 then p.hdr.master else a.lastMaster }

/-- ARBITRATION_GRANT (R304, R305): a point chooses among the packets of the network that wait at it. Bit 0 of its number
names the virtual network it serves: replies, or requests (R299; log entry 180). -/
def execArbitrationGrant (point : BitVec 32) (waiting : List Nat) (s : State) : Out :=
  let a := smGet ArbPoint.reset s.qos.points point.toNat
  let ps := (s.packets waiting).filter fun p => p.msg.isReply == point.getLsbD 0
  match a.choose ps with
  | none => .next s
  | some p => .next { s with qos.points := smSet ArbPoint.reset s.qos.points point.toNat (a.served p ps), qos.chosen := some p.msg }

/-! ## Commits (R314) -/

/-- The staged limits and targets, in the registers of the QOS_ space. -/
def State.stagedLimit (s : State) (k c : Nat) : Nat := s.reg (indKey 4 (0x100 + 0x20 * k + 4 * c)) (limitReset k) % 65536
def State.stagedTarget (s : State) (c : Nat) : Nat := s.reg (indKey 4 (0x10 + 4 * (c - 4))) (targetReset c) % 65536

/-- The kinds whose staged limits exceed their ceiling, ascending. -/
def State.overKinds (s : State) : List Nat :=
  (upTo 6).filter fun k => decide (limitCeiling k < ((upTo 8).map (s.stagedLimit k)).foldl (· + ·) 0)

/-- A commit (R314): the staged values are checked and pend, or are refused. -/
def State.qosCommit (s : State) (v : Word) : State :=
  if !v.getLsbD 0 then s
  else
    match s.overKinds with
    | k :: _ => { s with qos.refused := true, qos.kind := k }
    | [] =>
      let ls := (upTo 48).map fun n => s.stagedLimit (n / 8) (n % 8)
      { s with qos.pending := some (ls, (upTo 4).map fun n => s.stagedTarget (4 + n)), qos.refused := false, qos.kind := 0 }

/-- QOS_STATUS (R313). -/
def State.qosStatus (s : State) : Nat :=
  (if s.qos.pending.isSome then 1 else 0) + (if s.qos.refused then 2 else 0) + 4 * s.qos.kind

end Sys2Proof.Machine
end

