-- ==== Sys2Proof/Machine/Message.lean ====
section
/-! DEFINITION. Trerik messages (R371 to R380): their fields, check value and flits, the route tables, and the sending of a
message that originates at this device. -/

namespace Sys2Proof.Machine

/-! ## Fields (R377) -/

def msgField (m : Message) (off n : Nat) : Nat := m.header.toNat / 2 ^ (8 * off) % 2 ^ (8 * n)
def msgSrc (m : Message) : Nat := msgField m 0 2
def msgDst (m : Message) : Nat := msgField m 2 2
def msgOp (m : Message) : Nat := msgField m 4 1
def msgQos (m : Message) : Nat := msgField m 5 1
def msgLength (m : Message) : Nat := msgField m 6 2
def msgJob (m : Message) : Nat := msgField m 8 4
def msgSeq (m : Message) : Nat := msgField m 0xC 4
def msgAddr (m : Message) : Nat := msgField m 0x10 5
def msgHops (m : Message) : Nat := msgField m 0x15 1
def msgTag (m : Message) : Nat := msgField m 0x16 2
def msgRed (m : Message) : Nat := msgField m 0x18 1
def msgReason (m : Message) : Nat := msgField m 0x19 1
def msgRlen (m : Message) : Nat := msgField m 0x1A 2
def msgOrdered (m : Message) : Bool := msgQos m / 64 % 2 == 1
def msgFlowStart (m : Message) : Bool := msgQos m / 128 % 2 == 1
def msgIsRequest (m : Message) : Bool := msgOp m < 3

/-- What a message says, apart from its SEQ, FLOW_START and check value. -/
structure Draft where
  src : Nat
  dst : Nat
  op : Nat
  /-- CLASS, DEMOTED and URGENCY (R298). -/
  label : Nat
  ordered : Bool
  job : Nat
  addr : Nat
  tag : Nat
  red : Nat
  reason : Nat
  rlen : Nat
  data : List Byte
deriving DecidableEq, Repr

/-- The 32 header bytes. -/
def Draft.header (d : Draft) (seq : Nat) (start : Bool) (hops : Nat) : List Byte :=
  natToBytes 2 d.src ++ natToBytes 2 d.dst ++ natToBytes 1 d.op ++
  natToBytes 1 (d.label % 64 + (if d.ordered then 64 else 0) + (if start then 128 else 0)) ++ natToBytes 2 d.data.length ++
  natToBytes 4 d.job ++ natToBytes 4 seq ++ natToBytes 5 d.addr ++ natToBytes 1 hops ++ natToBytes 2 d.tag ++
  natToBytes 1 d.red ++ natToBytes 1 d.reason ++ natToBytes 2 d.rlen ++ natToBytes 4 0

/-- The bytes of the check (R379): the fold word with a destination, the header with HOPS read as 0, the data. -/
def checkBytes (src dst seq header : Nat) (data : List Byte) : List Byte :=
  let hops := header / 2 ^ (8 * 0x15) % 256
  natToBytes 8 (src + 2 ^ 16 * dst + 2 ^ 32 * seq) ++ natToBytes 32 (header - hops * 2 ^ (8 * 0x15)) ++ data

/-- The check value with a destination folded in. -/
def msgCheck (dst : Nat) (header : Nat) (data : List Byte) : Nat :=
  crc64 (checkBytes (header % 2 ^ 16) dst (header / 2 ^ 96 % 2 ^ 32) header data)

/-- A message that passes the check at a device of an ID (R379). -/
def msgIntact (own : Nat) (m : Message) : Bool :=
  decide (m.check.toNat = msgCheck own m.header.toNat m.data) && decide (m.data.length = msgLength m)

/-- HOPS decremented (R374). -/
def msgHopped (m : Message) : Message := { m with header := m.header - BitVec.ofNat 256 (2 ^ (8 * 0x15)) }

/-- The whole message as bytes. -/
def msgBytes (m : Message) : List Byte := natToBytes 32 m.header.toNat ++ m.data ++ natToBytes 8 m.check.toNat

/-- A message from its bytes. -/
def msgParse (bs : List Byte) : Message :=
  let n := bs.length - 40
  ⟨BitVec.ofNat 256 (bytesToNat (bs.take 32)), (bs.drop 32).take n, BitVec.ofNat 64 (bytesToNat (bs.drop (32 + n)))⟩

/-- The virtual channel of a message (R364, R376). -/
def msgVc (m : Message) : Nat :=
  let reply := if msgOp m = 3 || msgOp m = 4 || msgOp m = 5 then 2 else 0
  reply + (if msgOrdered m then 0 else 1)

/-- The flits of a message (R377): 224 payload bytes each, SOM first and EOM last. -/
def flitsOf (ftype vc : Nat) : Bool → List (List Byte) → List Flit
  | _, [] => []
  | first, [b] => [⟨ftype, vc, first, true, b.length, BitVec.ofNat 1792 (bytesToNat b)⟩]
  | first, b :: bs => ⟨ftype, vc, first, false, b.length, BitVec.ofNat 1792 (bytesToNat b)⟩ :: flitsOf ftype vc false bs
/-- The payloads that some bytes fill. -/
def payloads (bs : List Byte) : List (List Byte) := chunks 224 ((bs.length + 223) / 224) bs
def msgFlits (m : Message) : List Flit := flitsOf 1 (msgVc m) true (payloads (msgBytes m))
/-- The KEY flits of bytes sent on channel 4 (R363, R364). -/
def keyFlits (bs : List Byte) : List Flit := flitsOf 3 4 true (payloads bs)

/-! ## Routes (R371 to R373) -/

/-- The device's fabric ID, as this bring-up's port training took it from MRAM (R371). -/
def State.fabricId (s : State) : Nat := s.fabric.ownId.toNat
/-- An unassigned device (R371). -/
def State.unassigned (s : State) : Bool := s.fabricId = 0xFFFF || s.fabricId % 256 = 0xFF

def State.groupEntry (s : State) (n : Nat) : RouteEntry := smGet RouteEntry.none s.mram.groupTable n
def State.memberEntry (s : State) (n : Nat) : RouteEntry := smGet RouteEntry.none s.mram.memberTable n

/-- The entry that a destination selects (R372). -/
def State.routeOf (s : State) (dst : Nat) : RouteEntry :=
  if dst / 256 ≠ s.fabricId / 256 then s.groupEntry (dst / 256) else s.memberEntry (dst % 256)

/-- In service: WORKING or DEGRADED, trained and up (R372). -/
def State.portServes (s : State) (p : Nat) : Bool := p < 18 && (s.plan.get .port p).inService && ((s.port p).up || (s.port p).retraining)

def RouteEntry.hops (e : RouteEntry) : List Nat := [e.hop0.toNat, e.hop1.toNat, e.hop2.toNat, e.hop3.toNat]

/-- Flits queued on a channel of a port. -/
def State.queued (s : State) (p vc : Nat) : Nat := ((s.port p).queue.filter (fun f => f.vc == vc)).length

/-- The listed port with the fewest flits queued on a channel, the earlier on a tie. -/
def State.leastQueued (s : State) (vc : Nat) : List Nat → Option Nat
  | [] => none
  | p :: ps =>
    match s.leastQueued vc ps with
    | none => some p
    | some q => if s.queued q vc < s.queued p vc then some q else some p

/-- The hop a message takes (R372, R373): an ordered pair keeps its port while that port retrains; an unordered message
takes the usable hop with the fewest flits queued. -/
def State.nextHop (s : State) (src dst vc : Nat) (ordered : Bool) : Option Nat :=
  let hops := (s.routeOf dst).hops.filter (fun p => p != 0x1F && s.portServes p)
  let key := src ^^^ (dst % 256 * 256 + dst / 256 % 256)
  if ordered then
    if hops.isEmpty then none else some (hops.getD (((key % 256) ^^^ (key / 256 % 256)) % hops.length) 0)
  else s.leastQueued vc (hops.filter (fun p => !(s.port p).retraining))

/-- Queues a message's flits at a port. -/
def State.enqueue (s : State) (p : Nat) (m : Message) : State := s.updPort p fun x => { x with queue := x.queue ++ msgFlits m }

/-! ## Sending -/

/-- The SEQ that the next message on a counter takes, and whether it starts the flow (R380). -/
def State.takeSeq (s : State) (dst : Nat) (ordered : Bool) : Nat × Bool × State :=
  let k := 2 * dst + (if ordered then 0 else 1)
  let n := smGet 0 s.fabric.nextSeq k
  (n, !smHas s.fabric.nextSeq k, { s with fabric.nextSeq := smPut s.fabric.nextSeq k ((n + 1) % 2 ^ 32) })

/-- The finished message of a draft. -/
def Draft.finish (d : Draft) (seq : Nat) (start : Bool) : Message :=
  let h := bytesToNat (d.header seq start 32)
  ⟨BitVec.ofNat 256 h, d.data, BitVec.ofNat 64 (msgCheck d.dst h d.data)⟩

/-- Sends a message that originates here; none where no hop is usable (R372). -/
def State.sendDraft (s : State) (d : Draft) : Option State :=
  let (q, st, s1) := s.takeSeq d.dst d.ordered
  let m := d.finish q st
  match s.nextHop d.src d.dst (msgVc m) d.ordered with
  | none => none
  | some p => some (s1.enqueue p m)

/-- The ports of a broadcast mask, ascending, but the port of arrival. -/
def RouteEntry.ports (e : RouteEntry) (arrival : Option Nat) : List Nat :=
  (upTo 18).filter (fun p => e.mask.getLsbD p && some p != arrival)

/-- Forwards a BCAST message on its mask (R382). -/
def State.spread (s : State) (m : Message) (arrival : Option Nat) : State :=
  (((s.routeOf (msgDst m)).ports arrival).filter (fun p => s.portServes p && !(s.port p).retraining)).foldl (fun t p => t.enqueue p m) s

end Sys2Proof.Machine
end

