-- ==== Sys2Proof/Machine/Modes.lean ====
section
/-! DEFINITION. Entering and leaving the device states of R6: what each entry sets, clears and logs (R322, R427, R448, R467). -/

namespace Sys2Proof.Machine

/-! ## Requests that do not outlive a state -/

/-- A POWER entry of a transition (R453, R503): 0 input high, 1 posted, 2 enforced, 3 cleared, 4 fast limit start, 5 end. -/
def State.auditPower (s : State) (what : Nat) : State := s.auditFw 0x14 0 (natToBytes 1 what)

/-- The power request, ENFORCED and FAST clear, and the setting returns to 27 (R448). -/
def State.powerClear (s : State) : State :=
  let s1 := if s.pwr.fast then s.auditPower 5 else s
  let s2 := if s.pwr.active || s.pwr.enforced then s1.auditPower 3 else s1
  { s2 with
    pwr.active := false, pwr.judged := false, pwr.enforced := false, pwr.fast := false, pwr.setting := 27, pwr.target := 0, pwr.requestAt := 0
    pwr.coolRun := 0, pwr.fastRun := 0, pwr.windowSum := 0, pwr.windowCount := 0, pwr.windows := 0, pwr.windowStart := 27, pwr.lastOver := false }

/-- A THERMAL entry (R473, R503): 0 posted, 1 enforced, 2 cleared, with the stack and a reading; 3 a broken sensor, with its
die code and number. -/
def State.auditThermal (s : State) (what a : Nat) (b : Int) : State :=
  s.auditFw 0x15 0 (natToBytes 1 what ++ natToBytes 1 a ++ natToBytes 2 (b % 65536).toNat)

/-- The thermal request and ENFORCED clear and every setting returns to 27 (R467, R472). -/
def State.thermalClear (s : State) : State :=
  let s1 := if s.thm.active || s.thm.enforced then s.auditThermal 2 0xFF s.thm.hottest else s
  { s1 with
    thm.active := false, thm.judged := false, thm.enforced := false, thm.target := 0, thm.requestAt := 0, thm.standing := 0, thm.settings := []
    thm.cool := [] }

/-! ## Entering a state -/

/-- Enters a state with its CAUSE: what does not outlive the state left clears, leaving READY ends every job (R348), and an
entry to LIMP, HELD or SHUTDOWN is logged. -/
def State.enter (s : State) (m : Mode) (cause : Nat) : State :=
  let s1 := if s.dev.mode = .ready && m != .ready then
      (s.endJobs (fun _ _ => true) fun v => JobEnd.plain 0x0A s.aon v.image.stackBits).powerClear
    else s
  let s2 := { s1 with dev.mode := m, dev.cause := BitVec.ofNat 8 cause }
  let s3 := match m with
    | .limp | .held | .shutdown => s2.auditFw 9 0 (natToBytes 1 m.code ++ natToBytes 1 cause)
    | _ => s2
  match m with
  | .aon | .boot | .limp | .shutdown => s3.thermalClear
  | _ => s3

/-- Entry to CHECK (R409, R476): the last in force is captured, and MR5 is extended with its digest. -/
def State.enterCheck (s : State) : State :=
  let last := s.lastTable.map LastTable.bytes
  let d := match last with | some b => sha256 b | none => List.replicate 32 0
  let s1 := (s.enter .check 0).extendMr 5 d
  { s1 with dev.last := last, dev.step := .compare, dev.portsTrained := true }

/-- A firmware floor rises to the running version (R420), which is logged. -/
def State.raiseFloor (s : State) (dfw : Bool) (version : Word) : State :=
  let f := s.floors
  let old := if dfw then f.dfw else f.mfw
  if version.toNat ≤ old.toNat then s
  else
    { s.auditFw 6 0 (natToBytes 1 (if dfw then 2 else 1) ++ natToBytes 4 version.toNat) with
      mram.floors := TwoCopy.both (if dfw then { f with dfw := version } else { f with mfw := version }) }

/-- Entry to READY: CAUSE clears (R322), floors rise (R420), the power setting stands at 27 (R448), the windows that run from
this entry begin (R215, R227, R366), and message counters start anew (R380). -/
def State.enterReady (s : State) : State :=
  let s1 := ((s.enter .ready 0).raiseFloor false s.dev.mfwVersion).raiseFloor true s.dev.dfwVersion
  let s2 := s1.powerClear
  { s2 with
    dev.step := .idle, dev.entered := true, dev.slip := none, dcClock := true
    fabric.nextSeq := []
    fabric.ports := smMapD FabPort.reset (fun _ x => { x with window := 0 }) s2.fabric.ports
    welt.chans := smMapD WeltChan.reset
      (fun _ x => { x with up := { x.up with window := 0 }, down := { x.down with window := 0 } }) s2.welt.chans
    sole.slices := smMapD Slice.reset (fun _ x => { x with lookups := 0, misses := 0 }) s2.sole.slices
    qos.masters := smMapD Master.reset (fun _ m => { m with used := [] }) s2.qos.masters }

/-- Entry to HELD (R6, R406, R411). -/
def State.enterHeld (s : State) (cause : Nat) : State :=
  let s1 := (s.enter .held cause)
  { s1 with dev.step := .idle, dev.slip := none }

end Sys2Proof.Machine
end

