-- ==== Sys2Proof/Machine/Link.lean ====
section
/-! DEFINITION. The ports of the Trerik fabric (R356 to R370, R384): training, link keys, flits and the link layer; the awl
(R386, R387) and the FAB registers that commands write (R388). -/

namespace Sys2Proof.Machine

/-! ## Registers of the FAB block -/

def State.fabSel (s : State) : Nat := s.reg 0x6008 0 % 32
/-- The key of a register of a port (R388: offsets 0x100 and above belong to the selected port). -/
def fabKey (p off : Nat) : Nat := 2 ^ 24 * (p + 1) + off
def State.errLevel (s : State) : Nat := s.reg 0x6010 0x40 % 65536

/-! ## Floor plan and keys of a port -/

/-- ORIGIN of a floor-plan change in the present state (R32): of the bring-up that runs, or an in-service change. -/
def State.planOrigin (s : State) : Nat :=
  match s.dev.mode with
  | .bringup | .check | .boot => if s.dev.slip.isSome then 1 else 0
  | _ => 2

/-- The port's entry takes a new value (R362): a floor-plan change, and an audit entry of origin firmware. -/
def State.setPortEntry (s : State) (p : Nat) (e : UnitEntry) : State :=
  if s.plan.get .port p = e then s
  else
    (s.changePlan (s.plan.set .port p e) s.planOrigin).auditFw 0x13 0
      (natToBytes 1 p ++ [e.state] ++ natToBytes 1 (e.detail.toNat % 16))

/-- The entry of a trained port of a width, and of one that did not train (R358, R359). -/
def portEntryOf (w : Nat) : UnitEntry := if w = 8 then ⟨0, 0, 8⟩ else ⟨1, 8, BitVec.ofNat 16 w⟩
def UnitEntry.portDown : UnitEntry := ⟨4, 8, 0⟩

/-- The two direction keys, sent and received, of an exchange (R367): the end with the lower serial is the initiator. -/
def linkKeys (n : Nat) (own far : Dword) (epoch : Word) : BitVec 256 × BitVec 256 :=
  let mine := entropyBytes n 32
  let theirs := (upTo 32).map (Config.linkSecret n)
  let ss := (upTo 32).map fun i => Config.linkSecret n (32 + i)
  let first := decide (own.toNat < far.toNat)
  let salt := if first then mine ++ theirs else theirs ++ mine
  let serials := if first then natToBytes 8 own.toNat ++ natToBytes 8 far.toNat else natToBytes 8 far.toNat ++ natToBytes 8 own.toNat
  let label : List Byte := [0x54, 0x52, 0x45, 0x52, 0x49, 0x4B, 0x2D, 0x4C, 0x49, 0x4E, 0x4B]
  let okm := hkdf salt ss (label ++ serials ++ natToBytes 4 epoch.toNat) 64
  let a := digestBits (okm.take 32)
  let b := digestBits (okm.drop 32)
  if first then (a, b) else (b, a)

/-- What this end signs (R367): the initiator its encapsulation key, the responder its ciphertext; and its nonce. -/
def linkOffer (n : Nat) (first : Bool) : List Byte :=
  (upTo 1568).map (if first then Config.encapsKey n else fun i => Config.linkSecret n (64 + i)) ++ entropyBytes n 32

/-- The LINK_KEY entry: port, neighbour serial, epoch, and 1 for a failure (R503). -/
def State.auditLink (s : State) (p : Nat) (serial : Dword) (epoch : Word) (fail : Bool) : State :=
  s.auditFw 0x0C 0 (natToBytes 1 p ++ natToBytes 8 serial.toNat ++ natToBytes 4 epoch.toNat ++ [if fail then 1 else 0])

/-- How a link-key exchange ends: it waits for the identity key's next tree (R484), fails, or gives keys. -/
inductive Exchange where
  | waits
  | failed (s : State)
  | keyed (s : State) (tx rx : BitVec 256) (epoch : Word)

/-- A link-key exchange (R367, R480, R484, R499), its messages sent by `send`. The initiator signs and sends before it verifies
what the other end sends; a responder that cannot verify sends nothing. -/
def State.exchange (s : State) (p : Nat) (serial : Dword) (authOk : Bool) (send : List Byte → State → State) : Exchange :=
  let epoch := (s.port p).epoch + 1
  let fail := fun (t : State) => Exchange.failed ((t.cntPort p 0x248 1).auditLink p serial epoch true)
  let first := decide (s.part.serial.toNat < serial.toNat)
  let ok := authOk && (s.policy.peers.isEmpty || s.policy.peers.contains serial)
  if !s.sec.entropyOk || s.sigExhausted then fail s
  else if !s.treeReady then .waits
  else if !first && !ok then fail s.takeIndex
  else
    let (n, s1) := s.takeIndex.draw
    let m := linkOffer n first
    let s2 := send (m ++ idSignature s.sigIndex m) s1
    if ok then
      let (tx, rx) := linkKeys n s.part.serial serial epoch
      .keyed (s2.auditLink p serial epoch false) tx rx epoch
    else fail s2

/-! ## Flits (R363, R364, R368) -/

/-- The 12 header bytes, and the port after the credits and the NAK that they carry. -/
def FabPort.head (x : FabPort) (ftype vcByte : Nat) (lseq : BitVec 16) (len : Nat) : List Byte × FabPort :=
  let (vc, n) := match x.owed with | [] => (0, 0) | (k, v) :: _ => (k, min v 255)
  (natToBytes 1 ftype ++ natToBytes 1 vcByte ++ natToBytes 2 lseq.toNat ++ natToBytes 2 x.expectLseq.toNat ++
    natToBytes 1 (vc + (if x.nakOwed then 128 else 0)) ++ natToBytes 1 n ++ natToBytes 2 len ++ natToBytes 2 0,
   { x with nakOwed := false, owed := smSet 0 x.owed vc (smGet 0 x.owed vc - n) })

/-- The 256 bytes of a flit from its header, payload and tag. -/
def flitBytes (head body tag : List Byte) : BitVec 2048 :=
  let b := head ++ body ++ tag
  BitVec.ofNat 2048 (bytesToNat (b ++ natToBytes 4 (crc32c b)))

/-- The GCM nonce of a DATA flit (R368). -/
def flitNonce (epoch : Word) (count : Nat) : List Byte := natToBytes 8 count ++ natToBytes 4 epoch.toNat

/-- A new flit takes the next LSEQ, is sealed where it is a DATA flit, uses a credit, and is kept for replay. -/
def FabPort.form (x : FabPort) (f : Flit) : BitVec 2048 × FabPort :=
  let vcb := f.vc + (if f.som then 8 else 0) + (if f.eom then 16 else 0) + (if x.txPhase then 32 else 0)
  let (h, y) := x.head f.ftype vcb x.nextLseq f.length
  let plain := natToBytes 224 f.payload.toNat
  let (body, tag) := if f.ftype = 3 then (plain, List.replicate 16 0)
    else gcmSeal (digestBytes x.txKey) (flitNonce x.epoch x.txCount) h plain
  let b := flitBytes h body tag
  (b, { y with
    credits := smSet 0 y.credits f.vc (smGet 0 y.credits f.vc - 1), nextLseq := x.nextLseq + 1
    txCount := if f.ftype = 3 then x.txCount else x.txCount + 1, replay := y.replay ++ [(x.nextLseq, b)] })

/-! ## Training -/

/-- The width that a count of usable lanes gives (R359). -/
def widthOf (n : Nat) : Nat := if 8 ≤ n then 8 else if 4 ≤ n then 4 else if 2 ≤ n then 2 else if 1 ≤ n then 1 else 0
def laneList (m : BitVec 8) : List Nat := (upTo 8).filter (fun i => m.getLsbD i)
def lanesMask (ls : List Nat) : BitVec 8 := BitVec.ofNat 8 (ls.foldl (fun m i => m + 2 ^ i) 0)

/-- Credits at link start (R364). -/
def creditStart : SMap Nat := [(0, 256), (1, 256), (2, 256), (3, 256), (4, 16)]

/-- A check-value unit as its port holds it: SERVICE, CRC-64, reset (R379, R397, R400). -/
def Cvu.forPort (u : Cvu) : Cvu := ({ u with poly := 2, readout := false }).fresh
def State.resetPortUnits (s : State) (p : Nat) : State :=
  (s.setCvu (2 * p) (s.cvu (2 * p)).forPort).setCvu (2 * p + 1) (s.cvu (2 * p + 1)).forPort

/-- Steps 4 and 6 of an attempt: the usable lanes and the neighbour record (R359, R360). -/
def FabPort.record (x : FabPort) (far : FarEnd) : FabPort :=
  { x with
    usable := far.nearLanes &&& far.farLanes, width := 0, lanes := 0, neighbourValid := true
    neighbourId := far.fabricId, neighbourPort := far.nport, neighbourSerial := far.serial }

/-- The width and the lanes of a trained port (R359). -/
def FabPort.widen (x : FabPort) : FabPort :=
  let w := widthOf (laneList x.usable).length
  { x with width := w, lanes := lanesMask ((laneList x.usable).take w) }

/-- A link layer that starts anew (R358 step 5, R361): sequence 0, full credit, buffers empty. -/
def FabPort.fresh (x : FabPort) : FabPort :=
  { x with
    txPhase := false, nextLseq := 0, expectLseq := 0, nakOwed := false, nakFrom := none, replay := [], queue := []
    arb := ArbPoint.reset, credits := creditStart, owed := [], partialMsg := [], fails := 0, awl := { x.awl with held := none } }

/-- A port in service under new keys (R358 step 8): what has crossed in the exchange is acknowledged. -/
def FabPort.keyed (x : FabPort) (tx rx : BitVec 256) (epoch : Word) : FabPort :=
  { x with
    up := true, retraining := false, needKeys := false, epoch := epoch, rxEpoch := epoch, txPhase := false
    rxPhase := false, txKey := tx, rxKey := rx, rxNext := none, txCount := 0, rxCount := 0, renewalFailed := false
    replay := [], credits := creditStart }

/-- A port out of service: it drives nothing and holds nothing (R384); its counters, its neighbour record and its epoch
stay. -/
def FabPort.stop (x : FabPort) : FabPort :=
  { x.fresh.keyed 0 0 x.epoch with up := false, width := 0, lanes := 0, credits := [], inbox := [], window := 0 }

def State.clearAttempts (s : State) (p : Nat) : State := { s with dev.attempts := smErase s.dev.attempts p }

/-- The port enters the floor plan as DOWN (R358, R384). -/
def State.portDown (s : State) (p : Nat) : State :=
  ((s.updPort p FabPort.stop).clearAttempts p).setPortEntry p UnitEntry.portDown

/-- An attempt failed; the third takes the port DOWN (R358). -/
def State.attemptFailed (s : State) (p : Nat) : State :=
  let n := smGet 0 s.dev.attempts p + 1
  let s1 := if n < 3 then s else s.portDown p
  { s1 with dev.attempts := smSet 0 s1.dev.attempts p n }

/-- The oldest unacknowledged flits are sent again (R361, R365). -/
def State.resend (s : State) (p n : Nat) : State :=
  let x := s.port p
  let rest := x.replay.drop n
  let s1 := s.setPort p { x with
    replay := rest, nakFrom := none, line := match rest.getLast? with | some e => some e.2 | none => x.line }
  if rest.isEmpty then s1 else (s1.cntPort p 0x228 1).cntPort p 0x200 rest.length

/-- KEY flits of a training go out in their order, and are acknowledged as they arrive (R364, R367). -/
def State.sendKeys (s : State) (p : Nat) (bs : List Byte) : State :=
  (keyFlits bs).foldl (fun (t : State) f =>
    let (b, y) := (t.port p).form f
    (t.setPort p { y with replay := [], credits := creditStart, line := some b }).cntPort p 0x200 1) s

/-- KEY flits that arrive in a training: they take LSEQ and count as received. -/
def State.takeKeys (s : State) (p n : Nat) : State :=
  (s.updPort p fun x => { x with expectLseq := x.expectLseq + BitVec.ofNat 16 n }).cntPort p 0x208 n

/-- What this device sends in step 6 (R360): its serial, its fabric ID and its port number. -/
def State.identity (s : State) (p : Nat) : List Byte :=
  natToBytes 8 s.part.serial.toNat ++ natToBytes 2 s.fabric.ownId.toNat ++ natToBytes 1 p

/-- Steps 5 and 6 of a training that starts the link anew (R360): each end sends its identity in one KEY flit. -/
def State.introduce (s : State) (p : Nat) (far : FarEnd) : State :=
  (((s.updPort p fun x => { (x.record far).fresh with needKeys := true }).sendKeys p (s.identity p)).takeKeys p 1)

/-- A retrain that keeps its link (R361): the replay from the oldest unacknowledged flit, and after it the identity of step 6
in the next KEY flit, where the replay buffer and the credit have room for it. -/
def State.resume (s : State) (p : Nat) (far : FarEnd) : State :=
  let s1 := (s.updPort p fun x => { (x.record far).widen with retraining := false, fails := 0 }).resend p 0
  let x := s1.port p
  match keyFlits (s.identity p) with
  | f :: _ =>
    if decide (x.replay.length < 1024) && decide (0 < smGet 0 x.credits 4) then
      let (b, y) := x.form f
      (s1.setPort p { y with line := some b }).cntPort p 0x200 1
    else s1
  | [] => s1

/-- KEY flits of the other end's certificate and signed message (R367, R499): 17 and 22. -/
def farKeyFlits : Nat := 39

/-- Step 7 (R367, R499): the certificate goes ahead of the signed message. -/
def State.exchangeNew (s : State) (p : Nat) (far : FarEnd) : Exchange :=
  let first := decide (s.part.serial.toNat < far.serial.toNat)
  let send := fun (bs : List Byte) (t : State) =>
    let t1 := (if first then t else t.takeKeys p farKeyFlits).sendKeys p t.certBytes
    let t2 := t1.sendKeys p bs
    if first then t2.takeKeys p farKeyFlits else t2
  s.exchange p far.serial far.authOk send

/-- What one attempt at training comes to. -/
inductive Attempt where
  | waits
  | failed (s : State)
  | trained (s : State)

/-- One attempt (R358 to R361, R367): `keep` says that the link layer and keys are kept when the neighbour is the same one.
A neighbour with the device's own serial fails the attempt. -/
def State.attempt (s : State) (p : Nat) (far : FarEnd) (keep : Bool) : Attempt :=
  let use := far.nearLanes &&& far.farLanes
  if !far.inTime || use == 0 then .failed (s.updPort p fun x => { x with usable := use, width := 0, lanes := 0 })
  else
    let old := s.port p
    if keep && old.neighbourValid && old.neighbourSerial == far.serial && far.serial != s.part.serial then .trained (s.resume p far)
    else
      let s1 := s.introduce p far
      if far.serial = s.part.serial then .failed s1
      else
        match s1.exchangeNew p far with
        | .waits => .waits
        | .failed s2 => .failed s2
        | .keyed s2 tx rx e => .trained (s2.updPort p fun x => x.widen.keyed tx rx e)

/-- A trained port is in service: its units pass to it and its entry takes its width (R359, R362, R397). -/
def State.portTrained (s : State) (p : Nat) : State :=
  ((s.resetPortUnits p).clearAttempts p).setPortEntry p (portEntryOf (s.port p).width)

/-- A port whose training the bring-up has still to do (R357, R358). -/
def State.portTrains (s : State) (p : Nat) : Bool :=
  (s.dev.mode matches .bringup) &&
  ((s.dev.step matches .ports) || ((s.dev.step matches .slip) && (match s.dev.slip with | some x => x.warm | none => false))) &&
  s.portLicensed p && !(s.plan.get .port p).isDisabled && !(s.port p).up && smGet 0 s.dev.attempts p < 3

/-- Step 7 ends once no port has a training to do: the device enters CHECK (R402, R415). -/
def State.portsDone (s : State) : State :=
  if (s.dev.mode matches .bringup) && (s.dev.step matches .ports) && !(upTo 18).any s.portTrains then s.enterCheck else s

/-- The outcome of an attempt at a port that trains or retrains. -/
def State.afterAttempt (s : State) (p : Nat) (far : FarEnd) (a : Attempt) : State :=
  match a with
  | .waits => s
  | .trained s1 => s1.portTrained p
  | .failed s1 =>
    if far.serial = s.part.serial && far.inTime && far.nearLanes &&& far.farLanes != 0 then
      let s2 := s1.portDown p
      { s2 with dev.attempts := smSet 0 s2.dev.attempts p 3 }
    else
      let s2 := s1.attemptFailed p
      if far.inTime then s2 else s2.updPort p fun x => { x with needKeys := x.retraining }

/-- PORT_TRAINING (R358): an attempt of a port that trains in a bring-up, or that retrains in service (R361). -/
def execPortTraining (port : Fin 18) (far : FarEnd) (s : State) : Out :=
  let p := port.val
  if (s.port p).retraining then .next (s.afterAttempt p far (s.attempt p far (!(s.port p).needKeys)))
  else if s.portTrains p then .next (s.afterAttempt p far (s.attempt p far false)).portsDone
  else .next s

/-- TRAINING_ATTEMPT_TIMEOUT (R358, R361): an attempt over its limit has failed; a retrain that lasts over 100 ms needs new
keys. -/
def execTrainingAttemptTimeout (port : Fin 18) (s : State) : Out :=
  let p := port.val
  if (s.port p).retraining then .next ((s.updPort p fun x => { x with needKeys := true }).attemptFailed p)
  else if s.portTrains p then .next (s.attemptFailed p).portsDone
  else .next s

/-- An in-service retrain starts (R361, R400): only in READY, on a port in service. -/
def State.startRetrain (s : State) (p : Nat) (keys : Bool) : State :=
  let x := s.port p
  if !(s.dev.mode matches .ready) || !x.up then s
  else if x.retraining then s.setPort p { x with needKeys := x.needKeys || keys }
  else
    let s1 := s.setPort p { x with retraining := true, needKeys := keys, fails := 0, nakFrom := none }
    ((s1.clearAttempts p).resetPortUnits p).cntPort p 0x230 1

/-- DOWN_PORT_ATTEMPT (R361): a DOWN port's periodic attempt in READY; one that fails leaves it DOWN. -/
def execDownPortAttempt (port : Fin 18) (far : FarEnd) (s : State) : Out :=
  let p := port.val
  if (s.dev.mode matches .ready) && s.portLicensed p && (s.plan.get .port p).state == 4 && !(s.port p).up then
    match (s.cntPort p 0x230 1).attempt p far false with
    | .waits => .next s
    | .failed s1 => .next (s1.updPort p FabPort.stop)
    | .trained s1 => .next (s1.portTrained p)
  else .next s

/-- PORT_SIGNAL_LOSS (R384): the port of a neighbour that stops signalling goes down. -/
def execPortSignalLoss (port : Fin 18) (s : State) : Out :=
  if (s.port port.val).up then .next (s.portDown port.val) else .next s

/-! ## Key renewal (R370) -/

/-- KEY flits of a renewal wait on channel 4 (R364, R370). -/
def State.queueKeys (p : Nat) (bs : List Byte) (s : State) : State := s.updPort p fun x => { x with queue := x.queue ++ keyFlits bs }

/-- The outcome of a renewal: the sender changes phase at once, the received direction at the first flit of the phase. -/
def State.renew (s : State) (p : Nat) (authOk : Bool) : State :=
  let x := s.port p
  match s.exchange p x.neighbourSerial authOk (State.queueKeys p) with
  | .waits => s
  | .failed s1 => s1.updPort p fun y => { y with renewalFailed := true }
  | .keyed s1 tx rx e =>
    (s1.updPort p fun y => { y with
      txKey := tx, epoch := e, txPhase := !y.txPhase, txCount := 0, rxNext := some (rx, e), renewalFailed := false }).cntPort p 0x238 1

/-- A port that can exchange keys now. -/
def State.keysReady (s : State) (p : Nat) : Bool := (s.dev.mode matches .ready) && (s.port p).up && !(s.port p).retraining

/-- LINK_KEY_RENEWAL (R370): after 2^40 new DATA flits in either direction. -/
def execLinkKeyRenewal (port : Fin 18) (authOk : Bool) (s : State) : Out :=
  let x := s.port port.val
  if s.keysReady port.val && (decide (2 ^ 40 ≤ x.txCount) || decide (2 ^ 40 ≤ x.rxCount)) && x.rxNext.isNone then
    .next (s.renew port.val authOk)
  else .next s

/-- RENEWAL_RETRY (R370): one second after a renewal that failed. -/
def execRenewalRetry (port : Fin 18) (authOk : Bool) (s : State) : Out :=
  if s.keysReady port.val && (s.port port.val).renewalFailed then .next (s.renew port.val authOk) else .next s

/-- A write of FAB_P_CTL (R388): logged; it reads 0. -/
def State.portCtl (s : State) (v : Word) (f : State → Nat → State) : State :=
  s.barWrite 0x6114 v (fun _ => 0) fun t => if t.fabSel < 18 then f t t.fabSel else t

/-- REKEY (R370, R388): the selected port renews its keys; with RETRAIN set as well it starts to retrain too. -/
def execRekey (v : BitVec 32) (authOk : Bool) (s : State) : Out :=
  if !v.getLsbD 0 then .next s
  else .next (s.portCtl v fun t p =>
    let t1 := if t.keysReady p then t.renew p authOk else t
    if v.getLsbD 1 then t1.startRetrain p false else t1)

/-- RETRAIN (R361, R388): the selected port retrains in service; with REKEY set as well it exchanges new keys. -/
def execRetrain (v : BitVec 32) (far : FarEnd) (s : State) : Out :=
  if !v.getLsbD 1 then .next s
  else .next (s.portCtl v fun t p =>
    let t1 := t.startRetrain p (v.getLsbD 0)
    if (t1.port p).retraining then t1.afterAttempt p far (t1.attempt p far (!(t1.port p).needKeys)) else t1)

/-! ## The awl (R386, R387) -/

def State.awlCtl (s : State) (p : Nat) : Nat := s.reg (fabKey p 0x120) 0
def State.awlMatch (s : State) (p : Nat) : Nat := s.reg (fabKey p 0x124) 0
def State.awlBit (s : State) (p : Nat) : Nat := s.reg (fabKey p 0x128) 0 % 2048
def awlAction (v : Nat) : Nat := v % 4
def awlCount (v : Nat) : Nat := v / 65536

/-- The AWL entry: port, ACTION, COUNT, 1 for an arming, actions taken (R503). -/
def awlPayload (p v : Nat) (arm : Bool) (taken : Nat) : List Byte :=
  natToBytes 1 p ++ natToBytes 1 (awlAction v) ++ natToBytes 2 (awlCount v) ++ [if arm then 1 else 0] ++ natToBytes 4 taken

/-- An armed awl is disarmed, which is logged (R386). -/
def State.awlDisarm (s : State) (p origin oid : Nat) : State :=
  let a := (s.port p).awl
  if !a.armed then s
  else (s.audit origin oid 0x0E 0 (awlPayload p (s.awlCtl p) false a.taken)).updPort p
    fun x => { x with awl := { x.awl with armed := false, remaining := 0 } }

/-- What a write of FAB_AWL_CTL does to the selected port's awl (R386). -/
def State.awlWrite (s : State) (v : Word) : State :=
  let p := s.fabSel
  if 18 ≤ p then s
  else
    let n := v.toNat % 64 + v.toNat / 65536 * 65536
    if awlAction n = 0 then (s.awlDisarm p 0 0xFFFF).setReg (fabKey p 0x120) 0 (BitVec.ofNat 32 n)
    else
      let s1 := s.setReg (fabKey p 0x120) 0 (BitVec.ofNat 32 n)
      if awlCount n = 0 then s1
      else if (s.dev.mode matches .ready) && s.flag 3 && (s.port p).up then
        let m := s.awlMatch p
        let every := max 1 (m % 65536)
        let s2 := s1.updPort p fun x => { x with
          awl := ⟨true, awlCount n, 0, m / 65536, every, every, x.awl.refused, x.awl.held⟩ }
        s2.audit 0 0xFFFF 0x0E 0 (awlPayload p n true 0)
      else s1.updPort p fun x => { x with awl := { x.awl with refused := true } }

/-- A logged write of FAB_AWL_CTL with a given ACTION. -/
def State.awlCommand (s : State) (action : Nat) (v : Word) : State :=
  if v.toNat % 4 = action then
    s.barWrite 0x6120 v (fun t => if t.fabSel < 18 then t.awlCtl t.fabSel else 0) (fun t => t.awlWrite v)
  else s

/-- AWL_DISARM (R386). -/
def execAwlDisarm (v : BitVec 32) (s : State) : Out := .next (s.awlCommand 0 v)
/-- AWL_ARM_DROP (R387). -/
def execAwlArmDrop (v : BitVec 32) (s : State) : Out := .next (s.awlCommand 1 v)
/-- AWL_ARM_CORRUPT (R387). -/
def execAwlArmCorrupt (v : BitVec 32) (s : State) : Out := .next (s.awlCommand 2 v)
/-- AWL_ARM_REORDER (R387). -/
def execAwlArmReorder (v : BitVec 32) (s : State) : Out := .next (s.awlCommand 3 v)

/-- Every awl is disarmed by a reset (R386). -/
def State.disarmAwls (s : State) : State := (upTo 18).foldl (fun t p => t.awlDisarm p 3 0) s

/-- Whether an armed awl acts on a new DATA flit of a channel, and the awl after it has considered the flit (R387). -/
def Awl.consider (a : Awl) (ctl vc : Nat) : Bool × Awl :=
  if !a.armed || !(decide (vc < 4) && (ctl / 4 % 2 == 1 || ctl / 8 % 8 == vc)) then (false, a)
  else if 0 < a.skipLeft then (false, { a with skipLeft := a.skipLeft - 1 })
  else if 1 < a.everyLeft then (false, { a with everyLeft := a.everyLeft - 1 })
  else (true, { a with everyLeft := a.every, taken := a.taken + 1, remaining := a.remaining - 1 })

/-- A CRC failure, or an awl action, is charged to the window (R366, R387). -/
def State.chargeWindow (s : State) (p : Nat) : State :=
  let x := s.port p
  if x.retraining then s
  else
    let s1 := s.setPort p { x with window := x.window + 1 }
    if s.errLevel < x.window + 1 then s1.startRetrain p false else s1

/-- AWL_REORDER_RELEASE (R387): the held flit is sent alone. -/
def execAwlReorderRelease (port : Fin 18) (s : State) : Out :=
  let x := s.port port.val
  match x.awl.held with
  | none => .next s
  | some b =>
    .next ((s.setPort port.val { x with line := some b, awl := { x.awl with held := none } }).cntPort port.val 0x200 1)

/-! ## Sending flits (R363 to R365, R368) -/

/-- A flit that carries no message: CTRL where it returns credit or a NAK, else IDLE. -/
def State.sendIdle (s : State) (p : Nat) : State :=
  let x := s.port p
  let ftype := if x.owed.isEmpty && !x.nakOwed then 0 else 2
  let (h, y) := x.head ftype 0 0 0
  (s.setPort p { y with line := some (flitBytes h (List.replicate 224 0) (List.replicate 16 0)) }).cntPort p 0x200 1

/-- Takes the first flit of a channel out of the queue. -/
def takeFlit (vc : Nat) : List Flit → Option (Flit × List Flit)
  | [] => none
  | f :: fs =>
    if f.vc = vc then some (f, fs)
    else
      match takeFlit vc fs with
      | none => none
      | some (g, gs) => some (g, f :: gs)

/-- The flits of a message that a SOM flit begins, as they stand in the queue. -/
def wholeMessage : List Flit → List Byte
  | [] => []
  | f :: fs =>
    let b := natToBytes f.length f.payload.toNat
    if f.eom then b else b ++ wholeMessage fs

/-- The egress unit computes the check value of a message that originates here (R398). -/
def State.egress (s : State) (p : Nat) (m : Message) : State :=
  let bs := checkBytes (msgSrc m) (msgDst m) (msgSeq m) m.header.toNat m.data
  let u := ((s.cvu (2 * p)).forPort).feed bs
  s.setCvu (2 * p) { u with done := true }

/-- The label of a message by its first flit: its source as master, and CLASS, DEMOTED and URGENCY (R364). -/
def Flit.label (f : Flit) : Hdr :=
  let n := f.payload.toNat
  let q := n / 2 ^ 40 % 256
  ⟨n % 2 ^ 16, BitVec.ofNat 3 q, q / 8 % 2 == 1, BitVec.ofNat 2 (q / 16), 0⟩

/-- The messages of channels 0 to 3 that wait to begin and have credit, with the flits that wait besides. -/
def FabPort.waiting (x : FabPort) : List (Packet (Flit × List Flit)) :=
  (upTo 4).filterMap fun k =>
    if smGet 0 x.credits k = 0 then none
    else (takeFlit k x.queue).map fun e =>
      ⟨e, e.1.label, x.queue.length - x.queue.findIdx (fun f => f.vc == k)⟩

/-- The flit that goes next (R364, R365): of channel 4; of the message under way; or the first of a message that R304 and R305
choose. None without credit, with a full replay buffer, or while a replay is owed. -/
def FabPort.pick (x : FabPort) : Option (Flit × List Flit × ArbPoint) :=
  let has := fun k => decide (0 < smGet 0 x.credits k)
  if 1024 ≤ x.replay.length || x.nakFrom.isSome then none
  else
    match if has 4 then takeFlit 4 x.queue else none with
    | some (f, rest) => some (f, rest, x.arb)
    | none =>
      match (upTo 4).findSome? fun k => (takeFlit k x.queue).filter fun e => !e.1.som with
      | some (f, rest) => if has f.vc then some (f, rest, x.arb) else none
      | none => (x.arb.choose x.waiting).map fun p => (p.msg.1, p.msg.2, x.arb.served p x.waiting)

/-- Sends a new flit; the awl may act on it. -/
def State.sendFlit (s : State) (p : Nat) (f : Flit) (rest : List Flit) : State :=
  let x := s.port p
  let (b, y) := x.form f
  let (act, a) := x.awl.consider (s.awlCtl p) f.vc
  let action := if act then awlAction (s.awlCtl p) else 0
  let sent := if action = 2 then b ^^^ BitVec.ofNat 2048 (2 ^ s.awlBit p) else b
  let n := if action = 0 || action = 2 then 1 else 0
  let late := if f.ftype = 3 then none else x.awl.held
  let line := match late with
    | some o => some o
    | none => if n = 1 then some sent else x.line
  let s1 := (s.setPort p { y with
    queue := rest, line := line, awl := { a with held := if f.ftype = 3 then x.awl.held else if action = 3 then some b else none } }).cntPort
      p 0x200 (n + if late.isSome then 1 else 0)
  let s2 := if act then
      let t := (s1.cntPort p 0x278 1).chargeWindow p
      if a.remaining = 0 then t.awlDisarm p 3 0 else t
    else s1
  if 2 ^ 40 + 2 ^ 32 ≤ y.txCount then s2.startRetrain p true else s2

/-- FLIT_TRANSMIT (R363 to R365, R368, R387, R398): the next flit, on the channel that the choice among the waiting flits
falls on, or on none a flit without a message where none may go. -/
def execFlitTransmit (port : Fin 18) (vc : Option (Fin 5)) (s : State) : Out :=
  let p := port.val
  let x := s.port p
  if !x.up || x.retraining then .next s
  else
    match x.pick with
    | none => .next (if vc.isNone then s.sendIdle p else s)
    | some (f, rest, arb) =>
      if vc.map (·.val) ≠ some f.vc then .next s
      else
      let m := msgParse (wholeMessage (x.queue.filter (fun g => g.vc == f.vc)))
      let s1 := if f.som && f.vc < 4 && msgSrc m == s.fabricId then s.egress p m else s
      .next ((s1.updPort p fun y => { y with arb := arb }).sendFlit p f rest)

/-! ## Receiving flits (R357, R363 to R366, R369) -/

def byteAt (bs : List Byte) (i : Nat) : Nat := (bs.getD i 0).toNat
def field2 (bs : List Byte) (i : Nat) : Nat := byteAt bs i + 256 * byteAt bs (i + 1)

/-- A flit that passes its CRC and holds no reserved code or bit (R363). -/
def flitIntact (bs : List Byte) : Bool :=
  decide (bytesToNat (bs.drop 252) = crc32c (bs.take 252)) && decide (byteAt bs 0 < 4) && decide (byteAt bs 1 < 64) &&
  decide (byteAt bs 1 % 8 < 5) && byteAt bs 6 / 8 % 16 == 0 && byteAt bs 6 % 8 < 5 && byteAt bs 0xA == 0 && byteAt bs 0xB == 0 &&
  decide (field2 bs 8 ≤ 224)

/-- A flit that takes a place in the sequence: DATA or KEY (R365). -/
def sequenced (bs : List Byte) : Bool := byteAt bs 0 == 1 || byteAt bs 0 == 3
/-- A flit in the place that is expected. -/
def FabPort.isNext (x : FabPort) (bs : List Byte) : Bool := sequenced bs && field2 bs 2 == x.expectLseq.toNat

/-- A flit failed (R361, R365): a NAK is owed, the failure is charged, and the eighth in succession of the expected flit retrains
the port. -/
def State.flitFailed (s : State) (p : Nat) (bs : List Byte) : State :=
  let x := s.port p
  let n := if x.isNext bs then x.fails + 1 else x.fails
  let s2 := ((s.setPort p { x with nakOwed := true, fails := n }).cntPort p 0x220 1).chargeWindow p
  if 8 ≤ n then s2.startRetrain p false else s2

/-- CREDITS returns credit (R364). -/
def FabPort.credited (x : FabPort) (bs : List Byte) : FabPort :=
  let vc := byteAt bs 6 % 8
  { x with credits := smSet 0 x.credits vc (smGet 0 x.credits vc + byteAt bs 7) }

/-- LACK acknowledges the flits before it; a NAK names where to resend from (R365). -/
def FabPort.control (x : FabPort) (bs : List Byte) : FabPort :=
  let lack : BitVec 16 := BitVec.ofNat 16 (field2 bs 4)
  let rep := match x.replay with
    | [] => []
    | (l, b) :: r => if (lack - l).toNat ≤ r.length + 1 then ((l, b) :: r).drop (lack - l).toNat else (l, b) :: r
  { x with replay := rep, nakFrom := if byteAt bs 6 / 128 = 1 then some lack else x.nakFrom }

/-- The key, epoch and count that open a DATA flit of a phase (R368, R370). -/
def FabPort.opening (x : FabPort) (phase : Bool) : Option (BitVec 256 × Word × Nat) :=
  if phase == x.rxPhase then some (x.rxKey, x.rxEpoch, x.rxCount)
  else x.rxNext.map fun n => (n.1, n.2, 0)

/-- The plaintext of a DATA flit; none where its tag fails. -/
def FabPort.openFlit (x : FabPort) (bs : List Byte) : Option (List Byte) :=
  match x.opening (byteAt bs 1 / 32 == 1) with
  | none => none
  | some (k, e, n) => gcmOpen (digestBytes k) (flitNonce e n) (bs.take 12) ((bs.drop 12).take 224) ((bs.drop 236).take 16) 16

/-- A DATA flit is accepted: its bytes join its channel's message, and a whole message is delivered (R377). -/
def FabPort.accept (x : FabPort) (bs pt : List Byte) : FabPort :=
  let vc := byteAt bs 1 % 8
  let phase := byteAt bs 1 / 32 == 1
  let x1 := if phase == x.rxPhase then { x with rxCount := x.rxCount + 1 }
    else
      match x.rxNext with
      | some (k, e) => { x with rxPhase := phase, rxKey := k, rxEpoch := e, rxNext := none, rxCount := 1 }
      | none => x
  let got := (if byteAt bs 1 / 8 % 2 = 1 then [] else smGet [] x.partialMsg vc) ++ pt.take (field2 bs 8)
  let x2 := { x1 with expectLseq := x.expectLseq + 1, nakOwed := false, fails := 0 }
  if byteAt bs 1 / 16 % 2 = 1 then
    if 40 ≤ got.length then { x2 with partialMsg := smErase x.partialMsg vc, inbox := x.inbox ++ [msgParse got] }
    else { x2 with partialMsg := smErase x.partialMsg vc, owed := smSet 0 x.owed vc (smGet 0 x.owed vc + 1) }
  else { x2 with partialMsg := smPut x.partialMsg vc got }

/-- An intact flit (R364, R365, R369). One out of its place is passed over with the credits it carries: its replay brings them
again. -/
def State.takeIn (s : State) (p : Nat) (bs : List Byte) : State :=
  let x := (s.port p).control bs
  if !sequenced bs then s.setPort p (x.credited bs)
  else if !x.isNext bs then s.setPort p { x with nakOwed := true }
  else
    let y := x.credited bs
    if byteAt bs 0 = 3 then
      s.setPort p { y with
        expectLseq := x.expectLseq + 1, nakOwed := false, fails := 0, owed := smSet 0 x.owed 4 (smGet 0 x.owed 4 + 1) }
    else
      match x.openFlit bs with
      | none => ((s.setPort p x).cntPort p 0x240 1).startRetrain p true
      | some pt =>
        let s2 := s.setPort p (y.accept bs pt)
        if 2 ^ 40 + 2 ^ 32 ≤ x.rxCount + 1 then s2.startRetrain p true else s2

/-- A code of 30 parity symbols corrects up to 15 (R356). -/
def corrects (c : LaneCodeword) : Bool := decide (c.symbols ≤ 15)
/-- The codewords of the lanes in use (R356, R359). -/
def FabPort.onLanes (x : FabPort) (cs : List LaneCodeword) : List LaneCodeword := cs.filter fun c => x.lanes.getLsbD c.lane.val

/-- The codewords that this flit is the first to meet are counted (R389). -/
def State.countCodewords (s : State) (p : Nat) (cs : List LaneCodeword) : State :=
  let met := cs.filter (·.first)
  (s.cntPort p 0x210 (met.filter fun c => corrects c && c.symbols != 0).length).cntPort p 0x218 (met.filter fun c => !corrects c).length

/-- FLIT_RECEIVE (R356, R357, R363 to R366, R369): a flit reaches a port in service, as its error correction leaves it. One
codeword past correction fails every flit that it carries. -/
def execFlitReceive (port : Fin 18) (flit : BitVec 2048) (codewords : List LaneCodeword) (s : State) : Out :=
  let p := port.val
  let x := s.port p
  if !x.up || x.retraining then .next s
  else
    let bs := natToBytes 256 flit.toNat
    let cs := x.onLanes codewords
    let s1 := (s.cntPort p 0x208 1).countCodewords p cs
    .next (if cs.all corrects && flitIntact bs then s1.takeIn p bs else s1.flitFailed p bs)

/-- FLIT_REPLAY (R365): a NAK that names an LSEQ: the flits before it are acknowledged, the others are sent again in
order. -/
def execFlitReplay (port : Fin 18) (lseq : BitVec 16) (s : State) : Out :=
  let p := port.val
  let x := s.port p
  if !x.up || x.retraining then .next s
  else
    match x.replay with
    | [] => .next (s.resend p 0)
    | (l, _) :: r => if (lseq - l).toNat ≤ r.length + 1 then .next (s.resend p (lseq - l).toNat) else .next s

/-- FABRIC_ERROR_WINDOW_END (R366): the next window begins. -/
def execFabricErrorWindowEnd (port : Fin 18) (s : State) : Out :=
  if s.dev.mode matches .ready then .next (s.updPort port.val fun x => { x with window := 0 }) else .next s

/-! ## Registers of this device's routes (R371, R372, R388) -/

/-- FAB_FABRIC_ID_WRITE (R371): committed to MRAM; in effect at the next port training. -/
def State.fabricIdWrite (s : State) (v : Word) : State :=
  s.barWrite 0x6000 v (fun t => t.mram.fabricId.toNat) fun t => { t with mram.fabricId := BitVec.ofNat 16 v.toNat }
def execFabFabricIdWrite (v : BitVec 32) (s : State) : Out := .next (s.fabricIdWrite v)

/-- The entry that FAB_ROUTE_SEL selects: its number, and whether it lies in the member table. -/
def State.routeSel (s : State) : Nat × Bool := (s.reg 0x6014 0 % 256, s.reg 0x6014 0 / 256 % 2 == 1)
def State.selEntry (s : State) : RouteEntry :=
  let (n, mem) := s.routeSel
  if mem then s.memberEntry n else s.groupEntry n
def State.setEntry (s : State) (e : RouteEntry) : State :=
  let (n, mem) := s.routeSel
  if mem then { s with mram.memberTable := smSet RouteEntry.none s.mram.memberTable n e }
  else { s with mram.groupTable := smSet RouteEntry.none s.mram.groupTable n e }

/-- A written hop: 0 to 17, and everything else is none (R388). -/
def hopOf (v : Nat) : BitVec 5 := if v % 32 < 18 then BitVec.ofNat 5 v else 0x1F
def RouteEntry.hopWord (e : RouteEntry) : Nat :=
  e.hop0.toNat + 2 ^ 5 * e.hop1.toNat + 2 ^ 10 * e.hop2.toNat + 2 ^ 15 * e.hop3.toNat

/-- FAB_ROUTE_HOPS_WRITE (R388): the next hops of the selected entry, committed to MRAM. -/
def State.routeHopsWrite (s : State) (v : Word) : State :=
  s.barWrite 0x6018 v (fun t => t.selEntry.hopWord) fun t =>
    let n := v.toNat
    t.setEntry { t.selEntry with
      hop0 := hopOf n, hop1 := hopOf (n / 2 ^ 5), hop2 := hopOf (n / 2 ^ 10), hop3 := hopOf (n / 2 ^ 15) }
def execFabRouteHopsWrite (v : BitVec 32) (s : State) : Out := .next (s.routeHopsWrite v)

/-- FAB_ROUTE_BCAST_WRITE (R388): the broadcast mask of the selected entry, committed to MRAM. -/
def State.routeBcastWrite (s : State) (v : Word) : State :=
  s.barWrite 0x601C v (fun t => t.selEntry.mask.toNat) fun t => t.setEntry { t.selEntry with mask := BitVec.ofNat 18 v.toNat }
def execFabRouteBcastWrite (v : BitVec 32) (s : State) : Out := .next (s.routeBcastWrite v)

/-! ## Port tests and drops -/

/-- CVU_PORT_TEST (R399): the two units of a port in service are tested in turn and return reset; a wrong value takes the
port out of service for good. -/
def execCvuPortTest (port : Fin 18) (egressOk ingressOk : Bool) (s : State) : Out :=
  let p := port.val
  if !(s.dev.mode matches .ready) || !(s.port p).up then .next s
  else
    let s1 := s.resetPortUnits p
    if egressOk && ingressOk then .next s1
    else
      let s2 := ((s1.addDefect ⟨.port, p⟩ 3).fieldDefect 6 p 3 [] 0xFF).updPort p FabPort.stop
      let e : UnitEntry := ⟨2, 3, 0⟩
      .next ((s2.changePlan (s2.plan.set .port p e) 3).auditFw 0x13 0 (natToBytes 1 p ++ [2, 0]))

/-- Every port drops without a floor-plan change (R362, R384). -/
def State.dropPorts (s : State) : State :=
  { s with fabric.ports := smMapD FabPort.reset (fun _ x => x.stop) s.fabric.ports, dev.attempts := [] }

end Sys2Proof.Machine
end

