-- ==== Sys2Proof/Machine/Rings.lean ====
section
/-! DEFINITION. Rings, doorbells, descriptors and completions (R327 to R344): set-up, fetching, the checks that every
descriptor passes first, and posting. -/

namespace Sys2Proof.Machine

/-! ## Ring state -/

def Ring.size (g : Ring) : Nat := 2 ^ g.log2.toNat
def Ring.line (g : Ring) : Nat := g.db.toNat / 64 * 64
def Ring.slotAt (g : Ring) : Nat := g.line + 8 * (g.db.toNat / 8 % 8)

/-- Descriptors of a ring fetched and not completed: in flight, or waiting to be posted. -/
def State.ringInFlight (s : State) (r : Nat) : Nat :=
  (s.inflight.filter (fun f => f.ring == r)).length + (s.ring r).waiting.length
/-- The same over the device (R335). -/
def State.allInFlight (s : State) : Nat := s.inflight.length + (s.rings.map fun e => e.2.waiting.length).foldl (· + ·) 0
def State.ringIdle (s : State) (r : Nat) : Bool := !(s.ring r).enable && s.ringInFlight r == 0

/-- A ring stops with an error: it behaves as one whose ENABLE was cleared (R337). -/
def State.ringStop (s : State) (r code : Nat) : State :=
  s.updRing r fun g => { g with enable := false, error := true, errorCode := BitVec.ofNat 4 code }

/-- The device reads a ring's doorbell slot (R331, R332, R334): PI and CCI of an enabled ring, with the overrun checks; of
a disabled one that still owes completions, CCI only. -/
def State.readSlot (s : State) (r : Nat) : State :=
  let g := s.ring r
  if !g.enable && s.ringInFlight r == 0 then s
  else if !s.hostOk g.slotAt 8 then s.hostError.ringStop r 2
  else
    let v := bytesToNat (s.hostRead g.slotAt 8)
    let pi : Word := BitVec.ofNat 32 v
    let cci : Word := BitVec.ofNat 32 (v / 2 ^ 32)
    if !g.enable then s.setRing r { g with cci := cci }
    else
      let s1 := s.setRing r { g with pi := pi, cci := cci }
      if g.size < (pi - cci).toNat || g.size < (pi - g.ci).toNat then s1.ringStop r 1 else s1

/-- Another enabled ring names the same doorbell slot (R331). -/
def State.slotTaken (s : State) (r : Nat) : Bool :=
  (upTo 64).any fun n => n != r && (s.ring n).enable && (s.ring n).slotAt == (s.ring r).slotAt

/-- A write of RING_CTRL (R328). -/
def State.ringCtrl (s : State) (v : Word) : State :=
  let r := s.reg 0x1000 0 % 64
  let g := s.ring r
  let size : BitVec 4 := BitVec.ofNat 4 (v.toNat / 16)
  let idle := s.ringIdle r
  let ignored := !idle && (v.getLsbD 0 || size != g.log2)
  let g1 := if idle then { g with log2 := size } else { g with writeIgnored := g.writeIgnored || ignored }
  if !v.getLsbD 0 then s.setRing r { g1 with enable := false }
  else if !idle then s.setRing r g1
  else if size.toNat < 4 then s.setRing r { g1 with error := true, errorCode := 3 }
  else
    let s1 := s.setRing r g1
    if s1.slotTaken r then s1.setRing r { g1 with error := true, errorCode := 3 }
    else (s1.setRing r { g1 with enable := true, error := false, errorCode := 0, ci := 0, cpi := 0, pi := 0, cci := 0 }).readSlot r

/-- RING_CTRL as it reads. -/
def State.ringCtrlValue (s : State) : Nat :=
  let g := s.ring (s.reg 0x1000 0 % 64)
  (if g.enable then 1 else 0) + 16 * g.log2.toNat

/-- A logged write of RING_CTRL. -/
def State.ringCtrlWrite (s : State) (v : Word) : State := s.barWrite 0x1004 v State.ringCtrlValue (fun t => t.ringCtrl v)

/-- RING_ENABLE (R328): a write of RING_CTRL with ENABLE set. -/
def execRingEnable (v : BitVec 32) (s : State) : Out :=
  if v.getLsbD 0 then .next (s.ringCtrlWrite v) else .next s

/-- RING_DISABLE (R328): a write of RING_CTRL with ENABLE clear. -/
def execRingDisable (v : BitVec 32) (s : State) : Out :=
  if v.getLsbD 0 then .next s else .next (s.ringCtrlWrite v)

/-! ## Doorbells (R334) -/

/-- The rings whose slot the device keeps reading. -/
def State.readSlots (s : State) (p : Nat → Bool) : State := ((upTo 64).filter p).foldl (fun t r => t.readSlot r) s

/-- DOORBELL_SNOOP (R334): a host store of a line; the device re-reads the slots that lie in it, and the dispatch complex
wakes. -/
def execDoorbellSnoop (addr : BitVec 64) (data : BitVec 512) (s : State) : Out :=
  let a := addr.toNat / 64 * 64
  let s1 := s.hostWrite a (natToBytes 64 data.toNat)
  if !s.linked then .next s1
  else
    let mine := fun r => (s.ring r).line == a && ((s.ring r).enable || s.ringInFlight r != 0)
    if (upTo 64).any mine then .next { (s1.readSlots mine) with dcClock := true } else .next s1

/-- DOORBELL_POLL (R334): every doorbell line in use is read again. -/
def execDoorbellPoll (s : State) : Out :=
  if s.linked then .next (s.readSlots fun _ => true) else .next s

/-- DC_CLOCK_STOP (R334): in READY, with no descriptor in flight and no job present. -/
def execDcClockStop (s : State) : Out :=
  if (s.dev.mode matches .ready) && s.allInFlight == 0 && !(s.jobs.any fun e => e.2.ended.isNone) then
    .next { s with dcClock := false }
  else .next s

/-! ## Fetching (R333, R335, R337, R338) -/

/-- Fetches descriptors one by one: a fetch that fails stops the ring and is not retried. -/
def State.fetchN (r : Nat) : Nat → State → State
  | 0, s => s
  | n + 1, s =>
    let g := s.ring r
    let a := g.cmdBase.toNat + 64 * (g.ci.toNat % g.size)
    if !s.hostOk a 64 then s.hostError.ringStop r 2
    else
      let f : InFlight := ⟨r, g.ci, BitVec.ofNat 512 (bytesToNat (s.hostRead a 64)), false⟩
      State.fetchN r n ({ s with inflight := s.inflight ++ [f] }.setRing r { g with ci := g.ci + 1 })

def InFlight.opcode (f : InFlight) : Nat := descField f.bytes 0 1
def InFlight.flags (f : InFlight) : Nat := descField f.bytes 1 1
def InFlight.jobId (f : InFlight) : Nat := descField f.bytes 8 4
def InFlight.u8 (f : InFlight) (off : Nat) : Nat := descField f.bytes off 1
def InFlight.u32 (f : InFlight) (off : Nat) : Nat := descField f.bytes off 4
def InFlight.u64 (f : InFlight) (off : Nat) : Nat := descField f.bytes off 8

/-- A completion of an earlier descriptor of its ring still waits to be posted. -/
def State.earlierWaits (s : State) (f : InFlight) : Bool :=
  let g := s.ring f.ring
  let back := fun (i : Nat) => (g.ci.toNat + g.size - 1 - i % g.size) % g.size
  g.waiting.any fun c => decide (back f.idx.toNat < back c.slot)

/-- Whether a descriptor may start (R335): every earlier one of its ring has started, and with WAIT has been completed. -/
def State.mayStart (s : State) (f : InFlight) : Bool :=
  let g := s.ring f.ring
  let before := fun (e : InFlight) => e.ring == f.ring && decide ((g.ci - f.idx).toNat < (g.ci - e.idx).toNat)
  if f.flags % 2 = 1 then !s.inflight.any before && !s.earlierWaits f
  else s.inflight.all fun e => !before e || e.started

/-- Completes the descriptors whose opcode is reserved, as they come to start. -/
def State.refuseReserved (r : Nat) : List InFlight → State → State
  | [], s => s
  | f :: fs, s => State.refuseReserved r fs
      (if f.ring == r && decide (0x11 ≤ f.opcode) && s.mayStart f then s.complete r f.idx 2 0 0 else s)

/-- A ring has descriptors to fetch, and the ring whose turn it is: the first such, ascending from the one after the last
served (R335). -/
def State.wantsFetch (s : State) (r : Nat) : Bool := (s.ring r).enable && (s.ring r).pi != (s.ring r).ci
def State.fetchTurn (s : State) : Option Nat := ((upTo 64).map fun i => (s.mgt.turn + i) % 64).find? s.wantsFetch

/-- DESCRIPTOR_FETCH (R335, R337, R338): a ring's turn, if it is. -/
def execDescriptorFetch (ring : Fin 64) (s : State) : Out :=
  let r := ring.val
  if !s.linked || (s.dev.mode matches .boot) then .next s
  else
    let g := s.ring r
    let n := if s.fetchTurn = some r then min 64 (min (g.pi - g.ci).toNat (4096 - s.allInFlight)) else 0
    let s1 := { State.fetchN r n s with dcClock := s.dcClock || n != 0, mgt.turn := if n = 0 then s.mgt.turn else (r + 1) % 64 }
    .next (State.refuseReserved r s1.inflight s1)

/-! ## Checks (R339 to R342) -/

/-- States that serve an opcode (R340). -/
def opcodeServed (op : Nat) (m : Mode) : Bool :=
  match m with
  | .ready => true
  | .check | .held => [0x00, 0x07, 0x08, 0x09, 0x0A, 0x0C, 0x0D, 0x0F, 0x10].contains op
  | .limp | .shutdown => [0x00, 0x07, 0x08, 0x0A, 0x0C, 0x0F, 0x10].contains op
  | .bringup => [0x00, 0x0F, 0x10].contains op
  | .off | .aon | .boot => false

/-- Opcodes that name a present job, and those that name none. -/
def opcodeNeedsJob (op : Nat) : Bool := [2, 3, 4, 5, 6, 0xE].contains op
def opcodeNoJob (op : Nat) : Bool := op != 1 && !opcodeNeedsJob op

/-- Which of the buffers of R341 an opcode uses: IN, OUT, START. -/
def opcodeBuffers (op : Nat) : Bool × Bool × Bool :=
  match op with
  | 7 | 8 | 0xD => (true, false, false)
  | 9 | 0xA => (true, true, false)
  | 0xF | 0x10 => (false, true, true)
  | 0xC => (false, true, false)
  | _ => (false, false, false)

/-- Ranges of bytes from 0x10 on that hold fields of an opcode (R341). -/
def opcodeFields (op : Nat) : List (Nat × Nat) :=
  match op with
  | 1 => [(0x10, 24)]
  | 2 | 3 => [(0x10, 16)]
  | 5 => [(0x10, 2), (0x18, 24)]
  | 6 => [(0x10, 1), (0x18, 40)]
  | 0xB => [(0x10, 2)]
  | 0xE => [(0x10, 2), (0x14, 16)]
  | _ =>
    let (i, o, st) := opcodeBuffers op
    (if i then [(0x10, 12)] else []) ++ (if o then [(0x20, 12)] else []) ++ (if st then [(0x30, 8)] else [])

/-- Every body byte outside an opcode's fields is 0. -/
def bodyClean (f : InFlight) : Bool :=
  (upTo 48).all fun i => ((opcodeFields f.opcode).any fun e => decide (e.1 ≤ 16 + i) && decide (16 + i < e.1 + e.2)) || f.u8 (16 + i) == 0

/-- Reserved bits inside fields, fields that must be 0 for the operation, and the alignment of host addresses. -/
def bodyForm (f : InFlight) : Bool :=
  let al := fun off => f.u64 off % 64 == 0
  match f.opcode with
  | 1 => al 0x10 && f.u32 0x1C / 2 == 0 && al 0x20
  | 5 =>
    f.u8 0x11 / 8 == 0 &&
    (match f.u8 0x10 with
      | 0 => al 0x18
      | 1 => al 0x20
      | 3 | 4 => f.u64 0x18 == 0
      | _ => true)
  | 6 => al 0x18 && (f.u8 0x10 == 4 || f.u64 0x18 == 0)
  | 0xE => f.u8 0x11 / 32 == 0 && al 0x18 && (f.u8 0x10 == 2 || (f.u64 0x18 == 0 && f.u32 0x20 == 0))
  | 7 | 8 | 0xD | 9 | 0xA | 0xC | 0xF | 0x10 =>
    let (i, o, _) := opcodeBuffers f.opcode
    (!i || al 0x10) && (!o || al 0x20)
  | _ => true

/-- The operation, code or kind of a descriptor is not one that R341 and R148 call reserved, refused (R15). -/
def subCodeOk (f : InFlight) : Bool :=
  match f.opcode with
  | 5 => decide (f.u8 0x10 < 5)
  | 6 => [0, 3, 4].contains (f.u8 0x10)
  | 0xB => decide (f.u8 0x10 < 3)
  | 0xE => decide (1 ≤ f.u8 0x10) && decide (f.u8 0x10 < 5)
  | _ => true

/-- Step 1 of R342. -/
def descForm (f : InFlight) : Bool :=
  decide (f.opcode < 0x11) && subCodeOk f && decide (f.flags < 2) && descField f.bytes 2 2 == 0 && f.u32 0xC == 0 && bodyClean f && bodyForm f

/-- The opcodes that REQUIRE_IDE lets through without IDE (R496). -/
def ideFree (op : Nat) : Bool := [0x00, 0x0A, 0x09, 0x0C, 0x0F, 0x10].contains op

/-- Steps 1 to 3 of R342, and REQUIRE_IDE: the status of the first check that fails. -/
def State.descCheck (s : State) (f : InFlight) : Option Nat :=
  let op := f.opcode
  if !descForm f then some 2
  else if !opcodeServed op s.dev.mode then some s.notReady
  else if opcodeNoJob op && f.jobId ≠ 0 then some 2
  else if op = 1 && (f.jobId = 0 || (s.job f.jobId).isSome) then some 2
  else if opcodeNeedsJob op && !s.present f.jobId then some 0x31
  else if s.ideBlocks && !ideFree op then some 1
  else none

def State.markStarted (s : State) (r : Nat) (i : Word) : State :=
  { s with inflight := s.inflight.map fun f => if f.ring == r && f.idx == i then { f with started := true } else f }

/-- Runs a descriptor in flight with a given opcode, if the row is the one for its operation: the first checks, then the
body, in which a descriptor that has started goes on without them. -/
def State.runDesc (s : State) (ring : Fin 64) (idx : Word) (opcode : Nat) (mine : InFlight → Bool) (body : State → InFlight → State) :
    State :=
  match s.findDesc ring.val idx with
  | none => s
  | some f =>
    if f.opcode ≠ opcode || !mine f || !s.linked || (s.dev.mode matches .boot) then s
    else if f.started then body s f
    else if !s.mayStart f then s
    else
      match s.descCheck f with
      | some st => s.complete ring.val idx st 0 0
      | none => body (s.markStarted ring.val idx) f

/-- A descriptor refused by its opcode's own checks. -/
def State.refuseDesc (s : State) (f : InFlight) (status : Nat) : State := s.complete f.ring f.idx status 0 0
def State.okDesc (s : State) (f : InFlight) (result : Nat) : State := s.complete f.ring f.idx 0 0 result

/-- NOP (R340). -/
def execNopDescriptor (ring : Fin 64) (idx : BitVec 32) (s : State) : Out :=
  .next (s.runDesc ring idx 0 (fun _ => true) fun t f => t.okDesc f 0)

/-! ## Buffers (R341, R344) -/

/-- Limits of the buffer opcodes. -/
def InFlight.buffersFit (f : InFlight) : Bool :=
  let (i, o, _) := opcodeBuffers f.opcode
  (!i || decide (f.u32 0x18 ≤ 2 ^ 20)) && (!o || decide (f.u32 0x28 ≤ 2 ^ 24))

/-- Completes with HOST_ACCESS after a failed access to a descriptor's own buffers. -/
def State.hostFailed (s : State) (f : InFlight) : State := s.hostError.complete f.ring f.idx 0x32 0 0

/-- Writes an answer to OUT and completes with its length; an access that fails completes with HOST_ACCESS. -/
def State.answerOut (s : State) (f : InFlight) (bs : List Byte) : State :=
  if bs.isEmpty then s.okDesc f 0
  else if s.hostOk (f.u64 0x20) bs.length then (s.hostWrite (f.u64 0x20) bs).okDesc f bs.length
  else s.hostFailed f

/-- Reads IN and goes on. -/
def State.withIn (s : State) (f : InFlight) (go : List Byte → State) : State :=
  if s.hostOk (f.u64 0x10) (f.u32 0x18) then go (s.hostRead (f.u64 0x10) (f.u32 0x18)) else s.hostFailed f

/-! ## Posting (R336, R343) -/

/-- The 32 bytes of a completion entry. -/
def Completion.bytes (c : Completion) (phase : Bool) (aon : Dword) : List Byte :=
  natToBytes 2 c.slot ++ [c.status, if phase then 1 else 0] ++ natToBytes 4 c.hostTag.toNat ++ natToBytes 4 c.job.toNat ++
  [c.opcode, c.detail, 0, 0] ++ natToBytes 8 c.result.toNat ++ natToBytes 8 aon.toNat

/-- A job whose LAUNCH completion has been posted, or lost, holds its stacks no longer (R346); the ABORT that ended it
completes after it (R345). -/
def State.releaseJob (s : State) (r : Nat) (c : Completion) : State :=
  match s.job c.job.toNat with
  | none => s
  | some v =>
    if c.opcode == 1 && v.ended.isSome && v.ring == r && v.idx.toNat % (s.ring r).size == c.slot then
      let aborts := s.inflight.filter fun f => f.opcode == 4 && f.started && f.jobId == c.job.toNat
      aborts.foldl (fun t f => t.okDesc f 0) { s with jobs := smErase s.jobs c.job.toNat }
    else s

/-- A LAUNCH completion waits until the ABORTED completions of its job on other rings are posted (R345). -/
def State.launchWaits (s : State) (r : Nat) (c : Completion) : Bool :=
  c.opcode == 1 && (upTo 64).any fun n => n != r && (s.ring n).waiting.any fun d => d.job == c.job && d.status == 0x0A && d.opcode != 1 && d.opcode != 4

/-- Writes the oldest waiting completion of a ring; it has been visible before anything after it. -/
def State.postOne (s : State) (r : Nat) (c : Completion) (rest : List Completion) : State :=
  let g := s.ring r
  let j := g.cpi.toNat
  let a := g.cplBase.toNat + 32 * (j % g.size)
  let s1 := (s.setRing r { g with waiting := rest }).releaseJob r c
  if !s.hostOk a 32 then s1.hostError.ringStop r 2
  else
    let l := j % g.size / 2
    (s1.hostWrite a (c.bytes (j / g.size % 2 == 0) s.aon)).setRing r { s1.ring r with
      cpi := g.cpi + 1, owned := if g.owned.contains l then g.owned else g.owned ++ [l] }

/-- COMPLETION_POST (R332, R336, R345): in room that CCI leaves. -/
def execCompletionPost (ring : Fin 64) (s : State) : Out :=
  let r := ring.val
  let g := s.ring r
  match g.waiting with
  | [] => .next s
  | c :: rest =>
    if s.linked && decide ((g.cpi - g.cci).toNat < g.size) && !s.launchWaits r c then .next (s.postOne r c rest) else .next s

/-- COMPLETION_RING_SNOOP (R316, R336): the host's access takes a line that the device holds with ownership. -/
def execCompletionRingSnoop (ring : Fin 64) (line : BitVec 32) (s : State) : Out :=
  .next (s.updRing ring.val fun g => { g with owned := g.owned.filter (· != line.toNat) })

end Sys2Proof.Machine
end

