-- ==== Sys2Proof/Machine/Line.lean ====
section
/-! DEFINITION. The geometry of the soles (R180 to R183), the compression classes (R184 to R187), the masks of a line, the
occupancy of a set, and the inverse of the address map. -/

namespace Sys2Proof.Machine

/-! ## Homes, slices and sets -/

/-- The hashed slice number of a block (R180). -/
def blockHash (p : Nat) : Nat := p % 64 ^^^ (p / 64 % 64) ^^^ (p / 2 ^ 12 % 64) ^^^ (p / 2 ^ 18 % 64)

/-- The first live slice of a stack from `n` on, wrapping (R181). -/
def Plan.liveFrom (p : Plan) (stack n : Nat) : Nat → Nat
  | 0 => n
  | f + 1 => if p.sliceOk (64 * stack + n) then n else p.liveFrom stack ((n + 1) % 64) f

/-- The stack, block and set index of a line. -/
def lineStack (l : Nat) : Nat := l / 2 ^ 29
def lineBlock (l : Nat) : Nat := l % 2 ^ 29 / 8
def lineSet (l : Nat) : Nat := lineBlock l / 64 % 2 ^ 14
/-- The slice that holds a line, by its global number. -/
def Plan.lineSlice (p : Plan) (l : Nat) : Nat :=
  64 * lineStack l + p.liveFrom (lineStack l) (blockHash (lineBlock l)) 64
/-- The eight lines of a line's block. -/
def blockLines (l : Nat) : List Nat := (upTo 8).map (l / 8 * 8 + ·)

/-- The position of a number in a list. -/
def indexIn (n : Nat) : List Nat → Nat
  | [] => 0
  | x :: xs => if x = n then 0 else indexIn n xs + 1

/-- The device address of a line of a job's footprint: the map of R251 read backwards. -/
def Plan.lineAddr (p : Plan) (im : Image) (l : Nat) : Option Nat :=
  let (h, x) := lineHbm l
  let m := x / 4096
  let hs := p.liveOf im.stackBits
  let rows := if hs.length = 0 then 0 else (im.fI / 4096 + hs.length - 1) / hs.length
  if !im.stackBits.getLsbD (h / 2) || !p.hbmLive h then none
  else if m < rows then
    let a := (m * hs.length + indexIn h hs) * 4096 + x % 4096
    if a < im.fI then some a else none
  else
    let t := h / 2
    let pr := [2 * t, 2 * t + 1].filter p.hbmLive
    let a := ((m - rows) * pr.length + indexIn h pr) * 4096 + x % 4096
    if a < im.fS.getD t 0 then some (im.localBase t + a) else none

/-! ## Masks -/

/-- Spreads a byte mask over the bits of a line. -/
def spreadMask (m : BitVec 256) : BitVec 2048 :=
  BitVec.ofNat 2048 ((upTo 256).foldl (fun n k => if m.getLsbD k then n + 255 * 2 ^ (8 * k) else n) 0)

def allBytes : BitVec 256 := BitVec.allOnes 256

/-- Bytes of `new` where the mask is set, of `old` elsewhere. -/
def byteMerge (old new : BitVec 2048) (m : BitVec 256) : BitVec 2048 :=
  if m = 0 then old else if m = allBytes then new
  else let b := spreadMask m; (old &&& ~~~b) ||| (new &&& b)

/-- The mask of `n` bytes from an offset. -/
def byteRange (off n : Nat) : BitVec 256 := BitVec.ofNat 256 ((2 ^ n - 1) * 2 ^ off)
/-- The bytes of a 64-byte logical sector. -/
def sectorBytes (k : Nat) : BitVec 256 := byteRange (64 * k) 64
/-- The logical sectors that a byte mask touches. -/
def sectorsOf (m : BitVec 256) : List Nat := (upTo 4).filter (fun k => m &&& sectorBytes k != 0)
def dirtyOf (m : BitVec 256) : BitVec 4 := BitVec.ofNat 4 ((sectorsOf m).foldl (fun n k => n + 2 ^ k) 0)
/-- The bytes of the logical sectors that a mask touches. -/
def wholeSectors (m : BitVec 256) : BitVec 256 := (sectorsOf m).foldl (fun x k => x ||| sectorBytes k) 0

/-- Bytes of a line from an offset, as a number. -/
def lineField (d : BitVec 2048) (off n : Nat) : Nat := d.toNat / 2 ^ (8 * off) % 2 ^ (8 * n)
/-- A line whose bytes from an offset are a number. -/
def lineOf (off n v : Nat) : BitVec 2048 := BitVec.ofNat 2048 (v % 2 ^ (8 * n) * 2 ^ (8 * off))
def lineBytes (d : BitVec 2048) : List Byte := natToBytes 256 d.toNat
def bytesLine (bs : List Byte) : BitVec 2048 := BitVec.ofNat 2048 (bytesToNat bs)

/-! ## Compression (R184 to R187) -/

/-- Bits of a number. -/
def bitLen (n : Nat) : Nat := if n = 0 then 0 else Nat.log2 n + 1

/-- The elements of a line. -/
def lineElems (d : Nat) (w n : Nat) : List Nat := (upTo n).map fun i => d / 2 ^ (w * i) % 2 ^ w

/-- Fields one after the other from bit 0 on, each a width and a value. -/
def packFields : List (Nat × Nat) → Nat
  | [] => 0
  | (w, v) :: r => v % 2 ^ w + 2 ^ w * packFields r

/-- The delta width k of NARROW at a width (R185): the least in which every difference from e_0 stands in two's complement. -/
def narrowWidth (d w : Nat) : Nat :=
  let es := lineElems d w (2048 / w)
  let e0 := es.headD 0
  es.foldl (fun k e =>
    let x := (e + 2 ^ w - e0) % 2 ^ w
    max k (if x < 2 ^ (w - 1) then bitLen x + 1 else bitLen (2 ^ w - 1 - x) + 1)) 1

/-- The size of NARROW at a width, in bits (R185). -/
def narrowSize (d w : Nat) : Nat := 32 + w + (2048 / w - 1) * narrowWidth d w

/-- The encoding of NARROW at a width (R185): header, base and deltas. -/
def narrowBits (d w : Nat) : Nat :=
  let es := lineElems d w (2048 / w)
  let e0 := es.headD 0
  let k := narrowWidth d w
  packFields ([(2, if w = 32 then 0 else if w = 16 then 1 else 2), (5, k), (25, 0), (w, e0)] ++
    (es.drop 1).map fun e => (k, (e + 2 ^ w - e0) % 2 ^ w))

/-- The line that a NARROW encoding stands for. -/
def narrowLine (b : Nat) : Nat :=
  let w := if b % 4 = 0 then 32 else if b % 4 = 1 then 16 else 8
  let k := b / 4 % 32
  let e0 := b / 2 ^ 32 % 2 ^ w
  packFields ((w, e0) :: (upTo (2048 / w - 1)).map fun i => (w, toBits w ((e0 : Int) + signed k (b / 2 ^ (32 + w + k * i) % 2 ^ k))))

/-- Trailing zero bits of a mantissa of `m` bits; all of them when it is 0. -/
def trailingZeros : Nat → Nat → Nat
  | 0, _ => 0
  | m + 1, v => if v % 2 = 1 then 0 else trailingZeros m (v / 2) + 1

/-- The element width, exponent bits and mantissa bits of an EXPDELTA kind (R186). -/
def expKind (n : Nat) : Nat × Nat × Nat := if n = 0 then (32, 8, 23) else if n = 1 then (16, 8, 7) else (16, 5, 10)

/-- The base, the delta width k and the count t of EXPDELTA (R186). -/
def expDeltaParts (d w eb m : Nat) : Nat × Nat × Nat :=
  let es := lineElems d w (2048 / w)
  let exps := es.map fun e => e / 2 ^ m % 2 ^ eb
  let base := exps.foldl min (2 ^ eb)
  (base, bitLen (exps.foldl max 0 - base), es.foldl (fun t e => min t (trailingZeros m (e % 2 ^ m))) m)

/-- The size of EXPDELTA for elements of `w` bits with `eb` exponent and `m` mantissa bits (R186). -/
def expDeltaSize (d w eb m : Nat) : Nat :=
  let (_, k, t) := expDeltaParts d w eb m
  32 + 2048 / w * (k + 1 + m - t)

/-- The encoding of EXPDELTA of a kind (R186): header, exponent deltas, signs and shifted mantissas. -/
def expDeltaBits (d kind : Nat) : Nat :=
  let (w, eb, m) := expKind kind
  let es := lineElems d w (2048 / w)
  let (base, k, t) := expDeltaParts d w eb m
  packFields ([(2, kind), (4, k), (5, t), (8, base), (13, 0)] ++ es.map (fun e => (k, e / 2 ^ m % 2 ^ eb - base)) ++
    es.map (fun e => (1, e / 2 ^ (w - 1))) ++ es.map fun e => (m - t, e % 2 ^ m / 2 ^ t))

/-- The line that an EXPDELTA encoding stands for. -/
def expDeltaLine (b : Nat) : Nat :=
  let (w, eb, m) := expKind (b % 4)
  let n := 2048 / w
  let k := b / 2 ^ 2 % 16
  let t := min m (b / 2 ^ 6 % 32)
  let base := b / 2 ^ 11 % 256
  packFields ((upTo n).map fun i => (w,
    b / 2 ^ (32 + k * n + n + (m - t) * i) % 2 ^ (m - t) * 2 ^ t + (base + b / 2 ^ (32 + k * i) % 2 ^ k) % 2 ^ eb * 2 ^ m +
      b / 2 ^ (32 + k * n + i) % 2 * 2 ^ (w - 1)))

/-- Whether a line repeats its first eight bytes. -/
def isRepeat (d : Nat) : Bool := (lineElems d 64 32).all (fun e => e == d % 2 ^ 64)

/-- Sectors that a number of bits takes. -/
def bitSectors (n : Nat) : Nat := (n + 511) / 512

/-- The candidates of R187 after ZERO and REPEAT, in the order that settles ties: form, sectors, and the width of NARROW or
the kind of EXPDELTA. -/
def lineCandidates (d : Nat) : List (Form × Nat × Nat) :=
  ([32, 16, 8].map fun w => (Form.narrow, bitSectors (narrowSize d w), w)) ++
  (upTo 3).map fun k => (Form.expdelta, bitSectors (expDeltaSize d (expKind k).1 (expKind k).2.1 (expKind k).2.2), k)

/-- What the compressor chooses for a fully valid untacked line (R187). -/
def lineChoice (d : Nat) : Form × Nat × Nat :=
  if d = 0 then (.zero, 1, 0)
  else if isRepeat d then (.repeated, 1, 0)
  else (lineCandidates d).foldl (fun b c => if c.2.1 < b.2.1 then c else b) (.raw, 4, 0)

/-- The class of a fully valid untacked line and its sectors (R187). -/
def compressLine (data : BitVec 2048) : Form × Nat := ((lineChoice data.toNat).1, (lineChoice data.toNat).2.1)

/-- The stored bits of a line of a class (R184 to R187); the bits beyond an encoding are 0. The other classes are stored
verbatim. -/
def encodeLine (f : Form) (d : Nat) : Nat :=
  match f with
  | .zero => 0
  | .repeated => d % 2 ^ 64
  | .narrow => narrowBits d (lineChoice d).2.2
  | .expdelta => expDeltaBits d (lineChoice d).2.2
  | _ => d

/-- The line that stored bits stand for. -/
def decodeLine (f : Form) (b : Nat) : Nat :=
  match f with
  | .zero => 0
  | .repeated => packFields (List.replicate 32 (64, b))
  | .narrow => narrowLine b
  | .expdelta => expDeltaLine b
  | _ => b

/-! ## A line in its set -/

def SoleLine.full (e : SoleLine) : Bool := e.valid == allBytes
def SoleLine.isLong (e : SoleLine) : Bool := e.present && (e.form matches .long)

/-- The form a short line takes and the sectors it needs (R182, R184). -/
def SoleLine.shape (e : SoleLine) : Form × Nat :=
  if e.tack then (.shortTacked, 4)
  else if e.full then compressLine e.data
  else (.partialLine, (sectorsOf e.valid).length)

/-- Sectors are a mask over the 64 sectors of the set. -/
def maskCount (m : Nat) : Nat := ((upTo 64).filter (fun k => m.testBit k)).length
def halfMask (h : Bool) : Nat := if h then (2 ^ 32 - 1) * 2 ^ 32 else 2 ^ 32 - 1

/-- The sectors of a line in ascending order. -/
def SoleLine.sectorList (e : SoleLine) : List Nat := (upTo 64).filter fun k => e.sectors.testBit k

/-- The logical sectors that a partial line stores, each in one sector (R182). -/
def SoleLine.logicals (e : SoleLine) : List Nat := if e.form matches .partialLine then sectorsOf e.valid else [0, 1, 2, 3]

/-- The stored bits of a line, its lowest sector first (R184); a line under reduction is held as it reads (R206). -/
def SoleLine.stored (e : SoleLine) : Nat :=
  if e.dir matches .br then e.data.toNat
  else if e.form matches .partialLine then packFields (e.logicals.map fun k => (512, lineField e.data (64 * k) 64))
  else encodeLine e.form e.data.toNat

/-- The line with other stored bits. -/
def SoleLine.restored (e : SoleLine) (b : Nat) : SoleLine :=
  let put := fun (d : BitVec 2048) (p : Nat × Nat) => byteMerge d (lineOf (64 * p.1) 64 (b / 2 ^ (512 * p.2))) (sectorBytes p.1)
  if e.dir matches .br then { e with data := BitVec.ofNat 2048 b }
  else if e.form matches .partialLine then { e with data := (e.logicals.zip (upTo 4)).foldl put e.data }
  else { e with data := BitVec.ofNat 2048 (decodeLine e.form b) }

/-- Takes `n` free sectors, lowest first, or highest first for a tacked line (R182). -/
def takeSectors (used n : Nat) (high : Bool) : Option Nat :=
  let free := (if high then (upTo 64).reverse else upTo 64).filter (fun k => !used.testBit k)
  if free.length < n then none else some ((free.take n).foldl (fun m k => m + 2 ^ k) 0)

/-- Lines present in the set of a line, with the line itself. -/
def State.setLines (s : State) (l : Nat) : List Nat :=
  smKeys (fun k e => e.present && lineStack k == lineStack l && lineSet k == lineSet l && s.plan.lineSlice k == s.plan.lineSlice l)
    s.sole.lines

/-- Sectors in use in a set, apart from the lines of `skip`. -/
def State.usedSectors (s : State) (ls skip : List Nat) : Nat :=
  (ls.filter (fun k => !skip.contains k)).foldl (fun m k => m ||| (s.soleLine k).sectors) 0

/-- Tags in use: one for a short line, one for the lines of a long one, as long as any of them is there (R196). -/
def State.usedTags (s : State) (ls skip : List Nat) : Nat :=
  let mine := ls.filter fun k => !skip.contains k
  (mine.filter fun k => !(s.soleLine k).isLong).length +
    ((mine.filter fun k => (s.soleLine k).isLong).map (· / 8)).eraseDups.length

/-- Places a line's data in its set, the lines of `skip` aside: its form and sectors; none: no room. -/
def State.fit (s : State) (l : Nat) (e : SoleLine) (skip : List Nat) : Option SoleLine :=
  if e.isLong then some e
  else
    let ls := s.setLines l
    let (f, n) := e.shape
    let fresh := !(s.soleLine l).present
    let have_ := if e.tack && !(e.form matches .shortTacked) then 0 else e.sectors
    if fresh && decide (32 ≤ s.usedTags ls (l :: skip)) then none
    else if n ≤ maskCount have_ then
      some { e with form := f, sectors := ((upTo 64).filter (fun k => have_.testBit k)).take n |>.foldl (fun m k => m + 2 ^ k) 0, present := true }
    else
      match takeSectors (s.usedSectors ls (l :: skip) ||| have_) (n - maskCount have_) e.tack with
      | none => none
      | some m => some { e with form := f, sectors := have_ ||| m, present := true }

/-- Slot-equivalents tacked by the lines of a list (R210): 1 for a short line, 8 for a long one. -/
def State.slotsTacked (s : State) (ls : List Nat) : Nat :=
  (ls.filter (fun k => (s.soleLine k).tack)).length

/-- SOLE_TACK_USED (R220). -/
def State.tackUsed (s : State) : Nat := (smKeys (fun _ e => e.present && e.tack) s.sole.lines).length

/-- Requests a slice tracks (R216). -/
def SoleLine.entries (e : SoleLine) : Nat := e.queue.length + (if e.txn.isSome then 1 else 0)
def State.sliceEntries (s : State) (k : Nat) : Nat :=
  ((s.sole.lines.filter (fun e => s.plan.lineSlice e.1 == k)).map (fun e => e.2.entries)).foldl (· + ·) 0

/-- A request can be queued or served at once: nothing is in progress on the line. -/
def SoleLine.idle (e : SoleLine) : Bool := e.txn.isNone && !(e.dir matches .br) && e.queue.isEmpty && !e.evicting

/-- The L1 copies a directory entry records (R200), working tiles only, without one of them. -/
def Plan.copies (p : Plan) (l : Nat) (e : SoleLine) (except : Option Nat) : List Nat :=
  let all := match e.dir with
    | .s =>
      ((upTo 13).filter (fun g => e.groups.getLsbD g)).flatMap (fun g => (upTo 4).map (52 * lineStack l + 4 * g + ·)) ++
      ((upTo 8).filter (fun k => e.dies.getLsbD k)).flatMap (fun k => (upTo 52).map (52 * k + ·))
    | .e | .m => [e.owner.val]
    | .i | .br => []
  all.filter (fun t => p.tileOk t && some t != except)

/-- Records a tile in the sharing vectors (R200). -/
def SoleLine.share (e : SoleLine) (l t : Nat) : SoleLine :=
  if t / 52 = lineStack l then { e with groups := e.groups ||| BitVec.ofNat 13 (2 ^ (t % 52 / 4)) }
  else { e with dies := e.dies ||| BitVec.ofNat 8 (2 ^ (t / 52)) }

def SoleLine.noCopies (e : SoleLine) : SoleLine := { e with dir := .i, groups := 0, dies := 0, owner := 0 }

/-- Merges bytes: they become valid and, where `mark`, dirty. -/
def SoleLine.merge (e : SoleLine) (data : BitVec 2048) (mask : BitVec 256) (mark : Bool) : SoleLine :=
  { e with data := byteMerge e.data data mask, valid := e.valid ||| mask, dirty := if mark then e.dirty ||| dirtyOf mask else e.dirty }

/-- Merges fetched bytes, those already valid prevailing (R195). -/
def SoleLine.under (e : SoleLine) (data : BitVec 2048) (mask : BitVec 256) : SoleLine := e.merge data (mask &&& ~~~e.valid) false

end Sys2Proof.Machine
end

