-- ==== Sys2Proof/Machine/Hbm.lean ====
section
/-! DEFINITION. HBM and stored-data protection (R249 to R271): the launch fill, stored units and their codes, reads and writes
of lines, correctable and uncorrectable errors with their tables and repair records, and the scrubbers. -/

namespace Sys2Proof.Machine

/-! ## The launch fill (R257) -/

/-- The unfilled portions of an HBM stack, by device page. -/
def State.unfilledPages (s : State) (h : Nat) : List Nat := smGet [] s.hbm.unfilled h
/-- The LOCATION of the unit at an HBM offset (R263); it is also the unit's address in the code and the tweak (R256, R260). -/
def unitLocation (h x : Nat) : Nat := h * 2 ^ 30 + x / 64
/-- The line of a unit's LOCATION: home stack and line number (R251). -/
def locationLine (loc : Nat) : Nat :=
  let h := loc / 2 ^ 30
  let x := loc % 2 ^ 30 * 64
  h / 2 * 2 ^ 29 + (2 * (x / 4096) + h % 2) * 16 + x % 4096 / 256

/-- The device page of a line of the job that holds its stack. -/
def State.linePage (s : State) (im : Image) (l : Nat) : Option Nat := (s.plan.lineAddr im l).map (· / 2 ^ 21)

/-- One portion is filled with zeros: its units are written with fresh codes (R257, R265). -/
def State.fillPortion (s : State) (h page : Nat) : State :=
  let flips := match (s.jobOn (h / 2)).bind s.job with
    | none => s.hbm.flips
    | some v => smFilter (fun b _ => !(b / 2 ^ 30 == h && s.linePage v.image (locationLine b) == some page)) s.hbm.flips
  { s with hbm.unfilled := smSet [] s.hbm.unfilled h ((s.unfilledPages h).filter (· != page)), hbm.flips := flips }

/-- An access to a unit of an unfilled portion moves the portion to the front and waits until it is filled (R257). -/
def State.touchPortion (s : State) (im : Image) (l : Nat) : State :=
  let h := (lineHbm l).1
  match s.linePage im l with
  | none => s
  | some pg => if (s.unfilledPages h).contains pg then (s.fillPortion h pg).cntHbm (h / 2) 0x178 1 else s

/-! ## HBM units (R256, R258 to R260, R265) -/

/-- The job whose filled footprint holds an HBM unit (R265). -/
def State.unitOwner (s : State) (loc : Nat) : Option Nat :=
  match s.jobOn (loc / 2 ^ 30 / 2) with
  | none => none
  | some j =>
    match s.job j with
    | none => none
    | some v =>
      match s.linePage v.image (locationLine loc) with
      | none => none
      | some pg => if (s.unfilledPages (loc / 2 ^ 30)).contains pg then none else some j

/-- An uncorrectable HBM unit is found, by whichever reader (R265): job-fatal in a filled portion of a job's footprint,
otherwise rewritten; it is logged, and its row is recorded. -/
def State.hbmBad (s : State) (loc : Nat) : State :=
  let k := loc / 2 ^ 30 / 2
  let s0 := s.cntHbm k 0x118 1
  let s1 := match s.unitOwner loc with
    | none => { s0 with hbm.flips := smErase s0.hbm.flips loc }
    | some j => s0.memFault k 0 loc j 0xFFFFFFFF
  (s1.recordRow k loc).markRecorded k 0 loc

/-- The bytes of a unit's plaintext. -/
def State.unitBytes (s : State) (loc : Nat) : List Byte := s.hbm.mem.readBytes (hbmAddr (loc / 2 ^ 30) (loc % 2 ^ 30 * 64)) 64

/-- The 64 bytes that a unit stores: ciphertext under the key of the job whose filled footprint holds it; elsewhere zeros, or
what the destruction of a key has left. -/
def State.storedBytes (s : State) (loc : Nat) : List Byte :=
  match s.unitOwner loc, smFind s.hbm.keys (loc / 2 ^ 30) with
  | some _, some k => xtsEncrypt k.key loc (s.unitBytes loc)
  | _, _ =>
    match smGet 0 s.hbm.residue (loc / 2 ^ 30) with
    | 0 => List.replicate 64 0
    | n => (upTo 64).map (Config.residue n loc)

/-- The unit as its cells hold it: the stored bytes with their code, and the bits that have flipped since. -/
def State.storedUnit (s : State) (loc : Nat) : Stored := encodeUnit loc (s.storedBytes loc) ^^^ smGet 0 s.hbm.flips loc

/-- What a read of a unit decodes to (R260). -/
def State.readUnit (s : State) (loc : Nat) : Decoded :=
  if smHas s.hbm.flips loc then decodeUnit loc (s.storedUnit loc) else .clean

/-- A corrected unit is written back with its code (R262). Where the decoder was misled, the unit now holds other data. -/
def State.mendUnit (s : State) (loc : Nat) (es : List (Nat × Nat)) : State :=
  let now := s.storedUnit loc ^^^ fixMask es
  let s1 := { s with hbm.flips := smErase s.hbm.flips loc }
  if smGet 0 s.hbm.flips loc = fixMask es then s1
  else
    match s.unitOwner loc, smFind s.hbm.keys (loc / 2 ^ 30) with
    | some _, some k => { s1 with hbm.mem := s1.hbm.mem.writeBytes (hbmAddr (loc / 2 ^ 30) (loc % 2 ^ 30 * 64))
                                    (xtsDecrypt k.key loc ((natToBytes 72 now.toNat).take 64)) }
    | _, _ => s1

/-- One unit is read and its code checked (R262, R265): whether its data can be used. -/
def State.checkUnit (s : State) (scrub : Bool) (loc : Nat) : Bool × State :=
  let k := loc / 2 ^ 30 / 2
  match s.readUnit loc with
  | .clean => (true, s)
  | .fixed es =>
    let s1 := (s.mendUnit loc es).correctable k 0 loc
    (true, if scrub then s1.cntHbm k 0x138 1 else s1)
  | .bad => (false, s.hbmBad loc)

/-- Units are read until one cannot be used. -/
def State.checkUnits (s : State) (us : List Nat) : Bool × State :=
  us.foldl (fun r u => if r.1 then r.2.checkUnit false u else r) (true, s)

/-! ## Lines in HBM -/

/-- A line's bytes in HBM. -/
def State.hbmLine (s : State) (l : Nat) : BitVec 2048 :=
  let (h, x) := lineHbm l
  bytesLine (s.hbm.mem.readBytes (hbmAddr h x) 256)

/-- The unit that holds a logical sector of a line. -/
def lineUnit (l k : Nat) : Nat := unitLocation (lineHbm l).1 ((lineHbm l).2 + 64 * k)

/-- Reads logical sectors of a line (R195, R257): an unfilled portion is filled first, and an uncorrectable unit is
handled in place of the read. -/
def State.fetchLine (s : State) (im : Image) (l : Nat) (secs : List Nat) : Option (BitVec 2048) × State :=
  let r := (s.touchPortion im l).checkUnits (secs.map (lineUnit l))
  (if r.1 then some (r.2.hbmLine l) else none, r.2)

/-- Writes the valid bytes of a line's dirty logical sectors back (R196, R268): fully valid sectors without a read, the
others after a merge read; a merge that meets an uncorrectable unit is not written. A written unit has a fresh code. -/
def State.writeBackLine (s : State) (im : Image) (l : Nat) (e : SoleLine) : State :=
  let s1 := s.touchPortion im l
  let secs := (upTo 4).filter (fun k => e.dirty.getLsbD k)
  let sl := s.plan.lineSlice l
  let (h, x) := lineHbm l
  let put := fun (t : State) (k : Nat) =>
    let data := byteMerge (t.hbmLine l) e.data (e.valid &&& sectorBytes k)
    { t with hbm.mem := t.hbm.mem.writeNat (hbmAddr h (x + 64 * k)) 64 (lineField data (64 * k) 64)
             hbm.flips := smErase t.hbm.flips (lineUnit l k) }
  secs.foldl (fun t k =>
    if e.valid &&& sectorBytes k == sectorBytes k then put (t.cntSlice sl 0x178 1) k
    else
      let r := (t.cntSlice sl 0x180 1).checkUnit false (lineUnit l k)
      if r.1 then put r.2 k else r.2) s1

/-! ## Words of the soles (R261, R265) -/

/-- The sectors in which a line's own 256 bytes lie, a long line's part included. -/
def SoleLine.ownSectors (e : SoleLine) (l : Nat) : List Nat :=
  if e.form matches .long then (upTo 4).map ((if e.half then 32 else 0) + 4 * (l % 8) + ·) else e.sectorList

/-- The line that holds a sector of a stack's sole: slice, set and sector. -/
def State.sectorLine (s : State) (k slice set sector : Nat) : Option Nat :=
  (smKeys (fun l e => e.present && lineStack l == k && lineSet l == set && s.plan.lineSlice l == 64 * k + slice &&
    (e.ownSectors l).contains sector) s.sole.lines).head?

/-- The words with flipped bits of a stack's sole, by LOCATION, among those a test selects. -/
def State.soleErrors (s : State) (k : Nat) (p : Nat → Bool) : List Nat :=
  (smKeys (fun n _ => n / 2 ^ 30 == k && p (n % 2 ^ 30)) s.hbm.soleFlips).map (· % 2 ^ 30)

/-- Words of a stack's sole are written: their flipped bits are gone. -/
def State.soleWritten (s : State) (k : Nat) (p : Nat → Bool) : State :=
  { s with hbm.soleFlips := smFilter (fun n _ => !(n / 2 ^ 30 == k && p (n % 2 ^ 30))) s.hbm.soleFlips }

/-- Whether a LOCATION lies in some sectors of a line's set. -/
def State.inSectors (s : State) (l : Nat) (secs : List Nat) (loc : Nat) : Bool :=
  loc / 2 ^ 29 == 0 && loc % 64 == s.plan.lineSlice l % 64 && loc / 64 % 2 ^ 14 == lineSet l && secs.contains (loc / 2 ^ 20 % 64)

/-- Writes a line at its home slice; the words of the sectors it changes have fresh codes. -/
def State.placeLine (s : State) (l : Nat) (e : SoleLine) : State :=
  let old := s.soleLine l
  let had := if old.data == e.data && old.form == e.form && old.valid == e.valid then old.ownSectors l else []
  let fresh := (e.ownSectors l).filter fun k => !had.contains k
  (s.setLine l e).soleWritten (lineStack l) (s.inSectors l fresh)

/-- Flipped data bits that a read leaves in place become the line's data. -/
def State.leaveWord (s : State) (l sector word left : Nat) : State :=
  let e := s.soleLine l
  if left = 0 then s
  else s.setLine l (e.restored (e.stored ^^^ (left * 2 ^ (512 * indexIn sector (e.ownSectors l) + 64 * word))))

/-- Whether a line can be dropped and refetched (R265). -/
def SoleLine.refetchable (e : SoleLine) : Bool := e.full && e.dirty == 0 && !(e.dir matches .br)

/-- The lines that stand or fall with a line: all eight parts of a long one. -/
def State.wholeLine (s : State) (l : Nat) : List Nat := if (s.soleLine l).isLong then blockLines l else [l]

/-- A line is dropped and read from HBM again, its directory entry kept; a line that now fits its set no longer keeps its tag
alone. -/
def State.refetch (s : State) (im : Image) (l : Nat) : Bool × State :=
  match s.fetchLine im l [0, 1, 2, 3] with
  | (none, s1) => (false, s1)
  | (some d, s1) =>
    let s2 := s1.soleWritten (lineStack l) (s.inSectors l ((s.soleLine l).ownSectors l))
    let e := { (s.soleLine l) with data := d }
    (true, s2.setLine l (if d == (s.soleLine l).data then e else (s2.fit l e []).getD { e with valid := 0, sectors := 0, form := .partialLine }))

/-- An uncorrectable word in a sole's arrays (R265, cause 0x05 of R510): LOCATION as R263 codes it. -/
def State.soleBad (s : State) (k loc : Nat) : Bool × State :=
  let ue := s.cntHbm k 0x120 1
  match (s.jobOn k).bind fun j => (s.job j).map fun v => (j, v) with
  | none => if loc / 2 ^ 29 = 1 then (false, ue.stackFatal (BitVec.ofNat 8 (2 ^ k)) 5 (natToBytes 8 k)) else (true, ue)
  | some (j, v) =>
    if loc / 2 ^ 29 = 1 then (false, ue.memFault k 1 loc j 0xFFFFFFFF)
    else
      match s.sectorLine k (loc % 64) (loc / 64 % 2 ^ 14) (loc / 2 ^ 20 % 64) with
      | none => (true, ue)
      | some l =>
        let ls := s.wholeLine l
        if ls.all fun n => (s.soleLine n).refetchable then
          ls.foldl (fun r n => if r.1 then r.2.refetch v.image n else r) (true, (ue.cntHbm k 0x130 1).correctable k 1 loc)
        else (false, ue.memFault k 1 loc j 0xFFFFFFFF)

/-- One word of a sole is read (R261, R262): whether its data can be used. -/
def State.soleWord (s : State) (scrub : Bool) (k loc : Nat) : Bool × State :=
  match readWord 72 64 (smGet 0 s.hbm.soleFlips (2 ^ 30 * k + loc)).toNat with
  | none => s.soleBad k loc
  | some left =>
    let s1 := match s.sectorLine k (loc % 64) (loc / 64 % 2 ^ 14) (loc / 2 ^ 20 % 64) with
      | some l => if loc / 2 ^ 29 = 0 then s.leaveWord l (loc / 2 ^ 20 % 64) (loc / 2 ^ 26 % 8) left else s
      | none => s
    let s2 := ({ s1 with hbm.soleFlips := smErase s1.hbm.soleFlips (2 ^ 30 * k + loc) }).correctable k 1 loc
    (true, if scrub then s2.cntHbm k 0x138 1 else s2)

/-- Words are read until one cannot be used. -/
def State.soleWords (s : State) (scrub : Bool) (k : Nat) (locs : List Nat) : Bool × State :=
  locs.foldl (fun r n => if r.1 then r.2.soleWord scrub k n else r) (true, s)

/-- The sectors of a line are read (R261): whether its data can be used. -/
def State.checkSole (s : State) (scrub : Bool) (l : Nat) : Bool × State :=
  s.soleWords scrub (lineStack l) (s.soleErrors (lineStack l) (s.inSectors l ((s.soleLine l).ownSectors l)))

/-! ## Scrubbing (R266, R267) -/

/-- The AGE_ and LAP_ counters of a scrubber: HBM stacks 0–15, soles 16–23. -/
def scrubStack (n : Nat) : Nat := if n < 16 then n / 2 else n - 16
def scrubAge (n : Nat) : Nat := if n < 16 then 0x160 + 8 * (n % 2) else 0x170
def scrubLap (n : Nat) : Nat := if n < 16 then 0x148 + 8 * (n % 2) else 0x158

def State.hbmCounter (s : State) (k off : Nat) : Nat := Counters.get (smGet [] s.hbm.counters k) off
def State.setHbmCounter (s : State) (k off v : Nat) : State :=
  { s with hbm.counters := smSet [] s.hbm.counters k (smSet 0 (smGet [] s.hbm.counters k) off v) }

/-- The lap limit in always-on cycles (R267, R271). -/
def State.scrubLimit (s : State) : Nat := max 1 (s.reg (indKey 2 4) 0x5A0 % 65536) * 2400000000

/-- How far a scrubber's walk has come: of channel c of HBM stack h under 32 h + c, of sole k under 512 + k. -/
def State.walkAt (s : State) (n : Nat) : Nat := smGet 0 s.hbm.scrubAt n
def State.setWalk (s : State) (n v : Nat) : State := { s with hbm.scrubAt := smSet 0 s.hbm.scrubAt n v }

/-- A lap ends: its time is recorded, and a lap within the limit clears the late bit (R267). -/
def State.lapEnd (s : State) (n : Nat) : State :=
  let k := scrubStack n
  let age := s.hbmCounter k (scrubAge n)
  let s1 := (s.setHbmCounter k (scrubLap n) age).setHbmCounter k (scrubAge n) 0
  if age ≤ s.scrubLimit then { s1 with hbm.late := s.hbm.late &&& ~~~(BitVec.ofNat 24 (2 ^ n)) } else s1

/-- Bits that have flipped in the memories (log entry 163). -/
def State.upset (s : State) : Upset → State
  | .hbm unit bits => { s with hbm.flips := smSet 0 s.hbm.flips unit.toNat (smGet 0 s.hbm.flips unit.toNat ^^^ bits) }
  | .sole stack word bits =>
    let n := 2 ^ 30 * stack.val + word.toNat
    { s with hbm.soleFlips := smSet 0 s.hbm.soleFlips n (smGet 0 s.hbm.soleFlips n ^^^ bits) }
  | .tile word bits =>
    let n := 2 ^ 20 * (word.toNat / 512 % 8) + word.toNat / 4096
    if word.toNat % 512 < 416 then s.updTile (word.toNat % 512) fun x => { x with flips := smSet 0 x.flips n (smGet 0 x.flips n ^^^ bits) }
    else s

/-- Units that a lap reads of each working channel (R266). -/
def channelUnits : Nat := 2 ^ 25
/-- The LOCATION of unit `i` of a working channel, in ascending x (R252, R266). -/
def Plan.walkUnit (p : Plan) (h c i : Nat) : Nat :=
  h * 2 ^ 30 + (i / 32 * (p.channels h).length + indexIn c (p.channels h)) * 32 + i % 32

/-- An HBM stack takes no scrub read and no fill: it refreshes itself (R249), or its compute stack quiesces (R268). -/
def State.hbmHalted (s : State) (h : Nat) : Bool := s.hbm.selfRefresh.getLsbD h || (s.weltStack (h / 2)).quiescing

/-- HBM_SCRUB_READ (R266): the next unit of a working channel is checked; a channel that has been walked waits for the others
to end the lap. -/
def execHbmScrubRead (h : Fin 16) (channel : Fin 32) (upsets : List Upset) (s : State) : Out :=
  let s1 := upsets.foldl State.upset s
  let cs := s1.plan.channels h.val
  let i := s1.walkAt (32 * h.val + channel.val)
  if !(s1.dev.hbmTrained && s1.plan.hbmLive h.val && cs.contains channel.val) || s1.hbmHalted h.val || decide (channelUnits ≤ i) then .next s1
  else
    let s2 := ((s1.setWalk (32 * h.val + channel.val) (i + 1)).checkUnit true (s1.plan.walkUnit h.val channel.val i)).2
    .next (if cs.all fun c => decide (channelUnits ≤ s2.walkAt (32 * h.val + c)) then
      (cs.foldl (fun t c => t.setWalk (32 * h.val + c) 0) s2).lapEnd h.val else s2)

/-- The LOCATIONs that step `i` of a sole's walk covers, of `ss` its live slices: 16 sectors of a set, and after the sectors of
every slice 128 words of the other arrays (R266). -/
def walkWords (ss : List Nat) (i loc : Nat) : Bool :=
  if i < 65536 * ss.length then
    loc / 2 ^ 29 == 0 && loc % 64 == ss.getD (i / 65536) 64 % 64 && loc / 64 % 2 ^ 14 == i / 4 % 2 ^ 14 && loc / 2 ^ 20 % 64 / 16 == i % 4
  else
    let n := i - 65536 * ss.length
    loc / 2 ^ 29 == 1 && loc % 64 == ss.getD (n / Config.arrayReads) 64 % 64 && loc / 64 % 2 ^ 20 / 128 == n % Config.arrayReads

/-- Whether a walk of a sole goes on after `i` steps. -/
def walkMore (ss : List Nat) (i : Nat) : Bool := decide (i < 65536 * ss.length) || decide (i < (65536 + Config.arrayReads) * ss.length)

/-- SOLE_SCRUB_READ (R266): 16 sectors of a stack's sole are checked; those of a line in BR are read once its episode has
closed. -/
def execSoleScrubRead (stack : Fin 8) (upsets : List Upset) (s : State) : Out :=
  let k := stack.val
  let s1 := upsets.foldl State.upset s
  let ss := s1.plan.stackSlices k
  let i := s1.walkAt (512 + k)
  if ss.isEmpty || !s1.dev.stackUp.getLsbD k || (s1.weltStack k).quiescing then .next s1
  else
    let inBr := fun (l : Nat) (e : SoleLine) => (e.dir matches .br) && (e.ownSectors l).any fun c =>
      walkWords ss i (s1.plan.lineSlice l % 64 + 64 * lineSet l + 2 ^ 20 * c) && lineStack l == k
    let br := smKeys inBr s1.sole.lines
    let later := fun loc => br.any fun l => s1.inSectors l ((s1.soleLine l).ownSectors l) loc
    let s2 := { s1 with hbm.passed := s1.hbm.passed.filter (!br.contains ·) ++ br }
    let s3 := (s2.soleErrors k fun loc => walkWords ss i loc && !later loc).foldl (fun t n => (t.soleWord true k n).2) s2
    .next (if walkMore ss (i + 1) then s3.setWalk (512 + k) (i + 1) else (s3.setWalk (512 + k) 0).lapEnd (16 + k))

/-- The sole scrubber reads the sectors of a line that it passed over (R266). -/
def State.scrubPassed (s : State) (l : Nat) : State :=
  if s.hbm.passed.contains l then
    let s1 := { s with hbm.passed := s.hbm.passed.filter (· != l) }
    (s1.soleErrors (lineStack l) (s1.inSectors l ((s1.soleLine l).ownSectors l))).foldl (fun t n => (t.soleWord true (lineStack l) n).2) s1
  else s

/-- SCRUB_LATE (R267): the late bit is set once the lap's age exceeds the limit. -/
def execScrubLate (scrubber : Fin 24) (s : State) : Out :=
  let n := scrubber.val
  .next (if s.scrubLimit < s.hbmCounter (scrubStack n) (scrubAge n) then
    { s with hbm.late := s.hbm.late ||| BitVec.ofNat 24 (2 ^ n) } else s)

/-- LAUNCH_FILL_PORTION (R257): the portion at the front of an HBM stack's fill is filled. -/
def execLaunchFillPortion (h : Fin 16) (s : State) : Out :=
  .next (match s.unfilledPages h.val with
    | [] => s
    | p :: _ => if s.hbmHalted h.val then s else s.fillPortion h.val p)

/-! ## The controllers (R308, R310) -/

/-- Lines whose fetch waits at or is queued in the controller of an HBM stack. -/
def State.fetchesAt (s : State) (h : Nat) : SMap SoleLine :=
  smFilter (fun l e => (lineHbm l).1 == h && e.txn.any fun t => t.fetching) s.sole.lines

/-- A controller has a read queue slot for a request (R308): two of its slots serve class 7 in budget alone. -/
def State.slotFree (s : State) (h : Nat) (hd : Hdr) : Bool :=
  decide (((s.fetchesAt h).filter fun e => e.2.txn.any fun t => t.slot).length + (if hd.cls = 7 && !hd.demoted then 0 else 2) <
    Config.moreReadSlots h + 3)

/-- A class-7 read is queued for a bank of a channel (R310). -/
def State.class7Queued (s : State) (h c b : Nat) : Bool :=
  (s.fetchesAt h).any fun e => (e.2.txn.any fun t => t.slot && t.ask.hdr.cls == 7) &&
    s.plan.channelOf h (lineHbm e.1).2 == c && Config.hbmBank (lineUnit e.1 0) == BitVec.ofNat 8 b

/-- HBM_REFRESH (R249, R310): a per-bank refresh starts on a bank of a pseudo-channel that holds no queued class-7 read. -/
def execHbmRefresh (h : Fin 16) (channel : Fin 32) (pseudo : Fin 2) (bank : BitVec 7) (s : State) : Out :=
  let k := 2 ^ 7 * pseudo.val + bank.toNat
  let b := 2 ^ 13 * h.val + 2 ^ 8 * channel.val + k
  .next (if s.class7Queued h.val channel.val k || !s.dev.hbmTrained || s.hbm.selfRefresh.getLsbD h.val ||
      !(s.plan.channels h.val).contains channel.val then s
    else { s with hbm.refreshing := b :: s.hbm.refreshing.filter (fun x => x / 2 ^ 7 != b / 2 ^ 7) })

end Sys2Proof.Machine
end

