-- ==== Sys2Proof/Machine/Sole.lean ====
section
/-! DEFINITION. The sole (R180 to R222): room in a set and eviction, fills, the directory protocol of R202, reductions,
tacks, the thrash monitor, and the whole accesses that agents other than the tiles make. A request on a line is served
in steps: recalls, then the fetch of the bytes it needs, then its effect. With `now` the steps of a request run together. -/

namespace Sys2Proof.Machine

/-! ## Small steps on lines -/

/-- The job that holds the stack of a line. -/
def State.lineJob (s : State) (l : Nat) : Option (Nat × Job) := s.jobHolding (lineStack l)

def State.cntLine (s : State) (l off n : Nat) : State := s.cntSlice (s.plan.lineSlice l) off n
def State.updLine (s : State) (l : Nat) (f : SoleLine → SoleLine) : State := s.setLine l (f (s.soleLine l))
def State.send (s : State) (m : NetMsg) : State := { s with sole.net := s.sole.net ++ [m] }

/-- Bytes are merged into a line at its home slice. -/
def State.mergeLine (s : State) (l : Nat) (data : BitVec 2048) (mask : BitVec 256) : State :=
  s.placeLine l ((s.soleLine l).merge data mask true)

/-- A request is served from a line (R198). -/
def State.touchLine (s : State) (l : Nat) : State :=
  let n := s.sole.stamp + 1
  let s1 := { s with sole.stamp := n }
  if (s.soleLine l).isLong then (blockLines l).foldl (fun t k => t.updLine k fun e => { e with recency := n }) s1
  else s1.updLine l fun e => { e with recency := n }

/-- A line's tag is freed; requests that wait on it stay queued. -/
def State.freeLine (s : State) (l : Nat) : State :=
  s.updLine l fun e => { SoleLine.absent with queue := e.queue }

/-- A fill's waits and its demotion are over (R190, R199). -/
def State.doneWaiting (s : State) (l : Nat) : State :=
  { s with
    sole.waiting := s.sole.waiting.filter (· != l), sole.stuck := s.sole.stuck.filter (· != l)
    sole.demoted := s.sole.demoted.filter (· != l) }

/-! ## L1 copies (R197, R201) -/

/-- The header of a line that a tile's L1 does not hold. -/
def L1Line.absent : L1Line := ⟨0, 0, 0, false, Hdr.zero⟩
def State.l1Line (s : State) (t l : Nat) : L1Line := smGet L1Line.absent (s.tile t).l1 l

/-- Reads bytes of a line of a tile's L1 (R265): whether they can be used. A clean line with a word that cannot be is dropped,
to be fetched again; with dirty bytes it ends the job. -/
def State.l1Read (s : State) (im : Image) (t l : Nat) (mask : BitVec 256) : Bool × State :=
  if (s.tile t).flips.isEmpty then (true, s)
  else
    match s.tileWords t im.nR im.share (inL1 t im.share l mask) with
    | (none, s1) => (true, s1)
    | (some n, s1) =>
      if (s1.l1Line t l).dirty ≠ 0 then (false, s1.tileBad t n)
      else
        let s2 := s1.updTile t fun x => { x.written (inL1 t im.share l allBytes) with l1 := smErase x.l1 l }
        (false, (s2.cntHbm (t / 52) 0x130 1).correctable (t / 52) 2 (tileLocation t n))

/-- Bytes of a line of a tile's L1 are written. -/
def State.l1Write (s : State) (im : Image) (t l : Nat) (c : L1Line) (mask : BitVec 256) : State :=
  s.updTile t fun x => { x.written (inL1 t im.share l mask) with l1 := smPut x.l1 l c }

/-- Takes a tile's dirty bytes of a line (R201): bytes, mask and the line's header, and the L1 without the line, or with it
clean. Bytes that cannot be used are not forwarded (R265). -/
def State.l1Recall (s : State) (im : Image) (t l : Nat) (invalidate : Bool) : BitVec 2048 × BitVec 256 × State :=
  match smFind (s.tile t).l1 l with
  | none => (0, 0, s)
  | some c =>
    let r := if c.dirty = 0 then (true, s) else s.l1Read im t l c.dirty
    let d := r.2.l1Line t l
    let s1 := r.2.updTile t fun x =>
      { x with l1 := if invalidate then smErase x.l1 l else smMap (fun n c => if n = l then { c with dirty := 0, owned := false } else c) x.l1 }
    if r.1 then (d.data, d.dirty, s1) else (0, 0, s1)

/-- Recalls a line from some tiles at once, merging their dirty bytes (R202). -/
def State.recallNow (s : State) (im : Image) (l : Nat) (invalidate : Bool) (ts : List Nat) : State :=
  (ts.foldl (fun s t =>
    let (d, m, s1) := s.l1Recall im t l invalidate
    s1.mergeLine l d m) s).cntLine l 0x1A8 ts.length

/-- Write-backs that recalled tiles have sent, and that wait at the home slice, are merged (R204). -/
def State.mergeQueued (s : State) (l : Nat) (ts : List Nat) : State :=
  let mine := fun (a : Asked) => match a.req with | .putm t _ _ => ts.contains t.val | _ => false
  let q := (s.soleLine l).queue
  (q.filter mine).foldl (fun s a => match a.req with
    | .putm t d m => (s.mergeLine l d m).send (.ack (.l1 t) (BitVec.ofNat 32 l) a.hdr)
    | _ => s) (s.updLine l fun e => { e with queue := q.filter fun a => !mine a })

/-- Sends recalls of a line to some tiles, on behalf of a request (R299). -/
def State.sendRecalls (s : State) (l : Nat) (invalidate : Bool) (ts : List Nat) (hdr : Hdr) : State :=
  let s1 := s.mergeQueued l ts
  ({ s1 with sole.net := s1.sole.net ++ ts.filterMap fun t =>
      if h : t < 416 then some (NetMsg.recall ⟨t, h⟩ (BitVec.ofNat 32 l) invalidate hdr) else none }).cntLine l 0x1A8 ts.length

/-- A message that brings a line to or from a tile. -/
def NetMsg.moves (l : Nat) : NetMsg → Bool
  | .request n a => n.toNat == l && (match a.req with | .putm _ _ _ => true | _ => false)
  | .answer _ n _ _ _ | .fill _ n _ _ _ _ | .grant _ n _ => n.toNat == l
  | .recall .. | .ncData .. | .ack .. => false

/-- No message that brings a line to or from a tile is on its way. -/
def State.quiet (s : State) (l : Nat) : Bool := !s.sole.net.any (NetMsg.moves l)

/-! ## Room and eviction (R190, R196, R198) -/

/-- A line whose eviction is under way. -/
def SoleLine.goes (e : SoleLine) : Bool := e.txn.any fun t => t.ask.req == .evict
/-- Lines of a set whose eviction is under way. -/
def State.leaving (s : State) (ls : List Nat) : List Nat := ls.filter fun k => (s.soleLine k).goes

/-- The victim among lines (R198): without L1 copies first, then the least recently accessed. -/
def State.bestVictim (s : State) : List Nat → Option Nat → Option Nat
  | [], b => b
  | k :: ks, none => s.bestVictim ks (some k)
  | k :: ks, some b =>
    let x := s.soleLine k
    let y := s.soleLine b
    let xi := x.dir matches .i
    let yi := y.dir matches .i
    s.bestVictim ks (some (if (xi && !yi) || (xi == yi && decide (x.recency < y.recency)) then k else b))

/-- Lines that can be evicted: untacked, not in BR, nothing in progress; a long line with all its parts (R198). With `now`,
no copy of them is on its way. -/
def State.evictable (s : State) (now : Bool) (k : Nat) : Bool :=
  (s.wholeLine k).all fun n => !(s.soleLine n).tack && (s.soleLine n).idle && (!now || s.quiet n)

/-- A part of an evicted line needs nothing more (R196): a short line's tag is freed, a long line's once that holds of all
eight parts. -/
def State.leftLine (s : State) (l : Nat) (hdr : Hdr) : State :=
  if (s.soleLine l).isLong then
    let s1 := s.updLine l fun e => { e with txn := some ⟨⟨.evict, hdr⟩, [], false, false⟩, evicting := true, dirty := 0 }
    if (blockLines l).all fun k => (s1.soleLine k).evicting && (s1.soleLine k).dirty == 0 then (blockLines l).foldl State.freeLine s1
    else s1
  else s.freeLine l

/-- A line's dirty bytes go to HBM (R196), once its own words have been read (R265). -/
def State.writeBack (s : State) (im : Image) (l : Nat) : State :=
  let r := s.checkSole false l
  if r.1 then r.2.writeBackLine im l (r.2.soleLine l) else r.2

/-- A slice's peak of tracked requests (R221). -/
def State.notePeak (s : State) (l more : Nat) : State :=
  let k := s.plan.lineSlice l
  let n := s.sliceEntries k + more
  if (s.slice k).peak < n then s.setSlice k { s.slice k with peak := n } else s

/-- Starts, or with `now` completes, the eviction of one 256-byte line on behalf of a request (R196, R202, R299). -/
def State.evictOne (s : State) (im : Image) (now : Bool) (hdr : Hdr) (l : Nat) : State :=
  let e := s.soleLine l
  let cs := s.plan.copies l e none
  if now then ((s.recallNow im l true cs).writeBack im l).leftLine l hdr
  else if !cs.isEmpty then
    ((s.updLine l fun e => { e with txn := some ⟨⟨.evict, hdr⟩, cs, false, false⟩ }).notePeak l 0).sendRecalls l true cs hdr
  else if e.dirty = 0 then s.leftLine l hdr
  else (s.updLine l fun e => { e with txn := some ⟨⟨.evict, hdr⟩, [], false, false⟩, evicting := true }).notePeak l 0

/-- Evicts a victim, all of it. -/
def State.evict (s : State) (im : Image) (now : Bool) (hdr : Hdr) (k : Nat) : State :=
  (s.wholeLine k).foldl (fun t l => t.evictOne im now hdr l) (s.cntLine k 0x1B0 1)

/-- Finds room for a line, evicting victims until enough is free or will be (R198): the line as placed, and whether
nothing more can be evicted. -/
def State.room (im : Image) (now : Bool) (l : Nat) (e : SoleLine) (hdr : Hdr) : Nat → State → Option SoleLine × Bool × State
  | 0, s => (none, true, s)
  | f + 1, s =>
    match s.fit l e [] with
    | some e' => (some e', false, s)
    | none =>
      let ls := s.setLines l
      if (s.fit l e (s.leaving ls)).isSome then (none, false, s)
      else
        match s.bestVictim (ls.filter (fun k => k != l && s.evictable now k)) none with
        | none => (none, true, s)
        | some v => State.room im now l e hdr f (s.evict im now hdr v)

/-- A line waits for room (R199); the first wait of a fill that no eviction can end is counted. -/
def State.waitRoom (s : State) (l : Nat) (stuck : Bool) : State :=
  let s1 := { s with sole.waiting := l :: s.sole.waiting.filter (· != l) }
  if stuck && !s.sole.stuck.contains l then { (s1.cntLine l 0x1A0 1) with sole.stuck := l :: s.sole.stuck } else s1

/-! ## AUTO records (R189, R192) -/

/-- LMODE of a page: 0 AUTO, 1 COMPRESS, 2 LONG. -/
def Image.lmode (im : Image) (page : Nat) : Nat := smGet 0 im.lmodes page
def AutoRecord.zero : AutoRecord := AutoRecord.reset
def State.autoRec (s : State) (k page : Nat) : AutoRecord := smGet AutoRecord.reset s.sole.autoPages (2 ^ 19 * k + page)
def State.setAuto (s : State) (k page : Nat) (r : AutoRecord) : State :=
  { s with sole.autoPages := smSet AutoRecord.reset s.sole.autoPages (2 ^ 19 * k + page) r }

/-- Whether fills of a line's page are long. -/
def State.fillsLong (s : State) (im : Image) (l : Nat) : Bool :=
  match s.linePage im l with
  | none => false
  | some pg => im.lmode pg == 2 || (im.lmode pg == 0 && (s.autoRec (lineStack l) pg).long)

/-- Counts a fill made from HBM for a read or a prefetch in an AUTO page (R192): `good` is RAW for a short line, and eight
lines in 21 sectors or fewer for a long one. -/
def State.autoCount (s : State) (im : Image) (l : Nat) (long good : Bool) : State :=
  let k := lineStack l
  match s.linePage im l with
  | none => s
  | some pg =>
    let r := s.autoRec k pg
    if im.lmode pg ≠ 0 || r.long != long then s
    else if !long then
      if !good then s.setAuto k pg { r with runLow := 0 }
      else if r.runLow + 1 < 64 then s.setAuto k pg { r with runLow := r.runLow + 1 }
      else { (s.setAuto k pg ⟨true, 0, 0⟩) with sole.toLong := smSet 0 s.sole.toLong k (smGet 0 s.sole.toLong k + 1) }
    else
      if !good then s.setAuto k pg { r with runHigh := 0 }
      else if r.runHigh + 1 < 64 then s.setAuto k pg { r with runHigh := r.runHigh + 1 }
      else { (s.setAuto k pg ⟨false, 0, 0⟩) with sole.toShort := smSet 0 s.sole.toShort k (smGet 0 s.sole.toShort k + 1) }

/-! ## Fills (R190 to R195) -/

/-- The half a long fill takes (R190): none where both hold a tacked sector. -/
def State.longHalf (s : State) (l : Nat) : Option Bool :=
  let ls := s.setLines l
  let tacked := (ls.filter (fun k => (s.soleLine k).tack)).foldl (fun m k => m ||| (s.soleLine k).sectors) 0
  let used := s.usedSectors ls []
  let free := fun h => tacked &&& halfMask h == 0
  let n := fun h => maskCount (used &&& halfMask h)
  if free false && (!free true || decide (n false ≤ n true)) then some false
  else if free true then some true else none

/-- Lines of other blocks with a sector in a half. -/
def State.inHalf (s : State) (l : Nat) (h : Bool) : List Nat :=
  (s.setLines l).filter fun k => k / 8 != l / 8 && (s.soleLine k).sectors &&& halfMask h != 0

/-- Whether a line's block holds a tacked short line. -/
def State.blockTacked (s : State) (l : Nat) : Bool :=
  (blockLines l).any fun k => (s.soleLine k).present && (s.soleLine k).tack && !(s.soleLine k).isLong

/-- Reads lines from HBM, in order; none where one meets an uncorrectable unit. -/
def State.fetchBlock (im : Image) : List Nat → State → Option (List (Nat × BitVec 2048)) × State
  | [], s => (some [], s)
  | l :: ls, s =>
    match s.fetchLine im l [0, 1, 2, 3] with
    | (none, s1) => (none, s1)
    | (some d, s1) =>
      match State.fetchBlock im ls s1 with
      | (none, s2) => (none, s2)
      | (some ds, s2) => (some ((l, d) :: ds), s2)

/-- Writes a long line into a half (R193): held bytes, dirty bits and directory entries prevail. -/
def State.putLong (s : State) (h : Bool) (ds : List (Nat × BitVec 2048)) : State :=
  ds.foldl (fun t p => t.placeLine p.1
    { ((t.soleLine p.1).under p.2 allBytes) with valid := allBytes, form := .long, half := h, sectors := halfMask h, present := true }) s

/-- The line whose eviction would free a tag for a long fill, where only a tag lacks (R198). -/
def State.tagVictim (s : State) (now : Bool) (l : Nat) : Option Nat :=
  s.bestVictim ((s.setLines l).filter fun k => k / 8 != l / 8 && s.evictable now k) none

/-- Why a long fill cannot be made yet: lines in the half it takes, no tag, or a line of its block that is being evicted. -/
def State.tagsFull (s : State) (l : Nat) : Bool := decide (32 ≤ s.usedTags (s.setLines l) (blockLines l))
def State.blockGoes (s : State) (l : Nat) : Bool := (blockLines l).any fun k => (s.soleLine k).goes

/-- A long fill that no eviction can make possible (R190, R199). -/
def State.longStuck (s : State) (now : Bool) (l : Nat) (h : Bool) : Bool :=
  let out := s.inHalf l h
  out.any (fun k => !s.evictable now k && !(s.wholeLine k).any fun n => (s.soleLine n).goes) ||
    (out.isEmpty && s.tagsFull l && (s.leaving (s.setLines l)).isEmpty && (s.tagVictim now l).isNone)

/-- A long fill of a line's block (R190, R193): some: filled, or the access met an uncorrectable unit; none: it waits,
with whether an eviction it needs cannot begin. The requested line is fetched first (R310); the eviction of a line in BR is
deferred (R209). `reads` counts its fetches as a read's (R195), `counts` its form for AUTO (R192). -/
def State.longFill (s : State) (im : Image) (now : Bool) (hdr : Hdr) (l : Nat) (h reads counts : Bool) : Option State × Bool × State :=
  let out := s.inHalf l h
  if out.isEmpty && !s.tagsFull l && !s.blockGoes l then
    match s.fetchBlock im (l :: (blockLines l).filter (· != l)) with
    | (none, s1) => (some s1, false, s1)
    | (some ds, s1) =>
      let n := (ds.map (fun p => (compressLine p.2).2)).foldl (· + ·) 0
      let s2 := ((s1.putLong h ds).cntLine l 0x158 1).touchLine l
      let s3 := if reads then s2.cntLine l 0x188 32 else s2
      let s4 := if counts then s3.autoCount im l true (decide (n ≤ 21)) else s3
      (some s4, false, s4)
  else
    let free := (out.filter (s.evictable now)).filter (fun k => !(s.soleLine k).isLong || k % 8 == 0)
    let barred := out.filter fun k => ((s.soleLine k).dir matches .br) && !(s.soleLine k).deferred
    let s1 := barred.foldl (fun t k => (t.updLine k fun e => { e with deferred := true }).cntLine k 0x198 1) s
    let extra := if out.isEmpty && s.tagsFull l && (s.leaving (s.setLines l)).isEmpty then (s.tagVictim now l).toList else []
    (none, s.longStuck now l h, (free ++ extra).foldl (fun t k => t.evict im now hdr k) s1)

/-- The class counter of a fill (R222). -/
def classCounter : Form → Nat
  | .zero => 0x130 | .repeated => 0x138 | .narrow => 0x140 | .expdelta => 0x148 | _ => 0x150

/-- Fills an absent line as a short line (R195), counted as it compresses unless it is filled to be tacked (R184): as
`longFill` answers. -/
def State.shortFill (s : State) (im : Image) (now : Bool) (hdr : Hdr) (l : Nat) (isTack reads counts : Bool) : Option State × Bool × State :=
  match s.fetchLine im l [0, 1, 2, 3] with
  | (none, s1) => (some s1, false, s1)
  | (some d, s1) =>
    let e := { (s1.soleLine l) with data := d, valid := allBytes, dirty := 0, dir := .i, tack := isTack }
    match State.room im now l e hdr 40 s1 with
    | (none, stuck, s2) => (none, stuck, s2)
    | (some e', _, s2) =>
      let s3 := (s2.placeLine l e').touchLine l
      let s4 := if reads then s3.cntLine l 0x188 4 else s3
      let s5 := if isTack then s4 else ((s4.cntLine l 0x120 1).cntLine l 0x128 (maskCount e'.sectors)).cntLine l (classCounter e'.form) 1
      let s6 := if counts then s5.autoCount im l false (decide (e'.form = .raw)) else s5
      (some s6, false, s6)

/-- A long fill is demoted (R190): counted once. -/
def State.demote (s : State) (l : Nat) : State :=
  if s.sole.demoted.contains l then s else { (s.cntLine l 0x170 1) with sole.demoted := l :: s.sole.demoted }

/-- Fills an absent line, long or short (R189, R190, R193), or in the form that its tack covers (R210). -/
def State.fillLine (s : State) (im : Image) (now : Bool) (hdr : Hdr) (l : Nat) (tack : Option Bool) (reads : Bool) : Option State × Bool × State :=
  if tack.getD (s.fillsLong im l) && !s.blockTacked l then
    match s.longHalf l with
    | some h =>
      match s.longFill im now hdr l h reads reads with
      | (none, false, s1) => if now then s1.longFill im now hdr l h reads reads else (none, false, s1)
      | r => r
    | none => (s.demote l).shortFill im now hdr l tack.isSome reads false
  else s.shortFill im now hdr l tack.isSome reads reads

/-- A streaming prefetch of the block after a line (R191), with the header of the demand (R299). One whose fill would have to
wait, or whose slice has no free entry, is dropped. -/
def State.prefetch (s : State) (im : Image) (hdr : Hdr) (l : Nat) : State :=
  let p := (l / 8 + 1) * 8
  if lineStack p ≠ lineStack l || (s.plan.lineAddr im p).isNone || !s.fillsLong im p ||
      (blockLines p).any (fun k => (s.soleLine k).present || !(s.soleLine k).idle) then s
  else
    match s.longHalf p with
    | none => s.cntLine p 0x168 1
    | some h =>
      if s.longStuck false p h || decide (2048 ≤ s.sliceEntries (s.plan.lineSlice p)) then s.cntLine p 0x168 1
      else (s.updLine p fun e => { e with txn := some ⟨⟨.prefetch, hdr⟩, [], true, s.slotFree (lineHbm p).1 hdr⟩ }).notePeak p 0

/-! ## Reductions (R142, R206, R208) -/

/-- Bytes of a reduction's operand in memory. -/
def redSize (op : AtomicOp) (fmt : Nat) : Nat := if op = .awadd then 16 else if fmt = 1 || fmt = 2 then 2 else 4

/-- The operations and formats of the sole reductions (R68). -/
def redAccepts (op : AtomicOp) (fmt : Nat) : Bool :=
  match op with
  | .afadd => fmt < 3
  | .awadd => fmt = 14
  | .amin | .amax => fmt < 3 || fmt = 11
  | _ => fmt = 11

/-- One operation on the old value (R142): the new value and the exceptions of a floating-point add. -/
def atomStep (op : AtomicOp) (fmt old v : Nat) : Nat × Exc :=
  let a : Word := BitVec.ofNat 32 old
  let b : Word := BitVec.ofNat 32 v
  match op with
  | .aadd => ((a + b).toNat, 0)
  | .amin => (if fmt < 3 then fpMinMax fmt false old (v % 2 ^ fmtBits fmt) else (if Word.int b < Word.int a then b else a).toNat, 0)
  | .amax => (if fmt < 3 then fpMinMax fmt true old (v % 2 ^ fmtBits fmt) else (if Word.int a < Word.int b then b else a).toNat, 0)
  | .aminu => ((if b.toNat < a.toNat then b else a).toNat, 0)
  | .amaxu => ((if a.toNat < b.toNat then b else a).toNat, 0)
  | .aand => ((a &&& b).toNat, 0)
  | .aor => ((a ||| b).toNat, 0)
  | .axor => ((a ^^^ b).toNat, 0)
  | .afadd => fpAdd fmt 0 old (v % 2 ^ fmtBits fmt)
  | .awadd => (((Wp96.decode old).add (Wp96.decode v)).encode, 0)
  | .acas => (if a = b then v / 2 ^ 32 % 2 ^ 32 else old, 0)
  | .aexch => (b.toNat, 0)

/-- Applies a request's operands in ascending lane order (R143, R208): the line, exceptions, and each lane's old value. -/
def redApplyList (op : AtomicOp) (fmt : Nat) : List RedOperand → BitVec 2048 → BitVec 2048 × Exc × List (Nat × BitVec 128)
  | [], d => (d, 0, [])
  | o :: os, d =>
    let n := redSize op fmt
    let old := lineField d o.offset.val n
    let (v, x) := atomStep op fmt old o.operand.toNat
    let (d', x', rs) := redApplyList op fmt os (byteMerge d (lineOf o.offset.val n v) (byteRange o.offset.val n))
    (d', x ||| x', (o.lane.val, BitVec.ofNat 128 old) :: rs)

/-- The bytes a reduction touches. -/
def redMask (r : RedRequest) : BitVec 256 :=
  r.operands.foldl (fun m o => m ||| byteRange o.offset.val (redSize r.op r.fmt.toNat)) 0

/-- A well-formed request: an accepted operation on naturally aligned operands inside the line, at most 64 bytes of it (R207). -/
def redOk (r : RedRequest) : Bool :=
  redAccepts r.op r.fmt.toNat && (r.operands.all fun o =>
    decide (o.offset.val % redSize r.op r.fmt.toNat = 0) && decide (o.offset.val + redSize r.op r.fmt.toNat ≤ 256)) &&
  decide ((r.operands.map fun o => o.offset.val).eraseDups.length * redSize r.op r.fmt.toNat ≤ 64)

/-! ## Serving a request (R202) -/

def isThread : Sender → Bool
  | .thread _ => true
  | _ => false

/-- The recalls a request needs, and whether they invalidate. -/
def State.recallsOf (s : State) (l : Nat) (r : Request) : Bool × List Nat :=
  let e := s.soleLine l
  let owned := (e.dir matches .e) || (e.dir matches .m)
  match r with
  | .gets t _ => (false, if owned then s.plan.copies l e (some t.val) else [])
  | .getm t => (true, s.plan.copies l e (some t.val))
  | .ncrd _ _ => (false, if owned then s.plan.copies l e none else [])
  | .ncwr _ _ _ | .red _ | .evict => (true, s.plan.copies l e none)
  | .putm _ _ _ | .tack _ | .untack | .prefetch => (false, [])

/-- The bytes a request needs valid. -/
def needOf : Request → BitVec 256
  | .gets _ n | .ncrd _ n => n
  | .red r => redMask r
  | _ => 0

/-- The form that a TACK covers. -/
def Request.tackForm : Request → Option Bool
  | .tack b => some b
  | _ => none

/-- The line after a request's effect (R202). -/
def SoleLine.after (e : SoleLine) (l : Nat) (a : Asked) : SoleLine :=
  match a.req with
  | .gets t _ =>
    match e.dir with
    | .i => { e.noCopies with dir := .e, owner := t }
    | .s => e.share l t.val
    | .e | .m => if e.owner = t then e else ({ e.noCopies with dir := .s }.share l e.owner.val).share l t.val
    | .br => e
  | .getm t => { e.noCopies with dir := .m, owner := t }
  | .putm t d m => if ((e.dir matches .e) || (e.dir matches .m)) && e.owner == t then (e.merge d m true).noCopies else e
  | .ncrd _ _ => if (e.dir matches .e) || (e.dir matches .m) then { e.noCopies with dir := .s }.share l e.owner.val else e
  | .ncwr _ d m => (e.merge d m true).noCopies
  | .red _ => { e.noCopies with dir := .br, applied := 0, queue := a :: e.queue }
  | .tack _ => { e with tack := true }
  | .untack => { e with tack := false }
  | .evict | .prefetch => e

/-- What a request's sender receives (R201, R205, R299): bytes, a grant or an acknowledgement. What a sender that is no thread
reads is the model's observable, and its request is complete. -/
def State.replies (s : State) (l : Nat) (was : Dir) (e : SoleLine) (a : Asked) : State :=
  let ln := BitVec.ofNat 32 l
  match a.req with
  | .gets t _ => s.send (.fill t ln e.data e.valid (was matches .i) a.hdr)
  | .getm t => s.send (.grant t ln a.hdr)
  | .putm t _ _ => s.send (.ack (.l1 t) (BitVec.ofNat 32 l) a.hdr)
  | .ncrd src _ =>
    if isThread src then s.send (.ncData src ln e.data a.hdr)
    else { s with host.lastRead := lineBytes e.data }.replied a.hdr
  | .ncwr src _ _ => s.send (.ack src (BitVec.ofNat 32 l) a.hdr)
  | _ => s

/-- The tack bit of a long line covers all eight of its lines (R210). -/
def State.tackBlock (s : State) (l : Nat) (r : Request) : State :=
  if (s.soleLine l).isLong && (r.tackForm.isSome || decide (r = .untack)) then
    (blockLines l).foldl (fun t k => t.updLine k fun e => { e with tack := r.tackForm.isSome }) s
  else s

/-- The effect of a request whose recalls and bytes are there; it waits where the line does not fit its set. -/
def State.conclude (s : State) (im : Image) (now : Bool) (l : Nat) (a : Asked) : State :=
  let e := s.soleLine l
  let held := if decide (a.req = .untack) && !e.tack then e else e.after l a
  match (if held.present || held.valid != 0 || held.dir != .i then State.room im now l held a.hdr 40 s else (some held, false, s)) with
  | (none, stuck, s1) => (s1.updLine l fun e => { e with txn := some ⟨a, [], false, false⟩ }).waitRoom l stuck
  | (some e', _, s1) =>
    let s2 := (s1.placeLine l { e' with txn := none, queue := held.queue }).touchLine l
    let s3 := (s2.doneWaiting l).tackBlock l a.req
    let s4 := match a.req with | .red _ => s3.cntLine l 0x190 1 | _ => if now then s3 else s3.replies l e.dir e' a
    match a.req with
    | .gets _ _ | .ncrd _ _ => if e'.isLong && decide (4 ≤ l % 8) then s4.prefetch im a.hdr l else s4
    | _ => s4

/-- The prefetch of a line's block has its data, or is dropped (R191). -/
def State.prefetched (s : State) (im : Image) (l : Nat) (a : Asked) : State :=
  let clear := fun (t : State) => t.updLine l fun e => { e with txn := none }
  match s.longHalf l with
  | none => (clear s).cntLine l 0x168 1
  | some h =>
    match s.longFill im false a.hdr l h false true with
    | (some s1, _, _) => if (s1.soleLine l).present then (clear s1).cntLine l 0x160 1 else clear s1
    | (none, true, s1) => (clear s1).cntLine l 0x168 1
    | (none, false, s1) => (s1.updLine l fun e => { e with txn := some ⟨a, [], true, false⟩ }).waitRoom l false

/-- The fetch a request waits for (R195): its fill or merge, then its effect. -/
def State.fetched (s : State) (im : Image) (now : Bool) (l : Nat) (a : Asked) : State :=
  let e := s.soleLine l
  let isRead := match a.req with | .gets _ _ | .ncrd _ _ => true | _ => false
  let whole := !e.present && !(match a.req with | .red _ => true | _ => false)
  if decide (a.req = .prefetch) then s.prefetched im l a
  else if whole then
    match s.fillLine im now a.hdr l a.req.tackForm isRead with
    | (none, stuck, s1) => (s1.updLine l fun e => { e with txn := some ⟨a, [], true, false⟩ }).waitRoom l stuck
    | (some s1, _, _) => if (s1.soleLine l).present then s1.conclude im now l a else s1.updLine l fun e => { e with txn := none }
  else
    let secs := sectorsOf (needOf a.req &&& ~~~e.valid)
    match s.fetchLine im l secs with
    | (none, s1) => s1.updLine l fun e => { e with txn := none }
    | (some d, s1) =>
      let m := wholeSectors (needOf a.req &&& ~~~e.valid)
      ((s1.updLine l fun e => e.under d m).cntLine l 0x188 secs.length).conclude im now l a

/-- The bytes a request needs, once recalls are in: fetched through a read queue slot of the controller (R308), or its effect
at once. -/
def State.proceed (s : State) (im : Image) (now : Bool) (l : Nat) (a : Asked) : State :=
  let e := s.soleLine l
  let fetch := match a.req with
    | .gets _ n | .ncrd _ n => !e.present || (n &&& ~~~e.valid != 0)
    | .red q => redMask q &&& ~~~e.valid != 0
    | .tack _ => !e.present
    | _ => false
  if !fetch then s.conclude im now l a
  else if now then s.fetched im now l a
  else s.updLine l fun e => { e with txn := some ⟨a, [], true, s.slotFree (lineHbm l).1 a.hdr⟩ }

/-- A lookup is charged to the slice (R215, R222). -/
def State.lookup (s : State) (l : Nat) : State :=
  let k := s.plan.lineSlice l
  let e := s.soleLine l
  let s1 := s.cntSlice k 0x100 1
  let s2 := if e.present then s1.cntSlice k 0x108 1 else s1
  if e.tack then s2
  else
    let s3 := s2.setSlice k { s2.slice k with lookups := (s2.slice k).lookups + 1, misses := (s2.slice k).misses + (if e.present then 0 else 1) }
    let s4 := s3.cntSlice k 0x110 1
    if e.present then s4 else s4.cntSlice k 0x118 1

/-- Begins a request on a line on which nothing is in progress (R202, R203); one that meets bytes that cannot be used does
not complete (R265). -/
def State.begin (s : State) (im : Image) (now : Bool) (l : Nat) (a : Asked) : State :=
  let r := (s.lookup l).checkSole false l
  if !r.1 then r.2
  else
    let (inv, ts) := r.2.recallsOf l a.req
    if ts.isEmpty then r.2.proceed im now l a
    else if now then (r.2.recallNow im l inv ts).proceed im now l a
    else (r.2.updLine l fun e => { e with txn := some ⟨a, ts, false, false⟩ }).sendRecalls l inv ts a.hdr

/-- Serves queued requests until one is in progress (R203, R207). -/
def State.settle (im : Image) (l : Nat) : Nat → State → State
  | 0, s => s
  | f + 1, s =>
    let e := s.soleLine l
    match e.queue with
    | [] => s
    | a :: rest =>
      if e.txn.isSome || (e.dir matches .br) || e.evicting then s
      else State.settle im l f ((s.updLine l fun e => { e with queue := rest }).begin im false l a)

def State.settled (s : State) (im : Image) (l : Nat) : State := State.settle im l ((s.soleLine l).queue.length + 1) s
/-- The same on some lines. -/
def State.settledAll (s : State) (im : Image) (ls : List Nat) : State := ls.foldl (fun t l => t.settled im l) s

/-- The entries of a slice that are open to a request (R308): the last 128 are closed to tiers B and C, the last 32 to all but
class 7 in budget. -/
def Hdr.entries (h : Hdr) : Nat := match h.tier with | 0 => 2048 | 1 => 2016 | _ => 1920

/-- A line has a home that can take a request: it lies in the footprint of a present job, and its slice has an entry free for
the request (R216, R308). -/
def State.homed (s : State) (l : Nat) (hdr : Hdr) : Bool :=
  match s.lineJob l with
  | none => false
  | some (j, v) => s.present j && (s.plan.lineAddr v.image l).isSome && decide (s.sliceEntries (s.plan.lineSlice l) < hdr.entries)

/-! ## The way to the home slice (R201, R204, R302) -/

/-- The bytes a request is charged (R302): what it reads or writes, or 64. A write-back is charged to no one (R299). -/
def maskBytes (m : BitVec 256) : Nat := ((upTo 256).filter fun k => m.getLsbD k).length
def Request.charge : Request → Nat
  | .gets _ _ => 256
  | .ncrd _ m | .ncwr _ _ m => maskBytes m
  | _ => 64

/-- The class of a tile's request on a line: of the group whose access has waited longest for it. -/
def State.lineClass (s : State) (t l : Nat) : Nat :=
  let x := s.tile t
  match ((x.loads.filter fun p => p.line.toNat == l).map PendingLoad.slot ++ (x.stores.filter fun p => p.line.toNat == l).map PendingStore.slot).head? with
  | none => 0
  | some k => match smFind x.groups k with | none => 0 | some g => g.cls.toNat

/-- Who sends a request (R297, R300). -/
def State.sender (s : State) (l : Nat) (r : Request) : By :=
  let ofSrc := fun (src : Sender) => match src with
    | .thread x => ⟨src, x.tile.val, match smFind (s.tile x.tile.val).groups (16 * x.tgp.val + x.slot.val) with | some g => g.cls.toNat | none => 0, none⟩
    | .l1 t => ⟨src, t.val, s.lineClass t.val l, none⟩
    | .dma r => byRing r.val 0
    | .bar2 => s.byHost
    | .engine k => byEngine k.val 0
    | .port p => ⟨src, 488 + p.val, 0, none⟩
    | .firmware => byFirmware
  match r with
  | .gets t _ | .getm t | .putm t _ _ => ofSrc (.l1 t)
  | .ncrd src _ | .ncwr src _ _ => ofSrc src
  | .red q => ofSrc q.src
  | .evict | .prefetch | .tack _ | .untack => byFirmware

/-- A master's request waits at its injection port (R302). -/
def State.inject (s : State) (m cls l : Nat) (r : Request) : State :=
  { s with qos.inject := s.qos.inject ++ [⟨m, BitVec.ofNat 3 cls, r.charge, BitVec.ofNat 32 l, r⟩] }

/-- The L1 and line of a message that an L1 sends to a home slice. -/
def NetMsg.fromL1 : NetMsg → Option (Nat × Nat)
  | .request l a => match a.req with
    | .gets t _ | .getm t | .putm t _ _ => some (t.val, l.toNat)
    | _ => none
  | .answer t l _ _ _ => some (t.val, l.toNat)
  | _ => none

/-- A message is the first of those on their way from its L1 to its home slice (R204). -/
def State.inOrder (s : State) (m : NetMsg) : Bool :=
  match m.fromL1 with
  | none => true
  | some (t, l) =>
    let same := fun n => match NetMsg.fromL1 n with | some (u, k) => u == t && s.plan.lineSlice k == s.plan.lineSlice l | none => false
    match s.sole.net.find? same with
    | some n => n == m
    | none => true

/-- A message can cross the welt (R241, R246): the channel of its slice is not paused and has not stopped, and a stack that
quiesces sends no request down. A message for another stack's slice does not cross this channel. -/
def State.mayCross (s : State) (m : NetMsg) : Bool :=
  match m.tileLine with
  | none => true
  | some (t, l) =>
    let n := s.plan.lineSlice l
    let x := s.chan (if (s.plan.get .welt n).inService then n else n ^^^ 1)
    (lineStack l != t / 52 || (!x.repairing && !x.stopped)) &&
      !((s.weltStack (t / 52)).quiescing && (match m with | .request .. => true | _ => false))

/-- The first message of the network that a test selects and that can cross. -/
def State.arrives (s : State) (p : NetMsg → Bool) : Option NetMsg := s.sole.net.find? fun m => p m && s.mayCross m

/-- Work on accepted requests goes on while a job is present, and in the quiesce drain of the line's stack (R246). -/
def State.serves (s : State) (j l : Nat) : Bool := s.present j || (s.weltStack (lineStack l)).quiescing

/-- A request as it reaches its home slice: from the network, in its L1's order; one that no unit has sent yet is charged
and sent; one that waits at its injection port has not come. -/
def State.takeRequest (s : State) (l : Nat) (r : Request) : Option (Asked × State) :=
  let isIt := fun m => match m with | NetMsg.request n a => n.toNat == l && a.req == r | _ => false
  match s.sole.net.find? isIt with
  | some (.request n a) => if s.inOrder (.request n a) && s.mayCross (.request n a) then some (a, { s with sole.net := s.sole.net.erase (.request n a) }) else none
  | _ =>
    let fresh : Hdr × State := match r with
      | .tack _ | .untack | .evict | .prefetch => (Hdr.zero, s)
      | _ => let b := s.sender l r; s.grant b.master b.cls r.charge
    let m := NetMsg.request (BitVec.ofNat 32 l) ⟨r, fresh.1⟩
    if s.qos.inject.any (fun x => x.line.toNat == l && x.req == r) || !s.inOrder m || !s.mayCross m then none
    else some (⟨r, fresh.1⟩, fresh.2)

/-- A write-back that meets a recall to its L1 is merged at once (R204). -/
def State.meetsRecall (s : State) (l : Nat) (a : Asked) : Bool :=
  match a.req, (s.soleLine l).txn with
  | .putm t _ _, some x => x.recalls.contains t.val
  | _, _ => false

/-- A request enters its home slice: merged, served, or queued behind what is in progress (R203, R204). -/
def State.takeUp (s : State) (im : Image) (l : Nat) (a : Asked) : State :=
  if s.meetsRecall l a then
    match a.req with
    | .putm t d m => (s.mergeLine l d m).send (.ack (.l1 t) (BitVec.ofNat 32 l) a.hdr)
    | _ => s
  else ((s.updLine l fun e => { e with queue := e.queue ++ [a] }).notePeak l 0).settled im l

/-- The home slice accepts a request (R203, R216); a slice with no free entry accepts none, and a line outside every footprint
has no home. -/
def State.accept (s : State) (l : Nat) (r : Request) : State :=
  match s.lineJob l, s.takeRequest l r with
  | some (_, v), some (a, s0) => if s.homed l a.hdr then s0.takeUp v.image l a else s
  | _, _ => s

/-! ## Requests (R201, R202) -/

/-- GETS (R202): an L1 asks for a line's bytes. -/
def execGets (tile : Fin 416) (line : BitVec 32) (need : BitVec 256) (s : State) : Out :=
  .next (s.accept line.toNat (.gets tile need))

/-- GETM (R202): an L1 asks for ownership. -/
def execGetm (tile : Fin 416) (line : BitVec 32) (s : State) : Out := .next (s.accept line.toNat (.getm tile))

/-- An L1 writes its dirty bytes of a line back and holds it no longer, with the header of the request that brought it (R197,
R299); a clean line it drops without telling anyone. A write-back on its way reaches the home slice. -/
def State.putL1 (s : State) (im : Image) (tile : Fin 416) (l : Nat) : State :=
  let isIt := fun m => match m with
    | NetMsg.request n a => n.toNat == l && (match a.req with | .putm t _ _ => t == tile | _ => false)
    | _ => false
  match s.sole.net.find? isIt, smFind (s.tile tile.val).l1 l with
  | some (.request _ a), _ => s.accept l a.req
  | _, none => s
  | _, some c =>
    let (d, m, s1) := s.l1Recall im tile.val l true
    if m = 0 then s1
    else (s1.send (.request (BitVec.ofNat 32 l) ⟨.putm tile d m, c.hdr⟩)).accept l (.putm tile d m)

/-- PUTM (R197, R202). -/
def execPutm (tile : Fin 416) (line : BitVec 32) (s : State) : Out :=
  match s.lineJob line.toNat with
  | none => .next s
  | some (_, v) => .next (s.putL1 v.image tile line.toNat)

/-- An L1 writes back every dirty line, and with `drop` holds nothing afterwards (R150, R446). -/
def State.flushL1 (s : State) (tile : Fin 416) (drop : Bool) : State :=
  let put := fun (t : State) (l : Nat) => match t.lineJob l with | none => t | some (_, v) => t.putL1 v.image tile l
  let s1 := (smKeys (fun _ c => c.dirty != 0) (s.tile tile.val).l1).foldl put s
  if drop then s1.updTile tile.val fun x => { x with l1 := [] } else s1

/-- NCRD (R202): a read without an L1 copy. -/
def execNcrd (line : BitVec 32) (src : Sender) (need : BitVec 256) (s : State) : Out :=
  .next (s.accept line.toNat (.ncrd src need))

/-- NCWR (R202): a write without an L1 copy. -/
def execNcwr (line : BitVec 32) (src : Sender) (data : BitVec 2048) (mask : BitVec 256) (s : State) : Out :=
  .next (s.accept line.toNat (.ncwr src data mask))

/-- RED (R206): a reduction reaches the home slice; recalls and fetches come before the line enters BR. -/
def execRed (line : BitVec 32) (req : RedRequest) (s : State) : Out :=
  if redOk req then .next (s.accept line.toNat (.red req)) else .fault .illFormed

/-- The RED at the head of a line's queue can be applied (R207): the line is in BR, within the window of 96 cycles, and holds
every byte it touches. -/
def SoleLine.redReady (e : SoleLine) (r : RedRequest) : Bool :=
  (e.dir matches .br) && decide (e.applied < 96) && redMask r &&& ~~~e.valid == 0

/-- RED_APPLY (R207, R208): the RED at the head of a BR line's queue is applied in place. The request that opened the episode
has been looked up; the others are now. -/
def execRedApply (line : BitVec 32) (s : State) : Out :=
  let l := line.toNat
  match (s.soleLine l).queue with
  | ⟨.red r, hdr⟩ :: rest =>
    if (s.soleLine l).redReady r then
      let c := (if (s.soleLine l).applied = 0 then s else s.lookup l).checkSole false l
      if !c.1 then .next c.2
      else
        let e := c.2.soleLine l
        let (d, x, olds) := redApplyList r.op r.fmt.toNat r.operands e.data
        let s1 := (c.2.placeLine l { e with data := d, dirty := e.dirty ||| dirtyOf (redMask r), queue := rest, applied := e.applied + 1 }).touchLine l
        .next { s1 with sole.replies := s1.sole.replies ++ [⟨r.tag, hdr, x, olds⟩] }
    else .next s
  | _ => .next s

/-- An episode closes (R207): the head of the queue is no RED, or the window has ended. -/
def SoleLine.brOver (e : SoleLine) : Bool :=
  (e.dir matches .br) && (match e.queue with | ⟨.red _, _⟩ :: _ => decide (96 ≤ e.applied) | _ => true)

/-- BR_EPISODE_CLOSE (R207, R209): the line returns to I, a deferred eviction of it, or of the long line it is part of, is
carried out, and queued requests are served. The scrubber reads the sectors it passed over (R266). -/
def execBrEpisodeClose (line : BitVec 32) (s : State) : Out :=
  let l := line.toNat
  let e := s.soleLine l
  match s.lineJob l with
  | none => .next s
  | some (_, v) =>
    if !e.brOver then .next s
    else
      let s1 := (s.setLine l { e with dir := .i, applied := 0, deferred := false }).scrubPassed l
      let s2 := match State.room v.image true l (s1.soleLine l) Hdr.zero 40 s1 with
        | (some e', _, t) => t.placeLine l e'
        | (none, stuck, t) => t.waitRoom l stuck
      .next ((if e.deferred then s2.evict v.image false Hdr.zero l else s2).settledAll v.image (s2.wholeLine l))

/-- A read queue slot that comes free goes to the fetch that waits for one in the highest tier, the oldest first (R304, R308). -/
def State.nextSlot (s : State) (h : Nat) : State :=
  let waits := (s.fetchesAt h).filter fun e => (e.2.txn.any fun t => !t.slot) && !s.sole.waiting.contains e.1
  let hdr := fun (e : Nat × SoleLine) => match e.2.txn with | some t => t.ask.hdr | none => Hdr.zero
  let before := fun e c => decide ((hdr e).tier < (hdr c).tier) || ((hdr e).tier == (hdr c).tier && decide ((hdr e).tag < (hdr c).tag))
  match waits.foldl (fun b e => match b with | none => some e | some c => if before e c then some e else some c) none with
  | some e => if s.slotFree h (hdr e) then s.updLine e.1 fun x => { x with txn := x.txn.map fun t => { t with slot := true } } else s
  | none => s

/-- FILL_COMPLETE (R192, R195): the bytes a line's request waits for arrive from HBM and are placed; its slot is free. -/
def execFillComplete (line : BitVec 32) (s : State) : Out :=
  let l := line.toNat
  match (s.soleLine l).txn, s.lineJob l with
  | some t, some (j, v) =>
    if t.fetching && t.slot && s.serves j l && !s.sole.waiting.contains l then
      let s1 := (s.updLine l fun e => { e with txn := some { t with slot := false, fetching := false } }).nextSlot (lineHbm l).1
      .next ((s1.fetched v.image false l t.ask).settled v.image l)
    else .next s
  | _, _ => .next s

/-- FILL_RETRY (R199): a line that waits for room is tried again. -/
def execFillRetry (line : BitVec 32) (s : State) : Out :=
  let l := line.toNat
  match s.lineJob l with
  | none => .next s
  | some (j, v) =>
    if !s.sole.waiting.contains l || !s.serves j l then .next s
    else
      let s0 := { s with sole.waiting := s.sole.waiting.filter (· != l) }
      match (s.soleLine l).txn with
      | some t => .next ((if t.fetching then s0.fetched v.image false l t.ask else s0.conclude v.image false l t.ask).settled v.image l)
      | none =>
        .next (match State.room v.image false l (s.soleLine l) Hdr.zero 40 s0 with
          | (some e, _, t) => (t.placeLine l e).doneWaiting l
          | (none, stuck, t) => t.waitRoom l stuck)

/-- WRITEBACK_ACCEPTED (R196): the HBM controller accepts an eviction's write data, and the tag is freed. -/
def execWritebackAccepted (line : BitVec 32) (s : State) : Out :=
  let l := line.toNat
  let e := s.soleLine l
  match s.lineJob l, e.txn with
  | some (_, v), some t =>
    .next (if e.evicting && e.dirty != 0 then ((s.writeBack v.image l).leftLine l t.ask.hdr).settledAll v.image (s.wholeLine l) else s)
  | _, _ => .next s

/-! ## Recalls and answers (R200, R201, R204) -/

/-- RECALL (R201): an L1 receives a recall and answers with its dirty bytes, or with none (NOCOPY), as every
tile of a quiescing stack does (R246). A reply that was sent to it earlier for the line comes first. -/
def execRecall (tile : Fin 416) (line : BitVec 32) (invalidate : Bool) (s : State) : Out :=
  let isIt := fun m => match m with
    | NetMsg.recall t n i _ => t == tile && n == line && i == invalidate
    | .fill t n _ _ _ _ | .grant t n _ => t == tile && n == line
    | _ => false
  match s.arrives isIt, s.lineJob line.toNat with
  | some (.recall t n i h), some (_, v) =>
    let (d, k, s1) := ({ s with sole.net := s.sole.net.erase (.recall t n i h) }).l1Recall v.image tile.val line.toNat invalidate
    .next (s1.send (if (s.weltStack (tile.val / 52)).quiescing then .answer tile line 0 0 h else .answer tile line d k h))
  | _, _ => .next s

/-- The next step of a line whose recalls are all answered. -/
def State.recalled (s : State) (im : Image) (l : Nat) (a : Asked) : State :=
  if a.req = .evict then
    let s1 := s.updLine l SoleLine.noCopies
    if (s1.soleLine l).dirty = 0 then s1.leftLine l a.hdr
    else s1.updLine l fun e => { e with txn := some ⟨a, [], false, false⟩, evicting := true }
  else (s.updLine l fun e => { e with txn := none }).proceed im false l a

/-- The answers that a stack other than the home has ready, when every tile of it has answered: its sole acknowledges them
together (R200). An answer from the home stack stands for itself. -/
def State.answersFor (s : State) (tile : Fin 416) (line : BitVec 32) (waits : List Nat) : List NetMsg :=
  let k := tile.val / 52
  let ready := fun t => s.arrives fun m => match m with | NetMsg.answer u n _ _ _ => u.val == t && n == line | _ => false
  let ts := if k = lineStack line.toNat then [tile.val] else waits.filter (· / 52 == k)
  let ms := ts.map ready
  if ts.contains tile.val && ms.all Option.isSome then ms.filterMap id else []

/-- RECALL_ANSWER (R200, R204): the home slice merges an answer; the last one lets the waiting request go on. -/
def execRecallAnswer (tile : Fin 416) (line : BitVec 32) (s : State) : Out :=
  let l := line.toNat
  match (s.soleLine l).txn, s.lineJob l with
  | some x, some (_, v) =>
    let ms := s.answersFor tile line x.recalls
    if ms.isEmpty || !ms.all s.inOrder then .next s
    else
      let s0 := { s with sole.net := s.sole.net.filter fun m => !ms.contains m }
      let s1 := ms.foldl (fun t m => match m with | .answer _ _ d k _ => t.mergeLine l d k | _ => t) s0
      let left := x.recalls.filter fun t => !ms.any fun m => match m with | .answer u _ _ _ _ => u.val == t | _ => false
      let s2 := s1.updLine l fun e => { e with txn := some { x with recalls := left } }
      .next (if left.isEmpty then (s2.recalled v.image l x.ask).settledAll v.image (s2.wholeLine l) else s2)
  | _, _ => .next s

/-- An acknowledgement reaches its sender, whose request is complete (R205, R307). -/
def execWriteAcknowledge (src : Sender) (s : State) : Out :=
  match s.arrives fun m => match m with | NetMsg.ack x _ _ => x == src | _ => false with
  | some (.ack x l h) =>
    let s1 := ({ s with sole.net := s.sole.net.erase (.ack x l h) }).replied h
    match src with
    | .thread site =>
      .next (s1.updGroup site.tile.val (16 * site.tgp.val + site.slot.val) fun g =>
        { g with acks := smSet 0 g.acks site.lane.val (smGet 0 g.acks site.lane.val - 1) })
    | _ => .next s1
  | _ => .next s

/-! ## The L1 (R197) -/

/-- Writes a load's value to its registers. -/
def Group.landLoad (g : Group) (lane rd size v : Nat) (signExt : Bool) : Group :=
  if size = 16 then (g.setQuad lane rd v).release lane [rd, rd + 1, rd + 2, rd + 3]
  else
    let w : Word := if signExt && decide (size < 4) then Word.ofInt (signed (8 * size) v) else BitVec.ofNat 32 v
    (g.setReg lane rd w).release lane [rd]

/-- Completes the loads of a tile on a line whose bytes are there. -/
def State.landLoads (s : State) (t l : Nat) (data : BitVec 2048) (valid : BitVec 256) (bypass : Bool) : State :=
  let ready := fun (p : PendingLoad) => p.line.toNat == l && p.bypass == bypass &&
    byteRange p.offset p.size &&& ~~~valid == 0
  let done := (s.tile t).loads.filter ready
  let s1 := s.updTile t fun x => { x with loads := x.loads.filter (fun p => !ready p) }
  done.foldl (fun s p => s.updGroup t p.slot fun g => g.landLoad p.lane p.rd p.size (lineField data p.offset p.size) p.signed) s1

/-- L1_FILL (R197): a reply reaches a tile's L1 and merges under its own valid bytes, completing the loads that waited; the
reply to a load with hint 0b10 completes it without an L1 copy. The request is complete (R307). -/
def execL1Fill (tile : Fin 416) (line : BitVec 32) (s : State) : Out :=
  let l := line.toNat
  let isFill := fun m => match m with
    | NetMsg.fill t n _ _ _ _ => t == tile && n == line
    | .ncData (.thread x) n _ _ => x.tile == tile && n == line
    | _ => false
  match s.arrives isFill, s.lineJob l with
  | some (.fill t n d v o h), some (_, j) =>
    let s0 := ({ s with sole.net := s.sole.net.erase (.fill t n d v o h) }).replied h
    let old := s.l1Line tile.val l
    let c : L1Line := ⟨byteMerge old.data d (v &&& ~~~old.valid), old.valid ||| v, old.dirty, o || old.owned, h⟩
    .next ((s0.l1Write j.image tile.val l c (v &&& ~~~old.valid)).landLoads tile.val l c.data c.valid false)
  | some (.ncData src n d h), _ =>
    .next ((({ s with sole.net := s.sole.net.erase (.ncData src n d h) }).replied h).landLoads tile.val l d allBytes true)
  | _, _ => .next s

/-- OWNERSHIP_GRANT (R197, R202): a grant reaches the L1, which takes the stores that waited for it. -/
def execOwnershipGrant (tile : Fin 416) (line : BitVec 32) (s : State) : Out :=
  let t := tile.val
  let l := line.toNat
  match s.arrives fun m => match m with | NetMsg.grant u n _ => u == tile && n == line | _ => false, s.lineJob l with
  | some (.grant u n h), some (_, j) =>
    let s0 := ({ s with sole.net := s.sole.net.erase (.grant u n h) }).replied h
    let mine := (s.tile t).stores.filter (fun p => p.line == line)
    let c := mine.foldl (fun (c : L1Line) p => ⟨byteMerge c.data p.data p.mask, c.valid ||| p.mask, c.dirty ||| p.mask, true, h⟩)
      { (s.l1Line t l) with owned := true, hdr := h }
    let s1 := s0.l1Write j.image t l c (mine.foldl (fun m p => m ||| p.mask) 0)
    .next (s1.updTile t fun x => { x with stores := x.stores.filter (fun p => p.line != line) })
  | _, _ => .next s

/-! ## Tacks (R210 to R214) -/

/-- SOLE_TACK_BUDGET (R214). -/
def State.tackBudget (s : State) : Nat := s.reg (indKey 0 0) 0

/-- The form a TACK of a line covers (R210): whether it is long. -/
def State.tacksLong (s : State) (im : Image) (l : Nat) : Bool :=
  if (s.soleLine l).present then (s.soleLine l).isLong else s.fillsLong im l && !s.blockTacked l

/-- The lines a TACK of some lines covers. -/
def State.tackCover (s : State) (im : Image) (ls : List Nat) : List Nat :=
  (ls.flatMap fun l => if s.tacksLong im l then blockLines l else [l]).eraseDups

/-- The limits of R211 hold after tacking some lines: 12 slot-equivalents in every set, and the budget. -/
def State.tackAllowed (s : State) (im : Image) (ls : List Nat) : Bool :=
  let fresh := (s.tackCover im ls).filter fun l => !((s.soleLine l).present && (s.soleLine l).tack)
  let same := fun a b => lineStack a == lineStack b && lineSet a == lineSet b && s.plan.lineSlice a == s.plan.lineSlice b
  decide (s.tackUsed + fresh.length ≤ s.tackBudget) &&
  fresh.all fun l => decide (s.slotsTacked (s.setLines l) + (fresh.filter (same l)).length ≤ 12)

/-- TACK (R212): the home slice tacks a line, filling it if absent, within the limits of R211. -/
def execTack (line : BitVec 32) (s : State) : Out :=
  match s.lineJob line.toNat with
  | none => .next s
  | some (_, v) => .next (if s.tackAllowed v.image [line.toNat] then s.accept line.toNat (.tack (s.tacksLong v.image line.toNat)) else s)

/-- UNTACK (R213): the home slice clears a line's tack. -/
def execUntack (line : BitVec 32) (s : State) : Out := .next (s.accept line.toNat .untack)

/-! ## The thrash monitor (R215) -/

def State.thrashCtl (s : State) : Nat := s.reg (indKey 0 8) 0x480

/-- THRASH_WINDOW_END (R215): the window's rate is computed, and the flag is set or cleared. -/
def execThrashWindowEnd (slice : Fin 512) (s : State) : Out :=
  let x := s.slice slice.val
  let rate := if x.lookups = 0 then 0 else 256 * x.misses / x.lookups
  let level := s.thrashCtl % 256
  let need := max 1 (s.thrashCtl / 256 % 16)
  let high := decide (4096 ≤ x.lookups) && decide (level < rate)
  let cool := if high then 0 else min 15 (x.cool + 1)
  if !s.sliceOk slice.val then .next s
  else .next (s.setSlice slice.val { x with
    rate := min 255 rate, cool := cool, lookups := 0, misses := 0, flag := high || (x.flag && decide (cool < need)) })

/-! ## Whole accesses of the agents that are not tiles -/

/-- A whole access, or why it must wait: a line whose fill no eviction can make possible (R199), or no such line. -/
abbrev Whole (α : Type) := Except (Option Nat) α

/-- An access waits; the first wait of a fill that no eviction can end is counted (R199). -/
def State.waits (s : State) : Option Nat → State
  | none => s
  | some l => if s.sole.stuck.contains l then s else { (s.cntLine l 0x1A0 1) with sole.stuck := l :: s.sole.stuck }

/-- Nothing is in progress on a line, so that a whole access can be made. -/
def State.lineReady (s : State) (l : Nat) : Bool := (s.soleLine l).idle && !s.sole.waiting.contains l && s.quiet l

/-- Serves a request of a sender whole, charged to its master; it waits where the line is busy, or its slice or set has no
room. -/
def State.serveNow (s : State) (im : Image) (b : By) (l : Nat) (r : Request) : Whole State :=
  if !s.lineReady l then .error none
  else
    let g := s.charged b r.charge
    if !g.2.homed l g.1 then .error none
    else
      let s1 := (g.2.notePeak l 1).begin im true l ⟨r, g.1⟩
      if (s1.soleLine l).txn.isSome || s1.sole.waiting.contains l then .error (if s1.sole.stuck.contains l then some l else none)
      else .ok (if b.paid.isSome then s1 else s1.replied g.1)

/-- Reads a line whole, as NCRD does. -/
def State.readLine (s : State) (im : Image) (b : By) (l : Nat) (need : BitVec 256) : Whole (BitVec 2048 × State) :=
  (s.serveNow im b l (.ncrd b.src need)).map fun s1 => ((s1.soleLine l).data, s1)

/-- Writes bytes of a line whole, as NCWR does. -/
def State.writeLine (s : State) (im : Image) (b : By) (l : Nat) (data : BitVec 2048) (mask : BitVec 256) : Whole State :=
  s.serveNow im b l (.ncwr b.src data mask)

/-- The job whose footprint holds a line is still present: the access decided no end of it (R265). -/
def State.lineLive (s : State) (l : Nat) : Bool := match s.lineJob l with | some (j, _) => s.present j | none => false

/-- Reads `n` bytes of a job's memory at a device address, line by line. A read that meets an uncorrectable error ends the
job and goes no further (R265). -/
def State.devRead (im : Image) (b : By) : Nat → Nat → Nat → State → Whole (List Byte × State)
  | 0, _, _, s => .ok ([], s)
  | f + 1, a, n, s =>
    if n = 0 then .ok ([], s)
    else
      match s.plan.place im a with
      | none => .error none
      | some pl =>
        let off := pl.o % 256
        let k := min n (256 - off)
        match s.readLine im b pl.line (byteRange off k) with
        | .error w => .error w
        | .ok (d, s1) =>
          if !s1.lineLive pl.line then .ok ([], s1)
          else
            match State.devRead im b f (a + k) (n - k) s1 with
            | .error w => .error w
            | .ok (bs, s2) => .ok (natToBytes k (lineField d off k) ++ bs, s2)

/-- Writes bytes of a job's memory at a device address, line by line. -/
def State.devWrite (im : Image) (b : By) : Nat → Nat → List Byte → State → Whole State
  | 0, _, _, s => .ok s
  | f + 1, a, bs, s =>
    if bs.isEmpty then .ok s
    else
      match s.plan.place im a with
      | none => .error none
      | some pl =>
        let off := pl.o % 256
        let k := min bs.length (256 - off)
        match s.writeLine im b pl.line (lineOf off k (bytesToNat (bs.take k))) (byteRange off k) with
        | .error w => .error w
        | .ok s1 => if !s1.lineLive pl.line then .ok s1 else State.devWrite im b f (a + k) (bs.drop k) s1

/-- Lines that a range of bytes can touch. -/
def lineFuel (n : Nat) : Nat := n / 256 + 2

def State.readMem (s : State) (im : Image) (b : By) (a n : Nat) : Whole (List Byte × State) := State.devRead im b (lineFuel n) a n s
def State.writeMem (s : State) (im : Image) (b : By) (a : Nat) (bs : List Byte) : Whole State :=
  State.devWrite im b (lineFuel bs.length) a bs s

/-- A whole reduction, as RED does: its episode opens and closes, and the old values are answered. -/
def State.redNow (s : State) (im : Image) (b : By) (l : Nat) (r : RedRequest) : Whole (List (Nat × BitVec 128) × State) :=
  match s.serveNow im b l (.red r) with
  | .error w => .error w
  | .ok s1 =>
    if !s1.lineLive l then .ok ([], s1) else
    let e := s1.soleLine l
    let (d, _, olds) := redApplyList r.op r.fmt.toNat r.operands e.data
    let e1 := { e with data := d, dirty := e.dirty ||| dirtyOf (redMask r), queue := [], dir := .i, applied := 0 }
    match State.room im true l e1 Hdr.zero 40 (s1.setLine l e1) with
    | (some e2, _, s2) => .ok (olds, s2.placeLine l e2)
    | (none, _, _) => .error none

end Sys2Proof.Machine
end

