-- ==== Sys2Proof/Machine/Vector.lean ====
section
/-! DEFINITION. The vector engine (R98 to R123) and RNGV (R172, R173): acceptance into the queue, the fields an operation
uses, the operations, execution and visibility of results. -/

namespace Sys2Proof.Machine

/-- "Arith" and "Int" of R109. -/
def vArith (f : Nat) : Bool := f < 3 || f = 8 || f = 9 || f = 11
def vInt (f : Nat) : Bool := f = 8 || f = 9 || f = 11

/-- What an operation gives its fields: registers at VD, VA, VB, VC (0 unused, 1 a register, 4 a quad), thread registers
from XS, the greatest RND, and which further fields it uses. -/
structure VShape where
  vd : Nat
  va : Nat
  vb : Nat
  vc : Nat
  xs : Nat
  rnd : Nat
  sat : Bool
  carry : Bool
  bs : Bool
  scl : Bool
  fmt2 : Bool
  flg : Bool
  fmtOk : Bool
deriving DecidableEq, Repr

/-- An element-wise operation with `n` sources; BS stands in for VB. -/
def vElem (w n : Nat) (fmtOk rounds : Bool) : VShape :=
  let b := vfBs w && decide (2 ≤ n)
  ⟨1, 1, if 2 ≤ n && !b then 1 else 0, if n = 3 then 1 else 0, if b then 1 else 0,
    if rounds && isFloat (vfFmt w) then 1 else 0, false, false, decide (2 ≤ n), false, false, false, fmtOk⟩

/-- The pairs VCVT converts (R66, R44), by source, destination and block scaling. -/
def vcvtPair (f g scl : Nat) : Bool :=
  if scl ≠ 0 then (decide (g = 0) && scaleOk scl f) || (decide (f < 3) && decide (3 ≤ g) && decide (g < 8) && scaleOk scl g)
  else
    (isNarrow f && decide (g < 3)) || ((decide (f = 1) || decide (f = 2)) && decide (g = 0)) ||
    (decide (f = 0) && (decide (g = 1) || decide (g = 2))) || (decide (f = 1) && decide (g = 2)) ||
    (decide (f = 2) && decide (g = 1)) || (decide (f < 3) && decide (3 ≤ g) && decide (g < 8)) ||
    (decide (f < 3) && isInt g) || (decide (f = 11) && decide (g < 3)) ||
    ((decide (f = 8) || decide (f = 9) || decide (f = 10)) && decide (g = 11)) ||
    (decide (f = 11) && (decide (g = 8) || decide (g = 9) || decide (g = 10)))

/-- A float add scan or reduction (R116). -/
def scanFloatAdd (w : Nat) : Bool := vfFmt2 w == 0 && isFloat (vfFmt w)

/-- Formats of the scans by operator (R113). -/
def scanFmtOk (w : Nat) : Bool :=
  let f := vfFmt w
  match vfFmt2 w with
  | 0 => f < 3 || f = 11
  | 1 | 2 => vArith f
  | 3 | 4 | 5 => vInt f
  | _ => false

/-- Formats of the exact scans (R117). -/
def exactFmtOk (f : Nat) : Bool := f = 8 || f = 9 || f = 3 || f = 4

/-- The shape of an operation (R107 to R122); none: a reserved VOP. -/
def vShape (vop w : Nat) : Option VShape :=
  let f := vfFmt w
  let fl := if vfFlg w then 1 else 0
  let plain : VShape := ⟨0, 0, 0, 0, 0, 0, false, false, false, false, false, false, false⟩
  if vop = 0 then some { plain with xs := 1, fmtOk := decide (f = 0) }
  else if vop ≤ 3 then some (vElem w 2 (vArith f) true)
  else if vop = 4 then some (vElem w 3 (vArith f) true)
  else if vop ≤ 6 then some (vElem w 2 (vArith f) true)
  else if vop ≤ 8 then some (vElem w 1 (vArith f) true)
  else if vop ≤ 0x0D then some (vElem w 2 (vInt f) false)
  else if vop ≤ 0x11 then some (vElem w 2 (vArith f) false)
  else if vop = 0x12 then some { vElem w 2 (vArith f) false with vc := 1, flg := true }
  else if vop ≤ 0x15 then some (vElem w 1 (decide (f = 0)) true)
  else if vop = 0x20 then
    some { plain with vd := 1, va := 1, vc := if vfScl w = 0 then 0 else 1, xs := if vfRnd w = 2 then 3 else 0, rnd := 2, sat := true, scl := true, fmt2 := true, fmtOk := vcvtPair f (vfFmt2 w) (vfScl w) }
  else if vop = 0x21 then some { plain with vd := if f = 14 then 4 else 1, xs := 1, fmtOk := decide (f ≤ 14) }
  else if vop = 0x22 then some { plain with va := if f = 14 then 4 else 1, xs := 1, fmtOk := decide (f ≤ 14) }
  else if vop ≤ 0x26 then
    let ld := vop = 0x23 || vop = 0x25
    let ix := decide (0x25 ≤ vop)
    some { plain with vd := if ld then 1 else 0, va := if ld then 0 else 1, vb := if ix then 1 else 0, xs := if ix then 1 else 2, fmtOk := decide (fmtBits f = 8) || decide (fmtBits f = 16) || decide (fmtBits f = 32) }
  else if vop = 0x30 || vop = 0x31 then
    some { plain with vd := 1, va := 1, vc := fl, carry := true, fmt2 := true, flg := true, rnd := 0, fmtOk := scanFmtOk w }
  else if vop = 0x32 then some { plain with va := 1, carry := true, fmt2 := true, fmtOk := scanFmtOk w }
  else if vop = 0x33 then some { plain with vd := 1, va := 1, vc := 1, flg := true, fmtOk := vArith f && vfFlg w }
  else if vop = 0x34 then some { plain with va := 1, vc := fl, flg := true, fmtOk := vArith f }
  else if vop = 0x38 || vop = 0x39 then
    some { plain with vd := 4, va := 1, vc := fl, carry := true, flg := true, fmtOk := exactFmtOk f }
  else if vop = 0x3A then some { plain with va := 1, carry := true, fmtOk := exactFmtOk f }
  else if vop = 0x3B then some { plain with vd := 4, va := 4, vb := 4, fmtOk := decide (f = 14) }
  else if vop = 0x3C then some { plain with vd := 4, va := 4, xs := 1, fmtOk := decide (f = 14) }
  else none

/-- A register field against what the operation names there, for a kernel with `nv` vector registers (R99, R123). -/
def vRegOk (n v nv : Nat) : Bool :=
  if n = 0 then v == 0 else if n = 1 then decide (v < nv) else decide (v % 4 = 0) && decide (v + 3 < nv)

/-- Every field is one the operation uses, or 0 (R107). -/
def VShape.ok (h : VShape) (w nv : Nat) : Bool :=
  h.fmtOk && vRegOk h.vd (vfVD w) nv && vRegOk h.va (vfVA w) nv && vRegOk h.vb (vfVB w) nv && vRegOk h.vc (vfVC w) nv &&
  decide (vfRnd w ≤ h.rnd) && (h.sat || !vfSat w) && (h.carry || !vfCarry w) && (h.bs || !vfBs w) &&
  (h.scl || vfScl w == 0) && (h.fmt2 || vfFmt2 w == 0) && (h.flg || !vfFlg w) &&
  (if h.xs = 0 then vfXs w == 0 else h.xs ≠ 3 || decide (vfXs w + 2 ≤ 127)) && decide (w % 2 ^ 7 = 0)

/-- The thread registers an operation reads, from XS. -/
def VShape.regs (h : VShape) (w : Nat) : List Nat := (upTo h.xs).map (vfXs w + ·)

/-! ## Acceptance (R103, R104) -/

/-- Accepts an engine instruction into the vector queue: `bad` is the field fault's code and whether it holds; a full queue
leaves everything as it is, and a register of the lowest thread that cannot be used ends the job (R265). -/
def State.acceptVec (s0 : State) (site : Site) (w first : Nat) (regs : List Nat) (code : Nat) (bad : Image → Bool)
    (badArgs : Issue → State → Bool) (claims : Bool) : State :=
  match s0.issueAt site.tile.val site.tgp.val site.slot.val site.lane.val w regs with
  | none => s0
  | some i =>
    let s := s0.cntTile i.t 0x100 1
    if !i.job.pcOk i.pc then s.insFault i 0x25 0
    else if bad i.job.image then s.insFault i code 0
    else if regs.any (fun r => decide (i.job.image.nR ≤ r)) then s.insFault i 0x25 0
    else if badArgs i s then s.insFault i code 0
    else if 32 ≤ (s.tile i.t).vecQueue.length then s0
    else
      let c := s.readWords i.t i.job.image.nR i.job.image.share fun n =>
        regs.any fun r => n == regWord i.p i.slot i.job.image.nR r i.low
      if !c.1 then c.2 else
      let s := c.2
      let i := { i with grp := (s.groupAt i.t i.p i.slot).getD i.grp }
      let op : VecOp := ⟨i.key, i.grp.id, BitVec.ofNat 64 w, (upTo 4).map (fun k => i.scalar (first + k)), BitVec.ofNat 32 i.pc, laneMask i.lanes⟩
      let s1 := s.updTile i.t fun x => { x with vecQueue := x.vecQueue ++ [op] }
      let g := { (i.grp.advance i.pc i.lanes) with vout := i.grp.vout + 1 }
      s1.putGroup i (if claims then g.claim i.lanes [first] else g)

/-- Issues a vector instruction of operation `vop`. -/
def State.vec (s : State) (site : Site) (vop : Nat) (low : BitVec 50) : State :=
  let w := 0x10 * 2 ^ 58 + vop * 2 ^ 50 + low.toNat
  match vShape vop w with
  | none => s
  | some h => s.acceptVec site w (vfXs w) (h.regs w) 0x23 (fun im => !h.ok w im.nV) (fun _ _ => false) (vop == 0)

/-- VSETVL (R100). -/
def execVsetvl (site : Site) (low : BitVec 50) (s : State) : Out := .next (s.vec site 0x00 low)
/-- VADD (R110). -/
def execVadd (site : Site) (low : BitVec 50) (s : State) : Out := .next (s.vec site 0x01 low)
/-- VSUB (R110). -/
def execVsub (site : Site) (low : BitVec 50) (s : State) : Out := .next (s.vec site 0x02 low)
/-- VMUL (R110). -/
def execVmul (site : Site) (low : BitVec 50) (s : State) : Out := .next (s.vec site 0x03 low)
/-- VFMA (R110). -/
def execVfma (site : Site) (low : BitVec 50) (s : State) : Out := .next (s.vec site 0x04 low)
/-- VMIN (R110). -/
def execVmin (site : Site) (low : BitVec 50) (s : State) : Out := .next (s.vec site 0x05 low)
/-- VMAX (R110). -/
def execVmax (site : Site) (low : BitVec 50) (s : State) : Out := .next (s.vec site 0x06 low)
/-- VABS (R110). -/
def execVabs (site : Site) (low : BitVec 50) (s : State) : Out := .next (s.vec site 0x07 low)
/-- VNEG (R110). -/
def execVneg (site : Site) (low : BitVec 50) (s : State) : Out := .next (s.vec site 0x08 low)
/-- VAND (R109). -/
def execVand (site : Site) (low : BitVec 50) (s : State) : Out := .next (s.vec site 0x09 low)
/-- VOR (R109). -/
def execVor (site : Site) (low : BitVec 50) (s : State) : Out := .next (s.vec site 0x0A low)
/-- VXOR (R109). -/
def execVxor (site : Site) (low : BitVec 50) (s : State) : Out := .next (s.vec site 0x0B low)
/-- VSHL (R109). -/
def execVshl (site : Site) (low : BitVec 50) (s : State) : Out := .next (s.vec site 0x0C low)
/-- VSHR (R109). -/
def execVshr (site : Site) (low : BitVec 50) (s : State) : Out := .next (s.vec site 0x0D low)
/-- VCMPEQ (R108). -/
def execVcmpeq (site : Site) (low : BitVec 50) (s : State) : Out := .next (s.vec site 0x0E low)
/-- VCMPLT (R108). -/
def execVcmplt (site : Site) (low : BitVec 50) (s : State) : Out := .next (s.vec site 0x0F low)
/-- VCMPLE (R108). -/
def execVcmple (site : Site) (low : BitVec 50) (s : State) : Out := .next (s.vec site 0x10 low)
/-- VCMPGT (R108). -/
def execVcmpgt (site : Site) (low : BitVec 50) (s : State) : Out := .next (s.vec site 0x11 low)
/-- VSEL (R109). -/
def execVsel (site : Site) (low : BitVec 50) (s : State) : Out := .next (s.vec site 0x12 low)
/-- VEXP2 (R111). -/
def execVexp2 (site : Site) (low : BitVec 50) (s : State) : Out := .next (s.vec site 0x13 low)
/-- VRCP (R111). -/
def execVrcp (site : Site) (low : BitVec 50) (s : State) : Out := .next (s.vec site 0x14 low)
/-- VRSQRT (R111). -/
def execVrsqrt (site : Site) (low : BitVec 50) (s : State) : Out := .next (s.vec site 0x15 low)
/-- VCVT (R112). -/
def execVcvt (site : Site) (low : BitVec 50) (s : State) : Out := .next (s.vec site 0x20 low)
/-- VLD (R109). -/
def execVld (site : Site) (low : BitVec 50) (s : State) : Out := .next (s.vec site 0x21 low)
/-- VST (R109). -/
def execVst (site : Site) (low : BitVec 50) (s : State) : Out := .next (s.vec site 0x22 low)
/-- VLDS (R120). -/
def execVlds (site : Site) (low : BitVec 50) (s : State) : Out := .next (s.vec site 0x23 low)
/-- VSTS (R120). -/
def execVsts (site : Site) (low : BitVec 50) (s : State) : Out := .next (s.vec site 0x24 low)
/-- VGATHER (R120). -/
def execVgather (site : Site) (low : BitVec 50) (s : State) : Out := .next (s.vec site 0x25 low)
/-- VSCATTER (R120). -/
def execVscatter (site : Site) (low : BitVec 50) (s : State) : Out := .next (s.vec site 0x26 low)
/-- VSCANI (R113). -/
def execVscani (site : Site) (low : BitVec 50) (s : State) : Out := .next (s.vec site 0x30 low)
/-- VSCANX (R113). -/
def execVscanx (site : Site) (low : BitVec 50) (s : State) : Out := .next (s.vec site 0x31 low)
/-- VRED (R114). -/
def execVred (site : Site) (low : BitVec 50) (s : State) : Out := .next (s.vec site 0x32 low)
/-- VCOMPRESS (R119). -/
def execVcompress (site : Site) (low : BitVec 50) (s : State) : Out := .next (s.vec site 0x33 low)
/-- VSUM (R121). -/
def execVsum (site : Site) (low : BitVec 50) (s : State) : Out := .next (s.vec site 0x34 low)
/-- VWSCANI (R117). -/
def execVwscani (site : Site) (low : BitVec 50) (s : State) : Out := .next (s.vec site 0x38 low)
/-- VWSCANX (R117). -/
def execVwscanx (site : Site) (low : BitVec 50) (s : State) : Out := .next (s.vec site 0x39 low)
/-- VWRED (R117). -/
def execVwred (site : Site) (low : BitVec 50) (s : State) : Out := .next (s.vec site 0x3A low)
/-- VWADD (R109). -/
def execVwadd (site : Site) (low : BitVec 50) (s : State) : Out := .next (s.vec site 0x3B low)
/-- VWREALIGN (R109). -/
def execVwrealign (site : Site) (low : BitVec 50) (s : State) : Out := .next (s.vec site 0x3C low)

/-- RNGV (R172, R173): enters the vector queue; draw number 0xFFFF_FFFF in element-keyed mode is the fault 0x29 (R167). -/
def execRngv (site : Site) (low : BitVec 52) (s : State) : Out :=
  let w := insWord 0x0B 0 low
  let x := rngXS w
  .next (s.acceptVec site w x ((upTo 4).map (x + ·)) 0x29
    (fun im => decide (w % 2 ^ 40 ≠ 0) || decide (im.nV ≤ rngVD w) || decide (127 < x + 3))
    (fun i s => !(s.tile i.t).rng.lane && i.scalar (x + 3) == 0xFFFFFFFF) false)

/-! ## Elements of registers -/

/-- Writes element `k` of a row, leaving its neighbours (R101). -/
def putElem (m : Memory) (f base k v : Nat) : Memory :=
  let w := fmtBits f
  let a := base + k * w / 8
  let sh := k * w % 8
  let n := (sh + w + 7) / 8
  let old := m.readNat a n
  m.writeNat a n (old - old / 2 ^ sh % 2 ^ w * 2 ^ sh + v % 2 ^ w * 2 ^ sh)

/-- Writes elements from `k` on. -/
def putElems (f base : Nat) : Nat → List Nat → Memory → Memory
  | _, [], m => m
  | k, v :: vs, m => putElems f base (k + 1) vs (putElem m f base k v)

def getElems (m : Memory) (f base n : Nat) : List Nat := (upTo n).map (getElem m f base)

/-! ## Element operations (R109 to R111) -/

/-- Value of an integer code. -/
def vIntVal (f v : Nat) : Int := if f = 9 then (v : Int) else signed (fmtBits f) v
/-- Saturates an integer result to its format. -/
def vSat (f : Nat) (i : Int) : Nat := toBits (fmtBits f) (max (intRange f).1 (min (intRange f).2 i))
/-- An integer result: INT32 add, subtract, multiply and VFMA wrap, everything else saturates (R110). -/
def vWrap (f : Nat) (i : Int) : Nat := if f = 11 then toBits 32 i else vSat f i

/-- Two-source arithmetic of VADD to VFMA; `c` is the third source. -/
def vArithOp (vop f rnd a b c : Nat) : Nat × Exc :=
  if isFloat f then
    match vop with
    | 1 => fpAdd f rnd a b
    | 2 => fpSub f rnd a b
    | 3 => fpMul f rnd a b
    | 4 => fpFma f rnd a b c
    | 5 => (fpMinMax f false a b, 0)
    | 6 => (fpMinMax f true a b, 0)
    | 7 => (if (decodeElem f a).isNan then nanCode f else fpAbs f a, 0)
    | _ => (if (decodeElem f a).isNan then nanCode f else fpNeg f a, 0)
  else
    let x := vIntVal f a
    let y := vIntVal f b
    (match vop with
    | 1 => vWrap f (x + y)
    | 2 => vWrap f (x - y)
    | 3 => vWrap f (x * y)
    | 4 => vWrap f (x * y + vIntVal f c)
    | 5 => toBits (fmtBits f) (min x y)
    | 6 => toBits (fmtBits f) (max x y)
    | 7 => vSat f (if x < 0 then -x else x)
    | _ => vSat f (-x), 0)

/-- VAND to VSHR (R109): bits shifted out are dropped. -/
def vBitOp (vop f a b : Nat) : Nat :=
  let w := fmtBits f
  match vop with
  | 0x09 => a &&& b
  | 0x0A => a ||| b
  | 0x0B => a ^^^ b
  | 0x0C => a * 2 ^ (b % w) % 2 ^ w
  | _ => toBits w (vIntVal f a / 2 ^ (b % w))

/-- The compares (R108, R110). -/
def vCompare (vop f a b : Nat) : Bool :=
  if isFloat f then
    let x := decodeElem f a
    let y := decodeElem f b
    match vop with
    | 0x0E => x.eq y
    | 0x0F => x.lt y
    | 0x10 => x.lt y || x.eq y
    | _ => y.lt x
  else
    let x := vIntVal f a
    let y := vIntVal f b
    match vop with
    | 0x0E => decide (x = y)
    | 0x0F => decide (x < y)
    | 0x10 => decide (x ≤ y)
    | _ => decide (y < x)

/-- Integer square root of a number below 2^(2n). -/
def isqrt : Nat → Nat → Nat → Nat
  | 0, _, r => r
  | k + 1, n, r => isqrt k n (if (r + 2 ^ k) * (r + 2 ^ k) ≤ n then r + 2 ^ k else r)

/-- Precision of the fixed-point powers of two, in bits. -/
def expBits : Nat := 256

/-- 2^f by the bits of f below the point: the factor of the present bit is the root of the last one. -/
def exp2Chain (f : Nat) : Nat → Nat → Nat → Nat
  | 0, _, acc => acc
  | k + 1, root, acc =>
    let root' := isqrt (expBits + 2) (root * 2 ^ expBits) 0
    exp2Chain f k root' (if f / 2 ^ k % 2 = 1 then acc * root' / 2 ^ expBits else acc)

/-- 2^x for a finite x, to more bits than any rounding of binary32 needs; a last bit stands for what is cut off. -/
def exp2Val (neg : Bool) (n : Nat) (e : Int) : Val :=
  let num : Int := finNum neg n e (-149)
  let whole := num / 2 ^ 149
  let frac := (num % 2 ^ 149).toNat
  if whole < -300 then .fin false 1 1 (-300)
  else if 300 < whole then .fin false 1 1 300
  else if frac = 0 then .fin false 1 1 whole
  else .fin false (2 * exp2Chain frac 149 (2 * 2 ^ expBits) (2 ^ expBits) + 1) 1 (whole - 257)

/-- 1 ÷ √x for a finite positive x. -/
def rsqrtVal (n : Nat) (e : Int) : Val :=
  let e' := e % 2
  let m := n * 2 ^ e'.toNat
  let q := 2 ^ 200 / m
  let r := isqrt 101 q 0
  .fin false (2 * r + (if r * r * m = 2 ^ 200 then 0 else 1)) 1 (-101 - (e - e') / 2)

/-- VEXP2, VRCP and VRSQRT (R111): the exact value rounded once to binary32. -/
def vFunc (vop rnd a : Nat) : Nat × Exc :=
  match vop, decodeElem 0 a with
  | _, .nan => (nanCode 0, 0)
  | 0x13, .inf n => (if n then 0 else infCode 0, 0)
  | 0x13, .fin n m _ e => convert 0 rnd 0 false 0 (if m = 0 then .fin false 1 1 0 else exp2Val n m e)
  | 0x14, .inf n => (signBit 0 n, 0)
  | 0x14, .fin n m _ e => if m = 0 then (signBit 0 n + infCode 0, 0) else convert 0 rnd 0 false 0 (.fin n 1 m (-e))
  | _, .inf n => if n then (nanCode 0, 8) else (0, 0)
  | _, .fin n m _ e =>
    if m = 0 then (signBit 0 n + infCode 0, 0)
    else if n then (nanCode 0, 8) else convert 0 rnd 0 false 0 (rsqrtVal m e)

/-! ## Scans (R113 to R117) -/

/-- The identity of an operator in a format, as VACC holds it. -/
def scanIdentity (o f : Nat) : Nat :=
  if isFloat f then (match o with | 1 => infCode f | 2 => signBit f true + infCode f | _ => 0)
  else
    match o with
    | 1 => toBits (fmtBits f) (intRange f).2
    | 2 => toBits (fmtBits f) (intRange f).1
    | 3 => 2 ^ fmtBits f - 1
    | _ => 0

/-- One step of a scan on the running value. -/
def scanStep (o f acc v : Nat) : Nat × Exc :=
  match o with
  | 0 => if isFloat f then fpAdd 0 0 acc (convert 0 0 0 false 0 (decodeElem f v)).1 else (toBits 32 (signed 32 acc + signed 32 v), 0)
  | 1 => if isFloat f then (fpMinMax f false acc v, 0) else (toBits (fmtBits f) (min (vIntVal f acc) (vIntVal f v)), 0)
  | 2 => if isFloat f then (fpMinMax f true acc v, 0) else (toBits (fmtBits f) (max (vIntVal f acc) (vIntVal f v)), 0)
  | 3 => (acc &&& v, 0)
  | 4 => (acc ||| v, 0)
  | _ => (acc ^^^ v, 0)

/-- The running value as an output element: a float sum rounds to nearest even into FMT. -/
def scanOut (o f acc : Nat) : Nat × Exc :=
  if o = 0 && (f = 1 || f = 2) then roundResult f 0 (decodeElem 0 acc).isNan (decodeElem 0 acc) else (acc, 0)

/-- A running scan: values with the flag that starts a new segment; outputs, last running value and exceptions, those of
the outputs' own rounding only where outputs are written. -/
def scanRun (o f : Nat) (excl writes : Bool) : List (Nat × Bool) → Nat → List Nat × Nat × Exc
  | [], acc => ([], acc, 0)
  | (v, start) :: vs, acc =>
    let a := if start then scanIdentity o f else acc
    let b := scanStep o f a v
    let out := scanOut o f (if excl then a else b.1)
    let (os, z, e) := scanRun o f excl writes vs b.1
    (out.1 :: os, z, b.2 ||| (if writes then out.2 else 0) ||| e)

/-- The scan anchor 94 + q (R117). -/
def exactAnchor (f : Nat) : Int := 94 + fmtQ f

/-- An exact scan of elements as products with 1. -/
def exactRun (f : Nat) (excl : Bool) : List (Nat × Bool) → Wide → List Wide × Wide
  | [], acc => ([], acc)
  | (v, start) :: vs, acc =>
    let a := if start then Wide.zero else acc
    let b := a.add ((decodeElem f v).product valOne (exactAnchor f))
    let (os, z) := exactRun f excl vs b
    ((if excl then a else b) :: os, z)

/-- Elements with the flags that start segments (R114). -/
def segments (vals : List Nat) (flags : List Bool) (useFlags carry : Bool) : List (Nat × Bool) :=
  (vals.zip (flags.zip (upTo vals.length))).map fun p => (p.1, (useFlags && p.2.1) || (decide (p.2.2 = 0) && !carry))

/-! ## Summaries (R119, R121, R122) -/

/-- A value widened to 32 bits. -/
def vWiden (f v : Nat) : Nat := if isFloat f then (convert 0 0 0 false 0 (decodeElem f v)).1 else toBits 32 (vIntVal f v)

/-- The identities of MIN and MAX in widened form. -/
def summaryIdentity (f : Nat) (wantMax : Bool) : Nat :=
  if isFloat f then (if wantMax then 0xFF800000 else 0x7F800000)
  else toBits 32 (if wantMax then (intRange f).1 else (intRange f).2)

def minMax32 (f : Nat) (wantMax : Bool) (a b : Nat) : Nat :=
  if isFloat f then fpMinMax 0 wantMax a b
  else if wantMax then toBits 32 (max (signed 32 a) (signed 32 b)) else toBits 32 (min (signed 32 a) (signed 32 b))

/-- SSUM of the flagged elements (R121). -/
def summary (f : Nat) (vals : List Nat) (flags : List Bool) : BitVec 128 :=
  let fl := (vals.zip flags).filter Prod.snd
  let isN := fun v => isFloat f && (decodeElem f v).isNan
  let good := (fl.map Prod.fst).filter (fun v => !isN v)
  let any := !fl.isEmpty
  let first := ((flags.zip (upTo flags.length)).find? Prod.fst).map Prod.snd
  BitVec.ofNat 128 ((if any then 1 else 0) + (if flags.all id then 2 else 0) + (if fl.any (fun p => isN p.1) then 4 else 0) +
    2 ^ 4 * fl.length + 2 ^ 16 * first.getD 0x7FF +
    2 ^ 64 * (good.foldl (fun a v => minMax32 f false a (vWiden f v)) (summaryIdentity f false)) +
    2 ^ 96 * (good.foldl (fun a v => minMax32 f true a (vWiden f v)) (summaryIdentity f true)))

/-! ## Execution -/

/-- What the engine holds as an instruction runs. -/
structure VRun where
  t : Nat
  share : Memory
  size : Nat
  /-- Base of the group's local-store allocation. -/
  base : Nat
  vl : Nat
  vacc : BitVec 128
  tag : Byte
  rng : Rng
  /-- What it has done: exceptions, SSUM, VL and draws; `busy` is its occupancy. -/
  exc : Exc
  ssum : Option (BitVec 128)
  wroteVacc : Bool
  newVl : Option Nat
  taken : Nat
  busy : Nat
deriving DecidableEq, Repr

/-- What a run answers: a fault code and address, or the engine after it. -/
abbrev VOut := Except (Nat × Nat) VRun

def VRun.reg (r : VRun) (n : Nat) : Nat := r.base + 4096 * n
def VRun.elems (r : VRun) (f n : Nat) : List Nat := getElems r.share f (r.reg n) r.vl
def VRun.flags (r : VRun) (n : Nat) : List Bool := (upTo r.vl).map fun k => (r.share.read (r.reg n + k)).getLsbD 0
/-- Flags of VC, or all set. -/
def VRun.flagged (r : VRun) (w : Nat) : List Bool := if vfFlg w then r.flags (vfVC w) else List.replicate r.vl true
/-- The second source, or the broadcast scalar (R107). -/
def VRun.second (r : VRun) (w : Nat) (xs : List Word) : List Nat :=
  if vfBs w then List.replicate r.vl ((xs.headD 0).toNat % 2 ^ fmtBits (vfFmt w)) else r.elems (vfFmt w) (vfVB w)
def VRun.put (r : VRun) (f n : Nat) (vs : List Nat) : VRun := { r with share := putElems f (r.reg n) 0 vs r.share }
def VRun.quad (r : VRun) (n k : Nat) : Wp96 := Wp96.decode (r.share.readNat (r.reg n + 16 * k) 16)
def VRun.putQuad (r : VRun) (n : Nat) (vs : List Wp96) : VRun := r.put 14 n (vs.map Wp96.encode)

/-- Elements per core cycle and the occupancy e of R109. -/
def vE (f vl : Nat) : Nat := ceilDiv vl (if fmtBits f = 32 then 128 else if fmtBits f = 16 then 256 else 512)

/-- Core cycles of a group of accesses by the bank rule (R120). -/
def bankCycles (addrs : List Nat) : Nat :=
  let words := (addrs.map (· / 4)).eraseDups
  max 1 ((words.map (fun w => (words.filter (fun v => v % 128 == w % 128)).length)).foldl max 0)

/-- The bank rule over groups of 32. -/
def bankTotal : Nat → List Nat → Nat
  | 0, _ => 0
  | n + 1, l => if l.isEmpty then 0 else bankCycles (l.take 32) + bankTotal n (l.drop 32)

/-- Addresses of a strided or indexed access (R120). -/
def VRun.addrs (r : VRun) (vop w : Nat) (xs : List Word) : List Int :=
  let b := fmtBits (vfFmt w) / 8
  let x : Int := (xs.headD 0).toNat
  if 0x25 ≤ vop then (r.elems 11 (vfVB w)).map fun v => x + signed 32 v * b
  else (upTo r.vl).map fun (k : Nat) => x + (k : Int) * Word.int (xs.getD 1 0)

/-- The fault 0x24 of a strided or indexed access, or its addresses. -/
def VRun.checked (r : VRun) (vop w : Nat) (xs : List Word) : Except (Nat × Nat) (List Nat) :=
  let b := fmtBits (vfFmt w) / 8
  let as := r.addrs vop w xs
  let step : Nat := if 0x25 ≤ vop then (xs.headD 0).toNat else (xs.getD 1 0).toNat
  let negIdx := decide (0x25 ≤ vop) && (r.elems 11 (vfVB w)).any (fun v => decide (2 ^ 31 ≤ v))
  if r.vl = 0 then .ok []
  else if step % b ≠ 0 || negIdx then .error (0x24, step)
  else
    match as.find? (fun a => decide (a < 0) || decide ((r.size : Int) < a + b)) with
    | some a => .error (0x24, toBits 32 a)
    | none => .ok (as.map Int.toNat)

/-- The rounding nibbles of VCVT's elements under SR4 (R112, R166, R169); none: a lane's range end. -/
def vecDraws (t tid idx : Nat) : Nat → Nat → Rng → Option (List Nat × Rng)
  | 0, _, g => some ([], g)
  | n + 1, i, g =>
    match g.takeRound t (i % 128) tid ((idx + i) % 2 ^ 64) with
    | none => none
    | some (v, g1) =>
      match vecDraws t tid idx n (i + 1) g1 with
      | none => none
      | some (vs, g2) => some (v :: vs, g2)

/-- The words of RNGV's elements (R167, R168). -/
def vecWords (t tid idx d : Nat) : Nat → Nat → Rng → Option (List Nat × Rng)
  | 0, _, g => some ([], g)
  | n + 1, i, g =>
    match g.takeWord t (i % 128) tid ((idx + i) % 2 ^ 64) d with
    | none => none
    | some (v, g1) =>
      match vecWords t tid idx d n (i + 1) g1 with
      | none => none
      | some (vs, g2) => some (v :: vs, g2)

def wordPair (xs : List Word) (k : Nat) : Nat := (xs.getD k 0).toNat + 2 ^ 32 * (xs.getD (k + 1) 0).toNat

/-- VCVT (R112). -/
def VRun.cvt (r : VRun) (w : Nat) (xs : List Word) : VOut :=
  let f := vfFmt w
  let g := vfFmt2 w
  let scl := vfScl w
  let destScaled := decide (scl ≠ 0) && decide (f < 3)
  let srcs := ((r.elems f (vfVA w)).zip (upTo r.vl)).map fun p =>
    if destScaled || decide (scl = 0) then decodeElem f p.1
    else decodeScaled f scl (r.share.read (r.reg (vfVC w) + p.2 / blockSize scl)).toNat p.1
  match (if vfRnd w = 2 then vecDraws r.t (xs.headD 0).toNat (wordPair xs 1) r.vl 0 r.rng
      else some (List.replicate r.vl 0, r.rng)) with
  | none => .error (0x29, 0)
  | some (ds, rng) =>
    let r1 := { r with rng := rng, taken := if vfRnd w = 2 then r.rng.drawsTo rng r.t 32 (wordPair xs 1) r.vl else 0, busy := max (vE f r.vl) (vE g r.vl) * (if destScaled then 2 else 1) }
    if destScaled then
      let (ss, es, x) := quantRow scl g (vfRnd w) (vfSat w) (ceilDiv r.vl (blockSize scl)) (srcs.zip ds)
      let r2 := (r1.put g (vfVD w) es)
      .ok { (r2.put 12 (vfVC w) ss) with exc := x }
    else
      let cs := (srcs.zip ds).map fun p => convert g (vfRnd w) p.2 (vfSat w) 0 p.1
      .ok { (r1.put g (vfVD w) (cs.map Prod.fst)) with exc := cs.foldl (fun e c => e ||| c.2) 0 }

/-- VSCANI, VSCANX and VRED (R113 to R116). -/
def VRun.scan (r : VRun) (vop w : Nat) : VOut :=
  let f := vfFmt w
  let o := vfFmt2 w
  let tag := BitVec.ofNat 8 (f + 16 * o)
  let r := { r with busy := if scanFloatAdd w then ceilDiv r.vl 4 else 2 * vE f r.vl }
  if vfCarry w && r.tag ≠ tag then .error (0x23, 0)
  else if r.vl = 0 then .ok (if vfCarry w then r else { r with vacc := BitVec.ofNat 128 (scanIdentity o f), tag := tag, wroteVacc := true })
  else
    let bits := if scanFloatAdd w then 32 else fmtBits f
    let seg := segments (r.elems f (vfVA w)) (if vfFlg w then r.flags (vfVC w) else List.replicate r.vl false) (vfFlg w) (vfCarry w)
    let (os, z, e) := scanRun o f (decide (vop = 0x31)) (decide (vop ≠ 0x32)) seg (r.vacc.toNat % 2 ^ bits)
    let r1 := if vop = 0x32 then r else r.put f (vfVD w) os
    .ok { r1 with vacc := BitVec.ofNat 128 z, tag := tag, wroteVacc := true, exc := e }

/-- VWSCANI, VWSCANX and VWRED (R117). -/
def VRun.exact (r : VRun) (vop w : Nat) : VOut :=
  let f := vfFmt w
  let a := exactAnchor f
  let r := { r with busy := if vop = 0x3A then vE f r.vl else ceilDiv r.vl 32 }
  let zero := BitVec.ofNat 128 (Wp96.encode ⟨0, a, 0⟩)
  if vfCarry w && r.tag ≠ 0x0E then .error (0x23, 0)
  else if r.vl = 0 then .ok (if vfCarry w then r else { r with vacc := zero, tag := 0x0E, wroteVacc := true })
  else
    let seg := segments (r.elems f (vfVA w)) (if vfFlg w then r.flags (vfVC w) else List.replicate r.vl false) (vfFlg w) (vfCarry w)
    let (os, z) := exactRun f (decide (vop = 0x39)) seg ((Wp96.decode r.vacc.toNat).moveTo a).wide
    let r1 := if vop = 0x3A then r else r.putQuad (vfVD w) (os.map fun x => ⟨x.int, a, x.flags⟩)
    .ok { r1 with vacc := BitVec.ofNat 128 (Wp96.encode ⟨z.int, a, z.flags⟩), tag := 0x0E, wroteVacc := true }

/-- The element-wise operations (R109 to R111). -/
def VRun.element (r : VRun) (vop w : Nat) (xs : List Word) : VRun :=
  let f := vfFmt w
  let a := r.elems f (vfVA w)
  let e := vE f r.vl
  if vop ≤ 8 then
    let b := if vop ≤ 6 then r.second w xs else a
    let c := if vop = 4 then r.elems f (vfVC w) else a
    let rs := (a.zip (b.zip c)).map fun p => vArithOp vop f (vfRnd w) p.1 p.2.1 p.2.2
    { (r.put f (vfVD w) (rs.map Prod.fst)) with exc := rs.foldl (fun x v => x ||| v.2) 0, busy := e }
  else if vop ≤ 0x0D then
    { (r.put f (vfVD w) ((a.zip (r.second w xs)).map fun p => vBitOp vop f p.1 p.2)) with busy := e }
  else if vop ≤ 0x11 then
    { (r.put 9 (vfVD w) ((a.zip (r.second w xs)).map fun p => if vCompare vop f p.1 p.2 then 1 else 0)) with busy := e }
  else if vop = 0x12 then
    { (r.put f (vfVD w) ((a.zip ((r.second w xs).zip (r.flags (vfVC w)))).map fun p => if p.2.2 then p.1 else p.2.1)) with busy := e }
  else
    let rs := a.map (vFunc vop (vfRnd w))
    { (r.put 0 (vfVD w) (rs.map Prod.fst)) with exc := rs.foldl (fun x v => x ||| v.2) 0, busy := 4 * e }

/-- Elements as an engine moves them: a WP96 value loses the reserved bits that engines ignore on read (R47). -/
def storedElems (f : Nat) (vs : List Nat) : List Nat := if f = 14 then vs.map (· % 2 ^ 117) else vs

/-- The bytes of a row as VST stores it: none beyond the last element's (R101), the unused bits of the last one 0 (R43). -/
def storeRow (f : Nat) (vs : List Nat) : List Byte :=
  natToBytes (vecBytes f vs.length) (vs.foldr (fun c n => c + 2 ^ fmtBits f * n) 0)

/-- The loads and stores (R109, R120). -/
def VRun.access (r : VRun) (vop w : Nat) (xs : List Word) : VOut :=
  let f := vfFmt w
  let x := (xs.headD 0).toNat
  let n := vecBytes f r.vl
  if vop = 0x21 || vop = 0x22 then
    let r := { r with busy := max 1 (ceilDiv n 512) }
    if r.vl = 0 then .ok r
    else if x % 16 ≠ 0 || decide (r.size < x + n) then .error (0x24, x)
    else if vop = 0x21 then .ok (r.put f (vfVD w) (storedElems f (getElems r.share f x r.vl)))
    else .ok { r with share := r.share.writeBytes x (storeRow f (storedElems f (r.elems f (vfVA w)))) }
  else
    match r.checked vop w xs with
    | .error e => .error e
    | .ok as =>
      let r := { r with busy := bankTotal 33 as }
      if vop = 0x23 || vop = 0x25 then .ok (r.put f (vfVD w) (as.map fun a => getElem r.share f a 0))
      else .ok { r with share := (as.zip (r.elems f (vfVA w))).foldl (fun m p => putElem m f p.1 0 p.2) r.share }

/-- The engine runs one vector instruction (R109). -/
def VRun.run (r : VRun) (vop w : Nat) (xs : List Word) : VOut :=
  let f := vfFmt w
  if vop = 0 then .ok { r with newVl := some (min (xs.headD 0).toNat 1024), vl := min (xs.headD 0).toNat 1024, busy := 1 }
  else if vop ≤ 0x15 then .ok (r.element vop w xs)
  else if vop = 0x20 then r.cvt w xs
  else if vop ≤ 0x26 then r.access vop w xs
  else if vop ≤ 0x32 then r.scan vop w
  else if vop = 0x33 then
    let a := r.elems f (vfVA w)
    let fl := r.flags (vfVC w)
    .ok { (r.put f (vfVD w) (((a.zip fl).filter Prod.snd).map Prod.fst)) with ssum := some (summary f a fl), busy := 2 * vE f r.vl }
  else if vop = 0x34 then .ok { r with ssum := some (summary f (r.elems f (vfVA w)) (r.flagged w)), busy := vE f r.vl }
  else if vop ≤ 0x3A then r.exact vop w
  else
    let vs := (upTo r.vl).map fun k =>
      if vop = 0x3B then (r.quad (vfVA w) k).add (r.quad (vfVB w) k)
      else (r.quad (vfVA w) k).moveTo (signed 16 ((xs.headD 0).toNat % 2 ^ 16))
    .ok { (r.putQuad (vfVD w) vs) with busy := ceilDiv r.vl 32 }

/-- RNGV as it runs (R173). -/
def VRun.rngv (r : VRun) (w : Nat) (xs : List Word) : VOut :=
  match vecWords r.t (xs.headD 0).toNat (wordPair xs 1) (xs.getD 3 0).toNat r.vl 0 r.rng with
  | none => .error (0x29, 0)
  | some (vs, g) => .ok { (r.put 11 (rngVD w) vs) with rng := g, taken := r.rng.drawsTo g r.t 4 (wordPair xs 1) r.vl, busy := max 1 (ceilDiv r.vl 128) }

/-- Bytes of the share: an address and a length. -/
abbrev Bytes := Nat × Nat
/-- The first `n` elements of a vector register. -/
def VRun.area (r : VRun) (f n k : Nat) : Bytes := (r.reg n, vecBytes f k)

/-- The bytes outside the registers that an access reads or writes (R109, R120). -/
def VRun.reached (r : VRun) (vop w : Nat) (xs : List Word) : List Bytes :=
  let x := (xs.headD 0).toNat
  let n := vecBytes (vfFmt w) r.vl
  if vop = 0x21 || vop = 0x22 then (if x % 16 ≠ 0 || decide (r.size < x + n) then [] else [(x, n)])
  else
    match r.checked vop w xs with
    | .error _ => []
    | .ok as => as.map fun a => (a, fmtBits (vfFmt w) / 8)

/-- The bytes that a vector instruction reads. -/
def VRun.reads (r : VRun) (w : Nat) (xs : List Word) : List Bytes :=
  let vop := vfVop w
  let f := if 0x3B ≤ vop then 14 else vfFmt w
  let scl := vfScl w
  let flags := if (decide (0x30 ≤ vop) && decide (vop ≤ 0x3A) && (vfFlg w || decide (vop = 0x33))) || decide (vop = 0x12) then
    [r.area 9 (vfVC w) r.vl] else []
  let a := if vop = 0 || vop = 0x21 || vop = 0x23 || vop = 0x25 then [] else [r.area f (vfVA w) r.vl]
  let b := if vop = 0x25 || vop = 0x26 then [r.area 11 (vfVB w) r.vl]
    else if vop = 0x3B || ((decide (vop ≤ 6) || decide (9 ≤ vop) && decide (vop ≤ 0x12)) && !vfBs w && decide (vop ≠ 0)) then
      [r.area f (vfVB w) r.vl] else []
  let c := if vop = 4 then [r.area f (vfVC w) r.vl]
    else if vop = 0x20 && scl ≠ 0 && 3 ≤ f then [r.area 12 (vfVC w) (ceilDiv r.vl (blockSize scl))] else []
  a ++ b ++ c ++ flags ++ (if vop = 0x21 || vop = 0x23 || vop = 0x25 then r.reached vop w xs else [])

/-- The bytes that a vector instruction writes. -/
def VRun.writes (r : VRun) (w : Nat) (xs : List Word) : List Bytes :=
  let vop := vfVop w
  let scl := vfScl w
  let f := if 0x38 ≤ vop then 14 else if vop = 0x20 then vfFmt2 w else if 0x13 ≤ vop && vop ≤ 0x15 then 0
    else if 0x0E ≤ vop && vop ≤ 0x11 then 9 else vfFmt w
  let n := if vop = 0x33 then ((r.flags (vfVC w)).filter id).length else r.vl
  if vop = 0x22 || vop = 0x24 || vop = 0x26 then r.reached vop w xs
  else if vop = 0 || vop = 0x32 || vop = 0x34 || vop = 0x3A then []
  else (r.area f (vfVD w) n) ::
    (if vop = 0x20 && scl ≠ 0 && vfFmt w < 3 then [r.area 12 (vfVC w) (ceilDiv r.vl (blockSize scl))] else [])

/-- Whether a word of a tile holds one of some bytes of the share. -/
def holdsBytes (bs : List Bytes) (n : Nat) : Bool := bs.any fun b => decide (b.2 ≠ 0) && inShare b.1 b.2 n

/-- The group of a queued instruction: resident, or ended with the instruction still queued (R104). -/
def Tile.vecGroup (x : Tile) (op : VecOp) : Option Group :=
  match smFind x.groups op.slot with
  | some g => if g.id == op.group then some g else (x.leaving.find? fun e => e.1 == op.slot && e.2.id == op.group).map Prod.snd
  | none => (x.leaving.find? fun e => e.1 == op.slot && e.2.id == op.group).map Prod.snd

/-- Keeps what the engine holds for a group after an instruction; an ended group is forgotten with its last one. -/
def Tile.setVecGroup (x : Tile) (op : VecOp) (g : Group) : Tile :=
  if x.owns op.slot op.group then { x with groups := smPut x.groups op.slot g }
  else
    let more := x.vecQueue.any fun v => v.slot == op.slot && v.group == op.group
    { x with leaving :=
        if more then x.leaving.map fun e => if e.1 == op.slot && e.2.id == op.group then (e.1, g) else e
        else x.leaving.filter fun e => !(e.1 == op.slot && e.2.id == op.group) }
def State.setVecGroup (s : State) (t : Nat) (op : VecOp) (g : Group) : State := s.updTile t fun x => x.setVecGroup op g

/-- The engine as it takes up an instruction of a group. -/
def State.vecStart (s : State) (t : Nat) (im : Image) (op : VecOp) (g : Group) : VRun :=
  let x := s.tile t
  ⟨t, x.share, im.share, im.lsBase (op.slot / 16) (op.slot % 16), g.engVl, g.engVacc, g.engVaccTag, x.rng, 0, none, false, none, 0, 0⟩

/-- Runs the instruction at the head of the vector queue for its group. -/
def State.runVec (s : State) (t jobId : Nat) (im : Image) (op : VecOp) (rest : List VecOp) (g : Group) : State :=
  let x := { (s.tile t) with vecQueue := rest }
  let w := op.word.toNat
  let base := im.lsBase (op.slot / 16) (op.slot % 16)
  let r := s.vecStart t im op g
  let put := if w / 2 ^ 58 = 0x0B then [r.area 11 (rngVD w) r.vl] else r.writes w op.xs
  match (if w / 2 ^ 58 = 0x0B then r.rngv w op.xs else r.run (vfVop w) w op.xs) with
  | .error e =>
    let x1 := if e.1 = 0x29 then { x with rngCounters := x.rngCounters.add 0x118 1 } else x
    (s.setTile t x1).tileFault t jobId ⟨BitVec.ofNat 32 t, op.group, op.lanes, op.pc⟩ e.1 w e.2
  | .ok v =>
    let d := op.dest base im.share
    let done : VecDone := ⟨op.slot, op.group, d.1, d.2, v.newVl, v.ssum,
      if v.wroteVacc then some (v.vacc, v.tag) else none,
      if w / 2 ^ 58 = 0x10 && writesCstat w then some v.exc else none, v.newVl.map fun _ => (vfXs w, op.lanes)⟩
    let s1 := s.setTile t { (x.written (holdsBytes put)) with
      share := v.share, rng := v.rng, rngCounters := x.rngCounters.add 0x108 v.taken,
      counters := x.counters.add 0x128 (max 1 v.busy), vecDone := x.vecDone ++ [done] }
    s1.setVecGroup t op { g with engVl := v.vl, engVacc := v.vacc, engVaccTag := v.tag }

/-- VECTOR_EXECUTE (R104, R123): the engine runs the instruction at the head of its queue, also for a group that has ended; a
source that cannot be corrected ends the job instead. -/
def execVectorExecute (tile : Fin 416) (s : State) : Out :=
  let t := tile.val
  let x := s.tile t
  match x.vecQueue, s.tileJob t with
  | op :: rest, some j =>
    if s.present j then
      match x.vecGroup op, s.job j with
      | some g, some v =>
        let r := s.vecStart t v.image op g
        let c := s.readWords t v.image.nR v.image.share
          (holdsBytes (if op.word.toNat / 2 ^ 58 = 0x0B then [] else r.reads op.word.toNat op.xs))
        .next (if c.1 then c.2.runVec t j v.image op rest g else c.2)
      | _, _ => .next (s.setTile t { x with vecQueue := rest })
    else .next s
  | _, _ => .next s

/-- What of an instruction's results the group sees once they are visible. -/
def Group.vecVisible (g : Group) (d : VecDone) : Group :=
  let g1 := { (g.orCstat (d.exc.getD 0)) with vout := g.vout - 1, vl := d.vl.getD g.vl, ssum := d.ssum.getD g.ssum, vacc := (d.vacc.map Prod.fst).getD g.vacc, vaccTag := (d.vacc.map Prod.snd).getD g.vaccTag }
  match d.xs with
  | none => g1
  | some (r, ls) =>
    let lanes := maskLanes ls
    lanes.foldl (fun g l => g.release l [r]) (g1.setLanes r (fun _ => BitVec.ofNat 32 (d.vl.getD 0)) lanes)

/-- VECTOR_RESULT_VISIBLE (R104, R105): the oldest instruction that has run becomes visible to the group and to the array
operations that the group issued after it. -/
def execVectorResultVisible (tile : Fin 416) (s : State) : Out :=
  let t := tile.val
  let x := s.tile t
  match x.vecDone, s.tileJob t with
  | d :: rest, some j =>
    if s.present j then
      let q := x.arrayQueue.map fun o => if o.slot == d.slot && o.group == d.group then { o with afterVec := o.afterVec - 1 } else o
      let s1 := s.setTile t { x with vecDone := rest, arrayQueue := q }
      .next (match smFind x.groups d.slot with
        | some g => if g.id == d.group then s1.setGroup t d.slot (g.vecVisible d) else s1
        | none => s1)
    else .next s
  | _, _ => .next s

end Sys2Proof.Machine
end

