-- ==== Sys2Proof/Machine/Ldst.lean ====
section
/-! DEFINITION. Loads, stores, fences and atomics of the thread-group processors (R139 to R144), the peer window (R375,
R376) and the pools' protection (R276). -/

namespace Sys2Proof.Machine

/-! ## Addresses and faults -/

/-- Bytes of a KV page (R274). -/
def Image.pageBytes (im : Image) : Nat := if im.kvPage = 0 then 16384 else if im.kvPage = 1 then 65536 else 262144
/-- Whether a range meets a sequence-table pool (R276). -/
def Image.inPool (im : Image) (a n : Nat) : Bool :=
  (maskStacks im.stackBits).any fun k =>
    let b := im.poolBase.getD k 0
    decide (0 < im.poolPages.getD k 0) && decide (a < b + im.poolPages.getD k 0 * im.pageBytes) && decide (b < a + n)

/-- Bytes of an access by MOD[1:0] (R139). -/
def memSize (md : Nat) : Nat := match md % 4 with | 0 => 1 | 1 => 2 | 2 => 4 | _ => 16
/-- Registers of an operand of a size. -/
def memRegs (size : Nat) : Nat := if size = 16 then 4 else 1

/-- Where a device access goes: a peer's fabric ID, or none for this device, and the address there. -/
structure Target where
  peer : Option Nat
  addr : Nat
deriving DecidableEq, Repr

/-- What is wrong with an access: the detail code, the local address or 0, and for a fabric code the destination. -/
structure Wrong where
  code : Nat
  addr : Nat
  dest : Nat
deriving DecidableEq, Repr

/-- The effective local address: RA + OFF modulo 2^32. -/
def Issue.localAddr (i : Issue) (lane : Nat) : Nat := toBits 32 ((i.grp.reg lane (insRA i.word)).toNat + signed 16 (insOFF i.word))
/-- The effective device address: the pair at RA plus OFF modulo 2^64. -/
def Issue.deviceAddr (i : Issue) (lane : Nat) : Nat :=
  toBits 64 ((i.grp.reg lane (insRA i.word)).toNat + 2 ^ 32 * (i.grp.reg lane (insRA i.word + 1)).toNat + signed 16 (insOFF i.word))

/-- Checks a local access (R139, R156). -/
def Issue.localBad (i : Issue) (size lane : Nat) : Option Wrong :=
  let a := i.localAddr lane
  if a % size = 0 && decide (a + size ≤ i.job.image.share) then none else some ⟨0x26, a, 0⟩

/-- Resolves a device access (R139, R250, R375, R385). -/
def State.resolve (s : State) (im : Image) (a size : Nat) : Except Wrong Target :=
  let here := fun x => if x + size ≤ im.footprint then .ok ⟨none, x⟩ else .error ⟨0x26, 0, 0⟩
  if a % size ≠ 0 then .error ⟨0x26, 0, 0⟩
  else if a < 2 ^ 63 then here a
  else if a / 2 ^ 56 % 128 ≠ 0 then .error ⟨0x26, 0, 0⟩
  else
    let d := a / 2 ^ 40 % 65536
    if s.unassigned then .error ⟨0x37, 0, d⟩
    else if d = s.fabricId then here (a % 2 ^ 40)
    else .ok ⟨some d, a % 2 ^ 40⟩

/-- A device access of a lane, with the checks that its kind adds: a write keeps out of the pools, and a peer access other
than a store has no broadcast form and needs a usable hop. -/
def State.laneTarget (s : State) (i : Issue) (size : Nat) (write isStore ordered : Bool) (lane : Nat) : Except Wrong Target :=
  match s.resolve i.job.image (i.deviceAddr lane) size with
  | .error e => .error e
  | .ok ⟨none, a⟩ => if write && i.job.image.inPool a size then .error ⟨0x30, 0, 0⟩ else .ok ⟨none, a⟩
  | .ok ⟨some d, a⟩ =>
    if d % 256 = 0xFF then (if isStore then .ok ⟨some d, a⟩ else .error ⟨0x37, 0, d⟩)
    else if (s.nextHop s.fabricId d (if ordered then 0 else 1) ordered).isNone then .error ⟨0x35, 0, d⟩
    else .ok ⟨some d, a⟩

/-- Decides the job's end by what is wrong with an access (R517). -/
def State.accessFault (s : State) (i : Issue) (e : Wrong) : State :=
  if 0x33 ≤ e.code then
    (s.jobFault i.jobId e.code i.site (natToBytes 2 e.dest) 0xFFFFFFFF).cntTile i.t 0x150 1
  else s.insFault i e.code e.addr

/-- The error of the lowest lane that has one. -/
def firstWrong (f : Nat → Option Wrong) : List Nat → Option Wrong
  | [] => none
  | l :: ls =>
    match f l with
    | some e => some e
    | none => firstWrong f ls

def wrongOf {α : Type} : Except Wrong α → Option Wrong
  | .error e => some e
  | .ok _ => none

/-! ## Waits (R105, R140, R142, R376) -/

/-- An atomic with acquire ordering of the thread has not completed. -/
def State.acquiring (s : State) (t key lane : Nat) : Bool :=
  s.sole.atomics.any (fun a => a.acquire && a.tile == t && a.slot == key && a.lanes.contains lane) ||
  s.fabric.outstanding.any (fun a => a.acquire && a.tile == t && a.slot == key && a.lanes.contains lane)

/-- Some request that a test selects waits at an injection port or is on its way to its home slice. -/
def State.onWay (s : State) (p : Nat → Request → Bool) : Bool :=
  s.qos.inject.any (fun x => p x.line.toNat x.req) ||
  s.sole.net.any (fun m => match m with | .request n a => p n.toNat a.req | _ => false)

/-- A non-caching request of a thread on a line is still on its way. -/
def State.ncPending (s : State) (t key lane l : Nat) : Bool :=
  let mine := fun (src : Sender) => match src with
    | .thread x => x.tile.val == t && 16 * x.tgp.val + x.slot.val == key && x.lane.val == lane
    | _ => false
  let isMine := fun (r : Request) => match r with
    | .ncwr src _ _ => mine src
    | .ncrd src _ => mine src
    | _ => false
  s.onWay (fun n r => n == l && isMine r) || (s.soleLine l).queue.any (fun a => isMine a.req) ||
  (s.soleLine l).txn.any (fun x => isMine x.ask.req) ||
  s.sole.atomics.any (fun a => a.tile == t && a.slot == key && a.lanes.contains lane)

/-- A thread's access to a line keeps program order with its earlier ones to that line (R140). -/
def State.lineBusy (s : State) (t key lane l : Nat) (write : Bool) : Bool :=
  let x := s.tile t
  x.stores.any (fun p => p.slot == key && p.lane == lane && p.line.toNat == l) || s.ncPending t key lane l ||
  (write && x.loads.any (fun p => p.slot == key && p.lane == lane && p.line.toNat == l))

/-- The 256-byte line of a peer address. -/
def peerLine (d a : Nat) : Nat := (2 ^ 40 * d + a) / 256
/-- An unordered access of the thread to a peer line is unacknowledged (R376). -/
def State.peerBusy (s : State) (t key lane d a : Nat) : Bool :=
  s.fabric.outstanding.any fun o => !o.ordered && o.tile == t && o.slot == key && o.lanes.contains lane && o.line == peerLine d a

/-- A lane's device access can be issued now. -/
def State.laneFree (s : State) (i : Issue) (write : Bool) (lane : Nat) (g : Target) : Bool :=
  !s.acquiring i.t i.key lane &&
  match g.peer with
  | some d => !s.peerBusy i.t i.key lane d g.addr && decide (s.fabric.outstanding.length < 65000)
  | none =>
    match s.plan.place i.job.image g.addr with
    | none => false
    | some pl => !s.lineBusy i.t i.key lane pl.line write

/-! ## One lane's device access -/

/-- The sender of a request of a lane of the issuing set. -/
def laneSender (site : Site) (lane : Nat) : Sender := .thread { site with lane := Fin.ofNat 32 lane }

/-- A request of the issuing group waits at its tile's injection port, in the class of the group (R297), unless the same one is
on its way. -/
def State.request (s : State) (i : Issue) (l : Nat) (r : Request) : State :=
  if s.onWay fun n q => n == l && q == r then s else s.inject i.t i.grp.cls.toNat l r

/-- A request for bytes of a line asks for more of them. -/
def Request.alsoBytes (tile : Fin 416) (need : BitVec 256) : Request → Request
  | .gets t k => if t = tile then .gets t (k ||| need) else .gets t k
  | r => r

/-- Asks the home slice for bytes of a line; a request of the tile for the line that is still on its way takes them in. -/
def State.requestBytes (s : State) (i : Issue) (tile : Fin 416) (l : Nat) (need : BitVec 256) : State :=
  if s.onWay fun n r => n == l && (match r with | .gets t _ => t == tile | _ => false) then
    { s with
      qos.inject := s.qos.inject.map fun x => if x.line.toNat = l then { x with req := x.req.alsoBytes tile need } else x
      sole.net := s.sole.net.map fun m => match m with
        | .request n a => if n.toNat = l then .request n { a with req := a.req.alsoBytes tile need } else m
        | _ => m }
  else s.inject i.t i.grp.cls.toNat l (.gets tile need)

/-- A load of a lane from this device: an L1 hit lands at once; else it waits for a fill, or with hint 0b10 for the sole's
answer (R139, R197). -/
def State.loadLine (s : State) (i : Issue) (site : Site) (lane a size hint : Nat) (sx : Bool) : State :=
  match s.plan.place i.job.image a with
  | none => s
  | some pl =>
    let l := pl.line
    let off := pl.o % 256
    let need := byteRange off size
    let rd := insRD i.word
    let hit := hint ≠ 2 && need &&& ~~~(s.l1Line i.t l).valid == 0
    let x := if hit then s.l1Read i.job.image i.t l need else (true, s)
    let s := x.2
    let c := s.l1Line i.t l
    if hit && x.1 then
      (s.updGroup i.t i.key fun g => g.landLoad lane rd size (lineField c.data off size) sx).cntTile i.t 0x130 1
    else
      let p : PendingLoad := ⟨i.key, lane, rd, BitVec.ofNat 32 l, off, size, sx, hint == 2⟩
      let s1 := (s.updTile i.t fun x => { x with loads := x.loads ++ [p] }).updGroup i.t i.key
        fun g => g.claim [lane] ((upTo (memRegs size)).map (rd + ·))
      if hint = 2 then s1.request i l (.ncrd (laneSender site lane) need)
      else (s1.requestBytes i site.tile l need).cntTile i.t 0x138 1

/-- A store of a lane to this device: into an owned line of the L1 at once; else it waits for ownership; with hint 0b10 it
goes to the home slice (R139, R197). -/
def State.storeLine (s : State) (i : Issue) (site : Site) (lane a size v hint : Nat) : State :=
  match s.plan.place i.job.image a with
  | none => s
  | some pl =>
    let l := pl.line
    let off := pl.o % 256
    let mask := byteRange off size
    let data := lineOf off size v
    let c := s.l1Line i.t l
    if hint = 2 then
      (s.request i l (.ncwr (laneSender site lane) data mask)).updGroup i.t i.key
        fun g => { g with acks := smSet 0 g.acks lane (smGet 0 g.acks lane + 1) }
    else if c.owned then
      (s.l1Write i.job.image i.t l ⟨byteMerge c.data data mask, c.valid ||| mask, c.dirty ||| mask, true, c.hdr⟩ mask).cntTile i.t 0x130 1
    else
      let p : PendingStore := ⟨i.key, i.grp.id, lane, BitVec.ofNat 32 l, data, mask⟩
      let asked := (s.tile i.t).stores.any (fun q => q.line.toNat == l)
      let s1 := (s.updTile i.t fun x => { x with stores := x.stores ++ [p] }).cntTile i.t 0x138 1
      if asked then s1 else s1.request i l (.getm site.tile)

/-- Sends a peer request, charged to the tile in its group's class (R297, R302), and records it as outstanding (R376). -/
def State.peerSend (s : State) (i : Issue) (d op addr red rlen : Nat) (data : List Byte) (ordered : Bool)
    (acc : Hdr → BitVec 16 → PeerAccess) (lanes : List Nat) : State :=
  let tag := s.fabric.nextTag
  let (hdr, sg) := s.grant i.t i.grp.cls.toNat (if op = 0 then rlen else if op = 1 then data.length else 64)
  let dr : Draft := ⟨s.fabricId, d, op, hdr.bits, ordered, i.jobId, addr, tag.toNat, red, 0, rlen, data⟩
  match sg.sendDraft dr with
  | none => s
  | some s1 =>
    let s2 := { s1 with fabric.nextTag := tag + 1, fabric.outstanding := s1.fabric.outstanding ++ [acc hdr tag] }
    s2.updGroup i.t i.key fun g =>
      lanes.foldl (fun g l => { g with peerAcks := smSet 0 g.peerAcks l (smGet 0 g.peerAcks l + 1) }) g

/-- The record of a peer access. -/
def State.peerAccess (s : State) (i : Issue) (d a rd size : Nat) (sx : Bool) (lanes : List Nat) (ordered acquire : Bool)
    (hdr : Hdr) (tag : BitVec 16) : PeerAccess :=
  ⟨tag, i.t, i.key, i.grp.id, BitVec.ofNat 32 i.jobId, BitVec.ofNat 32 i.pc, laneMask i.lanes, rd, size, sx, lanes,
    BitVec.ofNat 16 d, peerLine d a, ordered, acquire, s.aon.toNat, hdr⟩

/-- A peer load of a lane: READ (R376). -/
def State.peerLoad (s : State) (i : Issue) (lane d a size : Nat) (sx ordered : Bool) : State :=
  let rd := insRD i.word
  (s.peerSend i d 0 a 0 size [] ordered (s.peerAccess i d a rd size sx [lane] ordered false) [lane]).updGroup i.t i.key
    fun g => g.claim [lane] ((upTo (memRegs size)).map (rd + ·))

/-- A broadcast store of a lane (R382): to every device of the group, this one as a write at its home slice where the range lies in
the footprint and in no pool; it is never answered. -/
def State.bcastStore (s : State) (i : Issue) (tile : Fin 416) (d a size v : Nat) : State :=
  let (hdr, sg) := s.grant i.t i.grp.cls.toNat size
  let (q, st, s1) := sg.takeSeq d false
  let dr : Draft := ⟨s.fabricId, d, 6, hdr.bits, false, i.jobId, a, 0, 0, 0, 0, natToBytes size v⟩
  let s2 := s1.spread (dr.finish q st) none
  let im := i.job.image
  let here := match s.plan.place im a with
    | some pl =>
      if d / 256 = s.fabricId / 256 && decide (a + size ≤ im.footprint) && !im.inPool a size then
        s2.send (.request (BitVec.ofNat 32 pl.line) ⟨.ncwr (.l1 tile) (lineOf (pl.o % 256) size v) (byteRange (pl.o % 256) size), hdr⟩)
      else s2
    | none => s2
  here.replied hdr

/-! ## LDL, STL, LDG, STG (R139) -/

/-- The lanes whose access can go now; the instruction issues if the named lane is among them. -/
def State.forLanes (s0 s : State) (i : Issue) (site : Site) (ok : Nat → Bool) (f : State → Nat → State) : State :=
  let ls := i.lanes.filter ok
  if !ls.contains site.lane.val then s0
  else ls.foldl f (s.updGroup i.t i.key fun g => g.advance i.pc ls)

def loadShape (w ra modMax : Nat) : Shape :=
  ⟨memRegs (memSize (insMOD w)), ra, 0, 0, true, false,
    decide (insMOD w < modMax) && (ra = 1 || insRA w % 2 = 0), 0, true, false⟩
def storeShape (w ra modMax : Nat) : Shape :=
  ⟨0, ra, memRegs (memSize (insMOD w)), 0, true, false,
    decide (insMOD w < modMax) && insMOD w / 4 % 2 == 0 && (ra = 1 || insRA w % 2 = 0), 0, true, false⟩

/-- The value a store writes. -/
def Issue.storeValue (i : Issue) (lane size : Nat) : Nat :=
  if size = 16 then i.grp.quad lane (insRB i.word) else (i.grp.reg lane (insRB i.word)).toNat % 2 ^ (8 * size)

/-- Reads the words of the share that the lanes of an issue access (R265): whether they can be used. -/
def State.readShare (s : State) (i : Issue) (n : Nat) : Bool × State :=
  s.readWords i.t i.job.image.nR i.job.image.share fun k => i.lanes.any fun l => inShare (i.localAddr l) n k

/-- LDL (R139): a load from the tile's share. -/
def execLdl (site : Site) (low : BitVec 52) (s : State) : Out :=
  let w := insWord 4 0 low
  let n := memSize (insMOD w)
  .next (s.issueIns site w (loadShape w 1 8) fun i s1 =>
    match firstWrong (i.localBad n) i.lanes with
    | some e => s1.accessFault i e
    | none =>
      let ok := fun l => !s.acquiring i.t i.key l && !(s.tile i.t).vecOverlap i.job.image i.key (i.localAddr l) n
      let c := s1.readShare i n
      if !c.1 then c.2 else
      s.forLanes c.2 i site ok fun t l =>
        t.updGroup i.t i.key fun g => g.landLoad l (insRD w) n ((c.2.tile i.t).share.readNat (i.localAddr l) n) (insMOD w / 4 == 1))

/-- STL (R139): a store to the tile's share, in ascending lane order (R140); part of a word is merged into what it holds. -/
def execStl (site : Site) (low : BitVec 52) (s : State) : Out :=
  let w := insWord 4 1 low
  let n := memSize (insMOD w)
  .next (s.issueIns site w (storeShape w 1 4) fun i s1 =>
    match firstWrong (i.localBad n) i.lanes with
    | some e => s1.accessFault i e
    | none =>
      let ok := fun l => !s.acquiring i.t i.key l && !(s.tile i.t).vecOverlap i.job.image i.key (i.localAddr l) n
      let c := if n < 4 then s1.readShare i n else (true, s1)
      if !c.1 then c.2 else
      s.forLanes c.2 i site ok fun t l => t.updTile i.t fun x =>
        { x.written (inShare (i.localAddr l) n) with share := x.share.writeNat (i.localAddr l) n (i.storeValue l n) })

/-- Issues a device access of every lane that can go. -/
def State.deviceAccess (s0 s : State) (i : Issue) (site : Site) (size : Nat) (write ordered : Bool)
    (f : State → Nat → Target → State) : State :=
  let tg := s0.laneTarget i size write write ordered
  match firstWrong (fun l => wrongOf (tg l)) i.lanes with
  | some e => s.accessFault i e
  | none =>
    let ok := fun l => match tg l with | .ok g => s0.laneFree i write l g | .error _ => false
    s0.forLanes s i site ok fun t l => match tg l with | .ok g => f t l g | .error _ => t

/-- LDG (R139, R376): a load from device memory or from a peer. -/
def execLdg (site : Site) (low : BitVec 52) (s : State) : Out :=
  let w := insWord 5 0 low
  let n := memSize (insMOD w)
  let hint := insMOD w / 8
  let sx := insMOD w / 4 % 2 == 1
  .next (s.issueIns site w (loadShape w 2 24) fun i s1 =>
    s.deviceAccess s1 i site n false (hint != 1) fun t l g =>
      match g.peer with
      | none => t.loadLine i site l g.addr n hint sx
      | some d => t.peerLoad i l d g.addr n sx (hint != 1))

/-- The highest lane of a set that stores to a lane's address: its value prevails (R140), so that every lane's access to the
address carries it. -/
def Issue.prevailing (i : Issue) (lane : Nat) : Nat := (i.lanes.filter fun l => i.deviceAddr l == i.deviceAddr lane).getLastD lane

/-- STG (R139, R376, R382): a store to device memory, to a peer or to a group of peers. -/
def execStg (site : Site) (low : BitVec 52) (s : State) : Out :=
  let w := insWord 5 1 low
  let n := memSize (insMOD w)
  let hint := insMOD w / 8
  .next (s.issueIns site w (storeShape w 2 24) fun i s1 =>
    s.deviceAccess s1 i site n true (hint != 1) fun t l g =>
      let v := i.storeValue (i.prevailing l) n
      match g.peer with
      | none => t.storeLine i site l g.addr n v hint
      | some d =>
        if d % 256 = 0xFF then t.bcastStore i site.tile d g.addr n v
        else t.peerSend i d 1 g.addr 0 0 (natToBytes n v) (hint != 1) (t.peerAccess i d g.addr 0 0 false [l] (hint != 1) false) [l])

/-! ## Fences (R141) -/

/-- Whether a fence of a scope is complete for a thread (R141): earlier loads have returned; group scope or wider waits until
earlier device stores are in L1, tile scope until the group's array and vector writes are visible, stack and package scope
until every device store and atomic is acknowledged, fabric scope until every peer access is acknowledged. Every kind orders
the thread's later accesses after its earlier ones, so that each waits alike. -/
def State.fenceDone (s : State) (t key : Nat) (g : Group) (scope lane : Nat) : Bool :=
  let x := s.tile t
  let mine := fun (p : Nat) (l : Nat) => p == key && l == lane
  let loads := x.loads.all (fun p => !mine p.slot p.lane) &&
    s.sole.atomics.all (fun a => !(a.tile == t && a.slot == key && a.lanes.contains lane))
  let stores := x.stores.all (fun p => !mine p.slot p.lane)
  let peers := scope < 5 || smGet 0 g.peerAcks lane == 0
  scope = 0 || (loads && peers && stores && (scope < 2 || (g.aout == 0 && g.vout == 0)) &&
    (scope < 3 || smGet 0 g.acks lane == 0))

/-- FENCE (R138, R141): threads whose fence is complete pass it; the others stay. -/
def execFence (site : Site) (low : BitVec 52) (s : State) : Out :=
  let w := insWord 7 0 low
  let scope := insMOD w % 8
  let kind := insMOD w / 8
  .next (s.issueIns site w (syncShape (decide (scope < 6) && decide (kind < 3)) false) fun i s1 =>
    s.forLanes s1 i site (s.fenceDone i.t i.key i.grp scope) fun t _ => t)

/-! ## Atomics (R142 to R144) -/

/-- The format of an atomic's operands. -/
def atomFmt (op : AtomicOp) (md : Nat) : Nat := match op with | .afadd => md / 8 | .awadd => 14 | _ => 11
def atomCode : AtomicOp → Nat
  | .aadd => 0 | .amin => 1 | .amax => 2 | .aminu => 3 | .amaxu => 4 | .aand => 5 | .aor => 6 | .axor => 7 | .afadd => 8
  | .awadd => 9 | .acas => 10 | .aexch => 11

def atomShape (op : AtomicOp) (w : Nat) : Shape :=
  let n := if op = .awadd then 4 else 1
  let dev := insMOD w % 2 == 1
  ⟨n, if dev then 2 else 1, n, if op = .acas then 1 else 0, true, false,
    (if op = .afadd then decide (insMOD w < 24) else decide (insMOD w < 8)) && (!dev || insRA w % 2 == 0), 0, true, false⟩

/-- The operand of a lane: for ACAS the value to compare below the value to store. -/
def Issue.atomOperand (i : Issue) (op : AtomicOp) (lane : Nat) : Nat :=
  if op = .awadd then i.grp.quad lane (insRB i.word)
  else (i.grp.reg lane (insRB i.word)).toNat + (if op = .acas then 2 ^ 32 * (i.grp.reg lane (insRC i.word)).toNat else 0)

/-- Writes an atomic's old value to its lane. -/
def Group.landOld (g : Group) (op4 : Bool) (lane rd v : Nat) : Group :=
  if op4 then g.setQuad lane rd v else g.setReg lane rd (BitVec.ofNat 32 v)

/-- Local atomics of lanes in ascending order (R143): the share, the exceptions and the group with its old values. -/
def localAtomics (i : Issue) (op : AtomicOp) (fmt : Nat) : List Nat → Memory → Group → Memory × Exc × Group
  | [], m, g => (m, 0, g)
  | l :: ls, m, g =>
    let n := redSize op fmt
    let a := i.localAddr l
    let old := m.readNat a n
    let (v, x) := atomStep op fmt old (i.atomOperand op l)
    let (m', x', g') := localAtomics i op fmt ls (m.writeNat a n v) (g.landOld (op = .awadd) l (insRD i.word) old)
    (m', x ||| x', g')

/-- Occupancy of a local issue (R144). -/
def atomBusy (op : AtomicOp) (distinct active : Nat) : Nat :=
  match op with
  | .awadd => 4 + 4 * distinct
  | .afadd | .acas | .aexch => 4 + active
  | _ => 4 + distinct

/-- A local atomic issue; with release ordering a lane waits as for a release fence of tile scope (R142). -/
def State.atomLocal (s0 s : State) (i : Issue) (site : Site) (op : AtomicOp) : State :=
  let md := insMOD i.word
  let fmt := atomFmt op md
  let n := redSize op fmt
  match firstWrong (i.localBad n) i.lanes with
  | some e => s.accessFault i e
  | none =>
    let x := s0.tile i.t
    let ok := fun l => !s0.acquiring i.t i.key l && !x.vecOverlap i.job.image i.key (i.localAddr l) n &&
      (md / 4 % 2 == 0 || s0.fenceDone i.t i.key i.grp 2 l)
    let ls := i.lanes.filter ok
    let c := s.readShare i n
    if !ls.contains site.lane.val then s0
    else if !c.1 then c.2
    else
      let s := c.2
      let x := s.tile i.t
      let (m, e, g) := localAtomics i op fmt ls x.share (i.grp.advance i.pc ls)
      let s1 := (s.updTile i.t fun y => { y with share := m }).putGroup i (g.orCstat e)
      s1.cntTile i.t 0x140 (atomBusy op (ls.map i.localAddr).eraseDups.length ls.length)

/-- The lanes of an issue grouped by a key, in the order of their first lanes. -/
def groupLanes (f : Nat → Nat) (ls : List Nat) : List (Nat × List Nat) :=
  (ls.map f).eraseDups.map fun k => (k, ls.filter (fun l => f l == k))

/-- One request of a device atomic: the lanes of one address (R143). -/
def State.atomSend (s : State) (i : Issue) (site : Site) (op : AtomicOp) (fmt a : Nat) (ls : List Nat) : State :=
  match s.plan.place i.job.image a with
  | none => s
  | some pl =>
    let tag := s.sole.nextTag
    let ops := ls.map fun l => (⟨Fin.ofNat 32 l, Fin.ofNat 256 (pl.o % 256), BitVec.ofNat 128 (i.atomOperand op l)⟩ : RedOperand)
    let r : RedRequest := ⟨op, BitVec.ofNat 4 fmt, ops, laneSender site (ls.headD 0), tag⟩
    let words := if op = .awadd then 4 else 1
    let d : DeviceAtomic := ⟨tag, i.t, i.key, i.grp.id, insRD i.word, words, ls, insMOD i.word / 2 % 2 == 1⟩
    let s1 := ({ s with sole.nextTag := tag + 1, sole.atomics := s.sole.atomics ++ [d] }).inject i.t i.grp.cls.toNat pl.line (.red r)
    s1.updGroup i.t i.key fun g =>
      (ls.foldl (fun g l => { g with acks := smSet 0 g.acks l (smGet 0 g.acks l + 1) }) g).claim ls ((upTo words).map (insRD i.word + ·))

/-- One operand as it stands in RED data (R377). -/
def redOperandBytes (op : AtomicOp) (fmt v : Nat) : List Byte :=
  if op = .acas then natToBytes 8 v else natToBytes (redSize op fmt) v

/-- The data of a RED message: the sub-requests of one line (R377). -/
def redData (i : Issue) (op : AtomicOp) (fmt : Nat) (addr : Nat → Nat) (ls : List Nat) : List Byte :=
  ((groupLanes addr ls).map fun e =>
    natToBytes 1 (e.1 % 256) ++ natToBytes 1 e.2.length ++ natToBytes 2 0 ++
      (e.2.map (fun l => redOperandBytes op fmt (i.atomOperand op l))).flatten).flatten

/-- One RED message of a peer atomic: the lanes of one line (R376). -/
def State.peerAtomic (s : State) (i : Issue) (op : AtomicOp) (fmt d : Nat) (addr : Nat → Nat) (ls : List Nat) : State :=
  let a := addr (ls.headD 0) / 256 * 256
  let order := ((groupLanes addr ls).map Prod.snd).flatten
  let n := redSize op fmt
  let acq := insMOD i.word / 2 % 2 == 1
  (s.peerSend i d 2 a (atomCode op + 16 * fmt) 0 (redData i op fmt addr ls) true
    (s.peerAccess i d a (insRD i.word) n false order true acq) ls).updGroup i.t i.key
      fun g => g.claim ls ((upTo (if op = .awadd then 4 else 1)).map (insRD i.word + ·))

/-- A device atomic issue: a request for each address of this device, a message for each line of a peer (R143, R376). -/
def State.atomDevice (s0 s : State) (i : Issue) (site : Site) (op : AtomicOp) : State :=
  let md := insMOD i.word
  let fmt := atomFmt op md
  let tg := s0.laneTarget i (redSize op fmt) true false true
  match firstWrong (fun l => wrongOf (tg l)) i.lanes with
  | some e => s.accessFault i e
  | none =>
    let get := fun l => match tg l with | .ok g => g | .error _ => ⟨none, 0⟩
    let ok := fun l => s0.laneFree i true l (get l) && (md / 4 % 2 == 0 || s0.fenceDone i.t i.key i.grp 4 l)
    let ls := i.lanes.filter ok
    if !ls.contains site.lane.val then s0
    else
      let s1 := s.updGroup i.t i.key fun g => g.advance i.pc ls
      let mine := ls.filter fun l => (get l).peer.isNone
      let s2 := (groupLanes (fun l => (get l).addr) mine).foldl (fun t e => t.atomSend i site op fmt e.1 e.2) s1
      let far := ls.filter fun l => (get l).peer.isSome
      (groupLanes (fun l => peerLine (((get l).peer).getD 0) (get l).addr) far).foldl
        (fun t e => t.peerAtomic i op fmt (e.1 / 2 ^ 32) (fun l => (get l).addr) e.2) s2

/-- An atomic operation (R142). -/
def State.atomic (s : State) (op : AtomicOp) (site : Site) (low : BitVec 52) : State :=
  let w := insWord 6 (atomCode op) low
  s.issueIns site w (atomShape op w) fun i s1 =>
    if insMOD w % 2 = 0 then s.atomLocal s1 i site op else s.atomDevice s1 i site op

/-- AADD (R142): wraps. -/
def execAadd (site : Site) (low : BitVec 52) (s : State) : Out := .next (s.atomic .aadd site low)
/-- AMIN (R142): signed minimum. -/
def execAmin (site : Site) (low : BitVec 52) (s : State) : Out := .next (s.atomic .amin site low)
/-- AMAX (R142): signed maximum. -/
def execAmax (site : Site) (low : BitVec 52) (s : State) : Out := .next (s.atomic .amax site low)
/-- AMINU (R142): unsigned minimum. -/
def execAminu (site : Site) (low : BitVec 52) (s : State) : Out := .next (s.atomic .aminu site low)
/-- AMAXU (R142): unsigned maximum. -/
def execAmaxu (site : Site) (low : BitVec 52) (s : State) : Out := .next (s.atomic .amaxu site low)
/-- AAND (R142). -/
def execAand (site : Site) (low : BitVec 52) (s : State) : Out := .next (s.atomic .aand site low)
/-- AOR (R142). -/
def execAor (site : Site) (low : BitVec 52) (s : State) : Out := .next (s.atomic .aor site low)
/-- AXOR (R142). -/
def execAxor (site : Site) (low : BitVec 52) (s : State) : Out := .next (s.atomic .axor site low)
/-- AFADD (R142): floating-point add, nearest even. -/
def execAfadd (site : Site) (low : BitVec 52) (s : State) : Out := .next (s.atomic .afadd site low)
/-- AWADD (R142): WP96 add. -/
def execAwadd (site : Site) (low : BitVec 52) (s : State) : Out := .next (s.atomic .awadd site low)
/-- ACAS (R142): compare with RB and store RC if equal. -/
def execAcas (site : Site) (low : BitVec 52) (s : State) : Out := .next (s.atomic .acas site low)
/-- AEXCH (R142): store RB. -/
def execAexch (site : Site) (low : BitVec 52) (s : State) : Out := .next (s.atomic .aexch site low)

/-- DEVICE_ATOMIC_REPLY (R143): the old values that a home slice sent under a tag reach the lanes' registers. -/
def execDeviceAtomicReply (tag : Nat) (s : State) : Out :=
  match s.sole.replies.find? (fun r => r.tag == tag) with
  | none => .next s
  | some r =>
    let s0 := ({ s with sole.replies := s.sole.replies.filter (fun r => r.tag != tag) }).replied r.hdr
    match s.sole.atomics.find? (fun a => a.tag == tag) with
    | none => .next s0
    | some d =>
      let s1 := { s0 with sole.atomics := s0.sole.atomics.filter (fun a => a.tag != tag) }
      .next (s1.updGroup d.tile d.slot fun g =>
        if g.id ≠ d.group then g
        else (r.olds.foldl (fun g o =>
          let g1 := (g.landOld (d.words == 4) o.1 d.rd o.2.toNat).release o.1 ((upTo d.words).map (d.rd + ·))
          { g1 with acks := smSet 0 g1.acks o.1 (smGet 0 g1.acks o.1 - 1) }) g).orCstat r.exc)

end Sys2Proof.Machine
end

