-- ==== Sys2Proof/Machine/Sequence.lean ====
section
/-! DEFINITION. The sequence table and the gather engines (R272 to R296). -/

namespace Sys2Proof.Machine

/-! ## Geometry (R272 to R280) -/

/-- Entries of a list page, X. -/
def Image.listEntries (im : Image) : Nat := im.pageBytes / 4
/-- Device address of a pool page of a stack (R275). -/
def Image.poolPage (im : Image) (k j : Nat) : Nat := im.poolBase.getD k 0 + j * im.pageBytes
def Image.poolSize (im : Image) (k : Nat) : Nat := im.poolPages.getD k 0
/-- Entry bytes E and tokens per page P (R277, R278). -/
def SeqDesc.entryBytes (d : SeqDesc) : Nat := 16 * d.entry
def SeqDesc.perPage (d : SeqDesc) (im : Image) : Nat := im.pageBytes / d.entryBytes
/-- The logical page of a token of a layer (R278). -/
def SeqDesc.logical (d : SeqDesc) (im : Image) (layer t : Nat) : Nat := layer * d.stride + t / d.perPage im

/-- The 64 bytes of a descriptor (R277). -/
def SeqDesc.bytes (d : SeqDesc) : List Byte :=
  natToBytes 4 d.tag.toNat ++ natToBytes 4 d.job.toNat ++ natToBytes 1 (if d.live then 1 else 0) ++ natToBytes 1 d.page ++
  natToBytes 1 d.fmt ++ natToBytes 1 0 ++ natToBytes 2 d.layers ++ natToBytes 2 d.entry ++ natToBytes 4 d.length ++
  natToBytes 4 d.stride ++ natToBytes 4 d.root.toNat ++ natToBytes 4 d.pages ++ natToBytes 4 d.listPages ++ natToBytes 4 0 ++
  natToBytes 8 d.opened.toNat ++ natToBytes 16 0

/-- A list entry that names a page (R279). -/
def listEntry (j : Nat) : Nat := 2 ^ 31 + j
def entryValid (e : Nat) : Bool := 2 ^ 31 ≤ e
def entryPage (e : Nat) : Nat := e % 2 ^ 26
/-- A malformed list entry (R292). -/
def entryBad (im : Image) (k e : Nat) : Bool := entryValid e && (e / 2 ^ 26 % 32 != 0 || decide (im.poolSize k ≤ entryPage e))
/-- A malformed free-list link (R292). -/
def linkBad (im : Image) (k high e : Nat) : Bool := entryBad im k e || (entryValid e && decide (high ≤ entryPage e))

/-! ## Steps of an operation -/

/-- How a step of an operation ends: done, stopped by a malformed entry or link with what was written before, or waiting on
a line. -/
inductive SeqStep (α : Type) where
  | done (a : α) (s : State)
  | bad (s : State)
  | wait (w : Option Nat)

/-- One step after another. -/
def seqThen {α β : Type} (x : SeqStep α) (f : α → State → SeqStep β) : SeqStep β :=
  match x with
  | .done a s => f a s
  | .bad s => .bad s
  | .wait w => .wait w

/-- Reads pool memory, as NCRD (R285). -/
def State.seqRead (s : State) (im : Image) (b : By) (a n : Nat) : SeqStep (List Byte) :=
  match s.readMem im b a n with
  | .ok (bs, s1) => if bs.length = n then .done bs s1 else .bad s1
  | .error w => .wait w
/-- Writes pool memory, as NCWR (R284). -/
def State.seqWrite (s : State) (im : Image) (b : By) (a : Nat) (bs : List Byte) : SeqStep Unit :=
  match s.writeMem im b a bs with
  | .ok s1 => .done () s1
  | .error w => .wait w

/-- Who makes the accesses of an operation: its data and list writes are charged to the engine in the operation's class (R284,
R285), and its list reads carry the request's header (R299). -/
structure SeqBy where
  data : By
  lists : By
def seqBy (k : Nat) (h : Hdr) : SeqBy := ⟨byEngine k h.cls.toNat, { byEngine k h.cls.toNat with paid := some h }⟩

/-- Reads entry `n` of a list page and checks it. -/
def State.readEntry (s : State) (im : Image) (q : SeqBy) (k page n : Nat) : SeqStep Nat :=
  seqThen (s.seqRead im q.lists (im.poolPage k page + 4 * n) 4) fun bs s1 =>
    let e := bytesToNat bs
    if entryBad im k e then .bad s1 else .done e s1

/-- The leaf list page of a root entry, if present. -/
def State.leafOf (s : State) (im : Image) (q : SeqBy) (k : Nat) (d : SeqDesc) (r : Nat) : SeqStep (Option Nat) :=
  if entryBad im k d.root.toNat then .bad s
  else if !entryValid d.root.toNat then .done none s
  else seqThen (s.readEntry im q k (entryPage d.root.toNat) r) fun e s1 => .done (if entryValid e then some (entryPage e) else none) s1

/-- Remembers a translation, the newest 4,096 (R295). -/
def SeqEngine.cache (x : SeqEngine) (key : Nat) : SeqEngine := { x with cached := (key :: x.cached.filter (· != key)).take 4096 }

/-- The KV page of a logical page, if present; a translation not cached counts as a miss (R295, R296). -/
def State.translate (s : State) (im : Image) (q : SeqBy) (k dn : Nat) (d : SeqDesc) (n : Nat) : SeqStep (Option Nat) :=
  let key := 2 ^ 32 * dn + n
  let s0 := if (s.engine k).cached.contains key then s else s.cntSeq k 0x130 1
  seqThen (s0.leafOf im q k d (n / im.listEntries)) fun leaf s1 =>
    match leaf with
    | none => .done none s1
    | some lf =>
      seqThen (s1.readEntry im q k lf (n % im.listEntries)) fun e s2 =>
        if entryValid e then .done (some (entryPage e)) (s2.setEngine k ((s2.engine k).cache key)) else .done none s2

/-- The KV pages of several logical pages. -/
def State.translateAll (im : Image) (q : SeqBy) (k dn : Nat) (d : SeqDesc) : List Nat → State → SeqStep (List (Nat × Option Nat))
  | [], s => .done [] s
  | n :: ns, s =>
    seqThen (s.translate im q k dn d n) fun p s1 =>
      seqThen (State.translateAll im q k dn d ns s1) fun ps s2 => .done ((n, p) :: ps) s2

/-- Takes a page (R280): the head of the free list, zeroed, or the page at HIGH. -/
def State.allocPage (s : State) (im : Image) (q : SeqBy) (k : Nat) : SeqStep Nat :=
  let x := s.engine k
  let h := x.head.toNat
  if entryValid h then
    if linkBad im k x.high h then .bad s
    else
      let j := entryPage h
      seqThen (s.seqRead im q.lists (im.poolPage k j) 4) fun bs s1 =>
        let link := bytesToNat bs
        if linkBad im k x.high link then .bad s1
        else
          seqThen (s1.seqWrite im q.data (im.poolPage k j) (List.replicate im.pageBytes 0)) fun _ s2 =>
            .done j ((s2.setEngine k { (s2.engine k) with head := BitVec.ofNat 32 link, freeCount := x.freeCount - 1 }).cntSeq k 0x148 1)
  else .done x.high (s.setEngine k { x with high := x.high + 1 })

def State.allocPages (im : Image) (q : SeqBy) (k : Nat) : Nat → State → SeqStep (List Nat)
  | 0, s => .done [] s
  | n + 1, s =>
    seqThen (s.allocPage im q k) fun j s1 => seqThen (State.allocPages im q k n s1) fun js s2 => .done (j :: js) s2

/-- Writes list entries: page, index and entry. -/
def State.writeEntries (im : Image) (q : SeqBy) (k : Nat) : List (Nat × Nat × Nat) → State → SeqStep Unit
  | [], s => .done () s
  | (pg, n, e) :: es, s =>
    seqThen (s.seqWrite im q.data (im.poolPage k pg + 4 * n) (natToBytes 4 (listEntry e))) fun _ s1 => State.writeEntries im q k es s1

/-! ## The operation block (R282) -/

/-- The fields of a block, as APPEND, GATHER, FREE and QUERY read it. -/
structure SeqBlock where
  seq : Nat
  layer : Nat
  count : Nat
  token : Nat
  segOff : Nat
  segLen : Nat
  lsAddr : Nat
  lsStride : Nat
  mode : Nat
  rest : Nat
deriving DecidableEq, Repr

def blockField (b off n : Nat) : Nat := b / 2 ^ (8 * off) % 2 ^ (8 * n)
def SeqBlock.decode (b : Nat) : SeqBlock :=
  ⟨blockField b 0 4, blockField b 4 2, blockField b 6 2, blockField b 8 4, blockField b 0xC 4, blockField b 0x10 4,
    blockField b 0x14 4, blockField b 0x18 4, blockField b 0x1C 1, blockField b 0x1D 3⟩

/-- The descriptor number is in its field (R282). -/
def SeqBlock.seqOk (b : SeqBlock) : Bool := decide (b.seq < 2 ^ 20) && b.rest == 0
def SeqBlock.noTokens (b : SeqBlock) : Bool :=
  b.layer == 0 && b.count == 0 && b.token == 0 && b.segOff == 0 && b.segLen == 0 && b.lsStride == 0 && b.mode == 0
def SeqBlock.tokensOk (b : SeqBlock) : Bool :=
  decide (b.count ≤ 4096) && b.segOff % 16 == 0 && b.segLen % 16 == 0 && b.lsStride % 16 == 0
def SeqBlock.lsOk (b : SeqBlock) : Bool := decide (b.lsAddr < 2 ^ 22) && b.lsAddr % 16 == 0
/-- Rows of SEG_LEN bytes at LS_STRIDE lie in the share. -/
def SeqBlock.rowsFit (b : SeqBlock) (share : Nat) : Bool :=
  b.count = 0 || b.segLen = 0 || decide (b.lsAddr + (b.count - 1) * b.lsStride + b.segLen ≤ share)

/-- The OPEN parameters (R282, R283). -/
structure SeqOpen where
  seq : Nat
  tag : Nat
  layers : Nat
  entry : Nat
  stride : Nat
  fmt : Nat
  rest : Nat
deriving DecidableEq, Repr

def SeqOpen.decode (b : Nat) : SeqOpen :=
  ⟨blockField b 0 4, blockField b 4 4, blockField b 8 2, blockField b 0xA 2, blockField b 0xC 4, blockField b 0x10 1, blockField b 0x11 15⟩

/-- The conditions of R283. -/
def SeqOpen.ok (o : SeqOpen) (im : Image) : Bool :=
  let e := 16 * o.entry
  let x := im.listEntries
  decide (o.seq < 2 ^ 20) && o.rest == 0 && decide (1 ≤ o.layers) && decide (o.layers ≤ 1024) && decide (16 ≤ e) && decide (e ≤ im.pageBytes) &&
  decide (1 ≤ o.stride) && decide (o.layers * o.stride ≤ x * x) && decide (o.stride * (im.pageBytes / e) ≤ 2 ^ 31) && decide (o.fmt ≤ 14)

/-! ## Checks in the order of R293 -/

/-- The descriptor exists for the job (R274). -/
def Image.seqBound (im : Image) (d : Nat) : Bool :=
  im.stackBits.getLsbD (d / 131072) && decide (d % 131072 < im.descriptors.getD (d / 131072) 0)

/-- Element bytes under COLUMNS (R285); none: the format has no COLUMNS form. -/
def columnWidth (fmt : Nat) : Option Nat :=
  if fmt = 12 || fmt = 13 || fmt = 14 then none
  else match fmtBits fmt with | 8 => some 1 | 16 => some 2 | 32 => some 4 | _ => none

def roundUp16 (n : Nat) : Nat := (n + 15) / 16 * 16

/-- The rows of COLUMNS, of elements of `w` bytes, lie in the share. -/
def SeqBlock.columnsFit (b : SeqBlock) (share w : Nat) : Bool :=
  b.count = 0 || b.segLen = 0 || decide (b.lsAddr + (b.segLen / w - 1) * b.lsStride + roundUp16 (b.count * w) ≤ share)

/-- Group 1 of R293: the block alone. A COLUMNS region is outside the share where it is so for every element width. -/
def seqBlockOk (op : Nat) (im : Image) (b : Nat) : Bool :=
  let k := SeqBlock.decode b
  match op with
  | 0 => (SeqOpen.decode b).ok im
  | 1 => k.seqOk && k.lsOk && k.tokensOk && k.mode == 0 && k.rowsFit im.share
  | 2 => k.seqOk && k.lsOk && k.tokensOk && decide (k.mode < 2) &&
    (if k.mode = 1 then [1, 2, 4].any (k.columnsFit im.share) else decide (k.segLen ≤ k.lsStride) && k.rowsFit im.share)
  | 3 => k.seqOk && k.noTokens && k.lsAddr == 0
  | _ => k.seqOk && k.noTokens && k.lsOk && decide (k.lsAddr + 64 ≤ im.share)

/-- Group 2: binding and state. -/
def State.seqStateOk (s : State) (op : Nat) (j : Nat) (im : Image) (dn : Nat) : Bool :=
  let d := s.seqDesc dn
  im.seqBound dn && (!d.live || d.job.toNat == j) && (match op with | 0 => !d.live | 4 => true | _ => d.live)

/-- Group 3: limits that depend on the descriptor. -/
def seqLimitsOk (op : Nat) (im : Image) (d : SeqDesc) (k : SeqBlock) : Bool :=
  if op = 1 || op = 2 then
    decide (k.layer < d.layers) && decide (k.token + k.count ≤ d.stride * d.perPage im) && decide (k.segOff + k.segLen ≤ d.entryBytes) &&
    (op = 1 || k.mode = 0 || match columnWidth d.fmt with
      | none => false
      | some w => decide (roundUp16 (k.count * w) ≤ k.lsStride) && k.columnsFit im.share w)
  else true

/-- The detail code of the first failing group; none: the operation runs. -/
def State.seqWrong (s : State) (op j : Nat) (im : Image) (b : Nat) : Option Nat :=
  if !seqBlockOk op im b then some 0x2D
  else if !s.seqStateOk op j im (blockField b 0 4) then some 0x2E
  else if !seqLimitsOk op im (s.seqDesc (blockField b 0 4)) (SeqBlock.decode b) then some 0x2D
  else none

/-! ## The operations (R283 to R287) -/

/-- OPEN (R283). -/
def State.seqOpen (s : State) (j : Nat) (im : Image) (b : Nat) : SeqStep Nat :=
  let o := SeqOpen.decode b
  let d : SeqDesc := ⟨BitVec.ofNat 32 o.tag, BitVec.ofNat 32 j, true, im.kvPage, o.fmt, o.layers, o.entry, 0, o.stride, 0, 0, 0, s.aon⟩
  .done 0 ((s.setSeqDesc o.seq d).cntSeq (o.seq / 131072) 0x100 1)

/-- The logical pages of a token range of a layer, ascending. -/
def SeqDesc.pagesOf (d : SeqDesc) (im : Image) (k : SeqBlock) : List Nat :=
  if k.count = 0 then []
  else
    let a := d.logical im k.layer k.token
    (upTo (d.logical im k.layer (k.token + k.count - 1) - a + 1)).map (a + ·)

/-- Writes the segments of a token range, from `j`, into their pages (R284). -/
def State.appendTokens (im : Image) (q : SeqBy) (k : Nat) (d : SeqDesc) (b : SeqBlock) (share : Memory) (pages : List (Nat × Nat)) :
    Nat → Nat → State → SeqStep Unit
  | 0, _, s => .done () s
  | n + 1, j, s =>
    let t := b.token + j
    let pg := (pages.lookup (d.logical im b.layer t)).getD 0
    let a := im.poolPage k pg + t % d.perPage im * d.entryBytes + b.segOff
    seqThen (s.seqWrite im q.data a (share.readBytes (b.lsAddr + j * b.lsStride) b.segLen)) fun _ s1 =>
      State.appendTokens im q k d b share pages n (j + 1) s1

/-- The leaf pages over some root entries: present or absent. -/
def State.leavesOf (im : Image) (q : SeqBy) (k : Nat) (d : SeqDesc) : List Nat → State → SeqStep (List (Nat × Option Nat))
  | [], s => .done [] s
  | r :: rs, s =>
    seqThen (s.leafOf im q k d r) fun p s1 => seqThen (State.leavesOf im q k d rs s1) fun ps s2 => .done ((r, p) :: ps) s2

/-- APPEND (R284): the result word. -/
def State.seqAppend (s : State) (im : Image) (q : SeqBy) (share : Memory) (b : SeqBlock) : SeqStep Nat :=
  let k := b.seq / 131072
  let d := s.seqDesc b.seq
  if b.count = 0 || b.segLen = 0 then .done 0 (s.cntSeq k 0x108 1)
  else
    let ns := d.pagesOf im b
    let rs := (ns.map (· / im.listEntries)).eraseDups
    seqThen (State.translateAll im q k b.seq d ns s) fun found s1 =>
    seqThen (State.leavesOf im q k d rs s1) fun leaves s2 =>
      let newRoot := !entryValid d.root.toNat
      let newLeaves := (leaves.filter (fun e => e.2.isNone)).map Prod.fst
      let newPages := (found.filter (fun e => e.2.isNone)).map Prod.fst
      let need := (if newRoot then 1 else 0) + newLeaves.length + newPages.length
      let x := s2.engine k
      if x.freeCount + im.poolSize k - x.high < need then .done 1 ((s2.cntSeq k 0x108 1).cntSeq k 0x128 1)
      else
        seqThen (State.allocPages im q k need s2) fun js s3 =>
          let root := if newRoot then js.headD 0 else entryPage d.root.toNat
          let js1 := if newRoot then js.drop 1 else js
          let leafTab := leaves.filterMap (fun e => e.2.map fun p => (e.1, p)) ++ newLeaves.zip js1
          let kvNew := newPages.zip (js1.drop newLeaves.length)
          let pages := found.filterMap (fun e => e.2.map fun p => (e.1, p)) ++ kvNew
          seqThen (State.appendTokens im q k d b share pages b.count 0 s3) fun _ s4 =>
          seqThen (State.writeEntries im q k (kvNew.map fun e => ((leafTab.lookup (e.1 / im.listEntries)).getD 0, e.1 % im.listEntries, e.2)) s4) fun _ s5 =>
          seqThen (State.writeEntries im q k ((newLeaves.zip js1).map fun e => (root, e.1, e.2)) s5) fun _ s6 =>
            let d' := { d with
              root := BitVec.ofNat 32 (listEntry root), length := max d.length (b.token + b.count), pages := d.pages + newPages.length
              listPages := d.listPages + newLeaves.length + (if newRoot then 1 else 0) }
            .done (256 * need) (((s6.setSeqDesc b.seq d').cntSeq k 0x108 1).cntSeq k 0x140 (b.count * b.segLen))

/-- Reads the segments of a token range, from `j`; an absent page gives zeros (R285). -/
def State.gatherTokens (im : Image) (q : SeqBy) (k : Nat) (d : SeqDesc) (b : SeqBlock) (pages : List (Nat × Option Nat)) :
    Nat → Nat → State → SeqStep (List (List Byte))
  | 0, _, s => .done [] s
  | n + 1, j, s =>
    let t := b.token + j
    match (pages.lookup (d.logical im b.layer t)).getD none with
    | none => seqThen (State.gatherTokens im q k d b pages n (j + 1) s) fun r s1 => .done (List.replicate b.segLen 0 :: r) s1
    | some pg =>
      seqThen (s.seqRead im q.data (im.poolPage k pg + t % d.perPage im * d.entryBytes + b.segOff) b.segLen) fun bs s1 =>
        seqThen (State.gatherTokens im q k d b pages n (j + 1) s1) fun r s2 => .done (bs :: r) s2

/-- Writes rows at a stride. -/
def Memory.writeRows (m : Memory) (a stride : Nat) : List (List Byte) → Memory
  | [] => m
  | r :: rs => (m.writeBytes a r).writeRows (a + stride) stride rs

/-- The rows of COLUMNS: element d of every token, padded with zeros (R285). -/
def columnRows (w segLen count : Nat) (tokens : List (List Byte)) : List (List Byte) :=
  (upTo (segLen / w)).map fun e =>
    (tokens.map (fun t => (t.drop (e * w)).take w)).flatten ++ List.replicate (roundUp16 (count * w) - count * w) 0

/-- GATHER (R285): the result word, and the share as written. -/
def State.seqGather (s : State) (im : Image) (q : SeqBy) (share : Memory) (b : SeqBlock) : SeqStep (Nat × Memory) :=
  let k := b.seq / 131072
  let d := s.seqDesc b.seq
  if b.count = 0 || b.segLen = 0 then .done (0, share) (s.cntSeq k 0x110 1)
  else
    seqThen (State.translateAll im q k b.seq d (d.pagesOf im b) s) fun pages s1 =>
    seqThen (State.gatherTokens im q k d b pages b.count 0 s1) fun tokens s2 =>
      let here := (upTo b.count).filter fun j => ((pages.lookup (d.logical im b.layer (b.token + j))).getD none).isSome
      let m := if b.mode = 0 then share.writeRows b.lsAddr b.lsStride tokens
        else share.writeRows b.lsAddr b.lsStride (columnRows ((columnWidth d.fmt).getD 1) b.segLen b.count tokens)
      .done (256 * here.length, m) ((s2.cntSeq k 0x110 1).cntSeq k 0x138 (b.count * b.segLen))

/-- The pages that a list page's entries name, ascending by entry. -/
def State.pagesIn (s : State) (im : Image) (q : SeqBy) (k page : Nat) : SeqStep (List Nat) :=
  seqThen (s.seqRead im q.lists (im.poolPage k page) im.pageBytes) fun bs s1 =>
    let es := (chunks 4 im.listEntries bs).map bytesToNat
    if es.any (entryBad im k) then .bad s1 else .done ((es.filter entryValid).map entryPage) s1

def State.pagesInAll (im : Image) (q : SeqBy) (k : Nat) : List Nat → State → SeqStep (List Nat)
  | [], s => .done [] s
  | p :: ps, s => seqThen (s.pagesIn im q k p) fun a s1 => seqThen (State.pagesInAll im q k ps s1) fun b s2 => .done (a ++ b) s2

/-- Pushes pages onto the free list (R280, R286). -/
def State.pushFree (im : Image) (q : SeqBy) (k : Nat) : List Nat → State → SeqStep Unit
  | [], s => .done () s
  | p :: ps, s =>
    let x := s.engine k
    seqThen (s.seqWrite im q.data (im.poolPage k p) (natToBytes 4 x.head.toNat)) fun _ s1 =>
      State.pushFree im q k ps (s1.setEngine k { (s1.engine k) with head := BitVec.ofNat 32 (listEntry p), freeCount := x.freeCount + 1 })

/-- FREE (R286): KV pages, then leaf list pages, then the root go back; the descriptor is FREE with every field 0. -/
def State.seqFree (s : State) (im : Image) (q : SeqBy) (dn : Nat) : SeqStep Nat :=
  let k := dn / 131072
  let d := s.seqDesc dn
  let root := d.root.toNat
  if entryBad im k root then .bad s
  else
    seqThen (if entryValid root then s.pagesIn im q k (entryPage root) else .done [] s) fun leaves s1 =>
    seqThen (State.pagesInAll im q k leaves s1) fun kv s2 =>
      let all := kv ++ leaves ++ (if entryValid root then [entryPage root] else [])
      seqThen (State.pushFree im q k all s2) fun _ s3 =>
        let s4 := s3.setEngine k { (s3.engine k) with cached := (s3.engine k).cached.filter (fun c => c / 2 ^ 32 != dn) }
        .done (256 * all.length) ((s4.setSeqDesc dn SeqDesc.free).cntSeq k 0x118 1)

/-! ## The SEQ instruction (R281, R288 to R290) -/

/-- SEQ operations of a tile that are outstanding, and those that a stack's engine has accepted and not completed (R289). -/
def State.seqOutstanding (s : State) (t : Nat) : Nat :=
  (s.seq.ops.filter (fun o => o.tile == t)).length + (s.seq.results.filter (fun r => r.tile == t)).length
def State.seqQueued (s : State) (k : Nat) : Nat :=
  (s.seq.ops.filter (fun o => o.stack == k && o.block.isSome)).length + (s.seq.results.filter (fun r => r.stack == k)).length

/-- Runs an operation of a tile on its block: the result word; local-store writes are in the state. -/
def State.seqRun (s : State) (o : SeqOp) (im : Image) (b : Nat) : SeqStep Nat :=
  let k := SeqBlock.decode b
  let q := seqBy o.stack o.hdr
  let share := (s.tile o.tile).share
  let put := fun (m : Memory) (s : State) => s.updTile o.tile fun x => { x with share := m }
  match o.op with
  | 0 => s.seqOpen o.job im b
  | 1 =>
    let c := s.readWords o.tile im.nR im.share fun n => (upTo k.count).any fun j => inShare (k.lsAddr + j * k.lsStride) k.segLen n
    if c.1 then c.2.seqAppend im q (c.2.tile o.tile).share k else .bad c.2
  | 2 => seqThen (s.seqGather im q share k) fun r s1 => .done r.1 (put r.2 s1)
  | 3 => s.seqFree im q k.seq
  | _ => .done 0 (put (share.writeBytes k.lsAddr (s.seqDesc k.seq).bytes) (s.cntSeq (k.seq / 131072) 0x120 1))

/-- An operation is executed, once the earlier ones that its engine has accepted on the same descriptor are complete; its RD is
written at SEQ_RESULT. -/
def State.seqExecute (s : State) (o : SeqOp) (im : Image) (b : Nat) : State :=
  let earlier := fun x => decide (x.tag < o.tag) && x.stack == o.stack &&
    x.block.any fun c => blockField c.toNat 0 4 == blockField b 0 4
  let rest := s.seq.ops.filter fun x => x.tag != o.tag
  let site : FaultSite := ⟨BitVec.ofNat 32 o.tile, o.group, o.lanes, o.pc⟩
  if s.seq.ops.any earlier then s
  else
    match s.seqRun o im b with
    | .wait w => s.waits w
    | .bad s1 => if s1.present o.job then { s1 with seq.ops := rest }.tileFault o.tile o.job site 0x2F o.word.toNat o.base else s1
    | .done v s1 =>
      let r : SeqResult := ⟨o.tag, o.tile, o.slot, o.group, o.rd, o.lanes, BitVec.ofNat 32 v, o.stack, o.hdr⟩
      { s1 with seq.ops := rest, seq.results := s1.seq.results ++ [r] }

/-- The engine accepts an operation: it reads the block once, checks it in the order of R293, and executes it. -/
def State.seqAccept (s : State) (o : SeqOp) : State :=
  match s.job o.job with
  | none => s
  | some v =>
    let im := v.image
    let c := s.readWords o.tile im.nR im.share (inShare o.base 32)
    let b := (c.2.tile o.tile).share.readNat o.base 32
    let site : FaultSite := ⟨BitVec.ofNat 32 o.tile, o.group, o.lanes, o.pc⟩
    if !c.1 then c.2
    else
      match c.2.seqWrong o.op o.job im b with
      | some e => { c.2 with seq.ops := c.2.seq.ops.filter fun x => x.tag != o.tag }.tileFault o.tile o.job site e o.word.toNat o.base
      | none =>
        let o1 := { o with block := some (BitVec.ofNat 256 b) }
        { c.2 with seq.ops := c.2.seq.ops.map fun (x : SeqOp) => if x.tag = o.tag then o1 else x }.seqExecute o1 im b

/-- The operation that goes first to an engine among those that wait in the network: by tier, then the oldest (R289, R304). -/
def firstOp : List SeqOp → Option SeqOp
  | [] => none
  | o :: os =>
    match firstOp os with
    | none => some o
    | some p => if p.hdr.tier < o.hdr.tier then some p else some o

/-- An engine with a free entry takes the next operation. -/
def State.seqServe (s : State) (k : Nat) : State :=
  if 1024 ≤ s.seqQueued k then s
  else match firstOp (s.seq.ops.filter fun o => o.stack == k && o.block.isNone) with
    | none => s
    | some o => s.seqAccept o

/-- Issues a SEQ instruction once for the set (R281): it waits while the tile's count is full and until the group's earlier
accesses are complete (R289, R290). It travels to its engine in the group's class (R302); RD is written at SEQ_RESULT. -/
def State.issueSeq (s : State) (op : Nat) (site : Site) (low : BitVec 52) : State :=
  let w := insWord 0x0A op low
  match s.issueAt site.tile.val site.tgp.val site.slot.val site.lane.val w [insRD w, insRA w] with
  | none => s
  | some i =>
    let s1 := s.cntTile i.t 0x100 1
    let im := i.job.image
    let c := s1.readWords i.t im.nR im.share (i.inRegs [insRA w])
    let a := (((c.2.groupAt i.t i.p i.slot).getD i.grp).reg i.low (insRA w)).toNat
    if !i.job.pcOk i.pc || decide (im.nR ≤ insRD w) || decide (im.nR ≤ insRA w) then s1.insFault i 0x25 0
    else if 32 ≤ s.seqOutstanding i.t || !(maskLanes i.grp.live).all (s.fenceDone i.t i.key i.grp 4) then s
    else if !c.1 then c.2
    else if w % 2 ^ 38 ≠ 0 || a % 16 ≠ 0 || im.share < a + 32 then c.2.insFault i 0x2D a
    else
      let k := blockField ((c.2.tile i.t).share.readNat a 32) 0 4 / 131072 % 8
      let (h, s2) := c.2.grant i.t i.grp.cls.toNat 64
      let o : SeqOp := ⟨s2.seq.nextTag, i.t, i.key, i.grp.id, i.jobId, op, insRD w, laneMask i.lanes, BitVec.ofNat 32 i.pc,
        BitVec.ofNat 64 w, a, k, h, none⟩
      let s3 := { s2 with seq.ops := s2.seq.ops ++ [o], seq.nextTag := s2.seq.nextTag + 1 }
      (s3.updGroup i.t i.key fun g => (g.advance i.pc i.lanes).claim i.lanes [insRD w]).seqServe k

/-- OPEN (R283). -/
def execSeqOpen (site : Site) (low : BitVec 52) (s : State) : Out := .next (s.issueSeq 0 site low)
/-- APPEND (R284). -/
def execSeqAppend (site : Site) (low : BitVec 52) (s : State) : Out := .next (s.issueSeq 1 site low)
/-- GATHER (R285). -/
def execSeqGather (site : Site) (low : BitVec 52) (s : State) : Out := .next (s.issueSeq 2 site low)
/-- FREE (R286). -/
def execSeqFree (site : Site) (low : BitVec 52) (s : State) : Out := .next (s.issueSeq 3 site low)
/-- QUERY (R287). -/
def execSeqQuery (site : Site) (low : BitVec 52) (s : State) : Out := .next (s.issueSeq 4 site low)

/-- SEQ_RESULT (R288): the result word reaches RD of every thread of the issuing set, and the engine takes its next operation;
an operation that its engine has accepted and not executed is tried again. -/
def execSeqResult (tag : Nat) (s : State) : Out :=
  match s.seq.results.find? (fun r => r.tag == tag) with
  | some r =>
    let s1 := (({ s with seq.results := s.seq.results.filter (fun x => x.tag != tag) }).replied r.hdr).cntTile r.tile 0x148 1
    let ls := maskLanes r.lanes
    .next ((s1.updGroup r.tile r.slot fun g =>
      if g.id ≠ r.group then g else ls.foldl (fun g l => g.release l [r.rd]) (g.setLanes r.rd (fun _ => r.word) ls)).seqServe r.stack)
  | none =>
    match s.seq.ops.find? (fun o => o.tag == tag) with
    | none => .next s
    | some o =>
      match s.job o.job, o.block with
      | some v, some b => .next (s.seqExecute o v.image b.toNat)
      | _, _ => .next s

end Sys2Proof.Machine
end

