-- ==== Sys2Proof/Machine/Upper.lean ====
section
/-! DEFINITION. The power state of tiles and uppers as the commands share it (R136, R446, R447, R456, R461). -/

namespace Sys2Proof.Machine

/-! ## Power of tiles -/

/-- A tile's region takes a state, and the tile with it. -/
def State.tilePower (s : State) (t : Nat) (p : Power) : State :=
  (s.updTile t fun x => { x with power := p }).setRegion (t / 52) (t % 52) { s.region (t / 52) (t % 52) with state := p }

/-- A sensor that becomes readable has no previous reading and no reference (R461, R463). -/
def State.freshSensor (s : State) (d n : Nat) : State := s.setSensor d n { Sensor.reset with raw := (s.sensor d n).raw }

/-- A tile whose region has ramped from off: CYCLE restarts (R136), and its sensor is readable again (R456). -/
def State.tileUp (s : State) (t : Nat) : State :=
  ((s.tilePower t .on).updTile t fun x => { x with quarterCycles := 0 }).freshSensor (t / 52) (t % 52)

/-- The upper leaves gating (R447): its tile regions ramp, and its sensors are readable again. -/
def State.wake (s : State) (k : Nat) : State :=
  if !s.pwr.gated.getLsbD k then s
  else
    let s1 := (upTo 52).foldl (fun t n => if (t.tile (52 * k + n)).power matches .dark then t else t.tileUp (52 * k + n)) s
    let s2 := (upTo 96).foldl (fun t n => t.freshSensor k n) s1
    { s2 with pwr.gated := s2.pwr.gated &&& ~~~(BitVec.ofNat 8 (2 ^ k)) }.cntPwr k 0x140 1

end Sys2Proof.Machine
end

