-- ==== Sys2Proof/Machine/Welt.lean ====
section
/-! DEFINITION. The welt (R223 to R248): beats and replay, steering onto spares, training, self-tests, in-service repairs,
retirement and quiescing. -/

namespace Sys2Proof.Machine

/-! ## Registers -/

def State.weltReg (s : State) (off dflt : Nat) : Nat := s.reg (indKey 1 off) dflt
def State.weltErrLevel (s : State) : Nat := s.weltReg 8 8 % 65536

/-- The thresholds of WELT_MARGIN_CTL. -/
structure Margins where
  replaceH : Nat
  replaceV : Nat
  failH : Nat
  failV : Nat
deriving DecidableEq, Repr

def State.margins (s : State) : Margins :=
  let v := s.weltReg 4 0x060C0C18
  ⟨v % 256, v / 2 ^ 8 % 256, v / 2 ^ 16 % 256, v / 2 ^ 24 % 256⟩

def dirNum (down : Bool) : Nat := if down then 1 else 0

def WeltChan.dir (c : WeltChan) (down : Bool) : WeltDir := if down then c.down else c.up
def WeltChan.setDir (c : WeltChan) (down : Bool) (d : WeltDir) : WeltChan := if down then { c with down := d } else { c with up := d }

/-- The steering map of a channel's direction (R228). -/
def State.steerMap (s : State) (c : Nat) (down : Bool) : SMap Nat := smGet [] s.mram.steer (2 * c + dirNum down)
/-- Spares in use (R229). -/
def State.sparesUsed (s : State) (c : Nat) (down : Bool) : Nat := min 128 (s.steerMap c down).length
/-- DETAIL of a channel's entry (R34). -/
def State.weltDetail (s : State) (c : Nat) : BitVec 16 := BitVec.ofNat 16 (s.sparesUsed c false + 256 * s.sparesUsed c true)

/-! ## In-service repair and retirement -/

/-- A repair starts at once (R226, R227, R241). -/
def State.startRepair (s : State) (c : Nat) : State :=
  let x := s.chan c
  if x.repairing || x.stopped || !(s.plan.get .welt c).inService then s
  else (s.setChan c { x with repairing := true, pausedAt := s.fabricNow }).cntChan c 0x118 1

/-- What one wire showed in a scan; a wire that a finding does not name has no error and full margins. -/
structure WireRead where
  errors : Bool
  horiz : Nat
  vert : Nat
deriving DecidableEq, Repr

def readWire (scans : List WireScan) (ch : Nat) (down : Bool) (w : Wire) : WireRead :=
  match scans.find? (fun x => x.ch.val == ch && x.down == down && x.wire == w) with
  | some x => ⟨x.errors, x.horiz.toNat, x.vert.toNat⟩
  | none => ⟨false, 0x40, 0x20⟩

/-- R230. -/
def WireRead.fails (r : WireRead) (m : Margins) : Bool := r.errors || decide (r.horiz < m.failH) || decide (r.vert < m.failV)
def WireRead.weak (r : WireRead) (m : Margins) : Bool :=
  !r.fails m && (decide (r.horiz < m.replaceH) || decide (r.vert < m.replaceV))

/-- The findings of one pass of a test. -/
def ofPass (p : ScanPass) (scans : List WireScan) : List WireScan := scans.filter fun x => x.pass == p

/-- The findings of a scan of several stacks that concern one of them. -/
def scansOf (l : List StackScan) (k : Nat) : List WireScan := (l.filter fun x => x.stack.val == k).map StackScan.scan

/-- The positions and the spares that scans name in a direction of a channel. -/
def scanPositions (scans : List WireScan) (ch : Nat) (down : Bool) : List Nat :=
  scans.filterMap fun x => if x.ch.val == ch && x.down == down then (match x.wire with | .position p => some p.val | .spare _ => none) else none
def scanSpares (scans : List WireScan) (ch : Nat) (down : Bool) : List Nat :=
  scans.filterMap fun x => if x.ch.val == ch && x.down == down then (match x.wire with | .spare n => some n.val | .position _ => none) else none

/-- Inserts a key by rising rank, equal ranks in order of arrival; the first of equal keys stays. -/
def insertBy (rank : Nat → Nat) (x : Nat) : List Nat → List Nat
  | [] => [x]
  | y :: ys => if x = y then y :: ys else if rank x < rank y then x :: y :: ys else y :: insertBy rank x ys
def sortBy (rank : Nat → Nat) (l : List Nat) : List Nat := l.eraseDups.foldl (fun acc x => insertBy rank x acc) []

/-- The unused spare with the widest horizontal margin, the lower-numbered on a tie (R231). -/
def bestSpare (width : Nat → Nat) (m : SMap Nat) : Option Nat :=
  (upTo 128).foldl (fun best n =>
    if smHas m n then best
    else match best with
      | none => some n
      | some b => if width b < width n then some n else some b) none

/-- The spare that carries a position. -/
def carriedBy (m : SMap Nat) (p : Nat) : Option Nat := (m.find? (fun e => e.2 == p)).map Prod.fst

/-- A spare marked bad. -/
def badSpare : Nat := 0x1FFE

/-- What steering makes of a map: the map, the positions and spares that changed, and whether a position found no spare. -/
structure Steered where
  map : SMap Nat
  changes : List (Nat × Nat)
  short : Bool
deriving DecidableEq, Repr

/-- Gives each position the best unused spare; the spare that carried it before is marked bad. -/
def assignSpares (width : Nat → Nat) : List Nat → SMap Nat → Steered
  | [], m => ⟨m, [], false⟩
  | p :: ps, m =>
    match bestSpare width m with
    | none => { assignSpares width ps m with short := true }
    | some n =>
      let old := carriedBy m p
      let m1 := match old with
        | some o => smPut m o badSpare
        | none => m
      let r := assignSpares width ps (smPut m1 n p)
      { r with changes := (old.toList.map fun o => (badSpare, o)) ++ (p, n) :: r.changes }

/-- Steering of one direction (R231): bad spares, failed positions, then weak positions where asked for. The second Steered
tells of weak positions. -/
def steerDir (m : SMap Nat) (scans : List WireScan) (ch : Nat) (down : Bool) (lim : Margins)
    (weakToo : Bool) : Steered × Bool :=
  let rd := readWire scans ch down
  let pos := fun p => rd (.position (Fin.ofNat 4144 p))
  let spr := fun n => rd (.spare (Fin.ofNat 128 n))
  let width := fun n => (spr n).horiz
  let newBad := (sortBy id ((scanSpares scans ch down).filter fun n => (spr n).fails lim)).filter
    fun n => smGet 0 m n != badSpare
  let freed := newBad.filterMap fun n => if smHas m n then some (smGet 0 m n) else none
  let m1 := newBad.foldl (fun t n => smPut t n badSpare) m
  let out := fun p => (carriedBy m p).isSome
  let failed := sortBy id (freed ++ ((scanPositions scans ch down).filter fun p => (pos p).fails lim && !out p))
  let a := assignSpares width failed m1
  let weakRead := fun p => match carriedBy a.map p with | some n => spr n | none => pos p
  let weak := if weakToo then
      sortBy (fun p => (weakRead p).horiz) (sortBy id ((scanPositions scans ch down ++ (a.map.map Prod.snd).filter (· < 4144)).filter fun p =>
        (weakRead p).weak lim && !(a.changes.any fun e => e.1 == p)))
    else []
  let b := assignSpares width weak a.map
  (⟨b.map, newBad.map (fun n => (badSpare, n)) ++ a.changes ++ b.changes, a.short⟩, b.short)

/-- The least margins of in-service wires of a direction at a scan. -/
def leastMargin (m : SMap Nat) (scans : List WireScan) (ch : Nat) (down : Bool) (f : WireRead → Nat) (full : Nat) : Nat :=
  let rd := readWire scans ch down
  let ps := (scanPositions scans ch down).filter fun p => (carriedBy m p).isNone
  let ns := (scanSpares scans ch down).filter fun n => smHas m n && smGet 0 m n != badSpare
  (ps.map (fun p => f (rd (.position (Fin.ofNat 4144 p)))) ++ ns.map (fun n => f (rd (.spare (Fin.ofNat 128 n))))).foldl min full

/-- A FIELD_DEFECT record of a steering change (R232, R520). -/
def State.steerRecord (s : State) (c : Nat) (down : Bool) (reason : Nat) (e : Nat × Nat) : State :=
  s.fieldDefect 2 c reason (natToBytes 2 e.1 ++ natToBytes 1 e.2 ++ natToBytes 1 (dirNum down)) (c / 64)

/-- Loads a direction's map (R233 step 1): what the fuse map marks joins what the record holds; whether a position of the fuse
map finds no spare. -/
def State.loadMap (s : State) (c : Nat) (down : Bool) : Bool × State :=
  let fuse := s.part.fuseWires.filter fun f => f.ch.val == c && f.down == down
  let pos := fuse.filterMap fun f => match f.wire with | .position p => some p.val | .spare _ => none
  let bad := fuse.filterMap fun f => match f.wire with | .spare n => some n.val | .position _ => none
  let m := bad.foldl (fun m n => if smHas m n then m else smPut m n badSpare) (s.steerMap c down)
  let r := assignSpares (fun _ => 0) (sortBy id (pos.filter fun p => (carriedBy m p).isNone)) m
  (r.short, { s with mram.steer := smSet [] s.mram.steer (2 * c + dirNum down) r.map })

/-- Steers one direction of a channel and commits its map (R231, R232). -/
def State.steer (s : State) (c : Nat) (down : Bool) (scans : List WireScan) (weakToo : Bool) (reason : Nat) : Bool × Bool × State :=
  let (r, low) := steerDir (s.steerMap c down) scans (c % 64) down s.margins weakToo
  let s1 := { s with mram.steer := smSet [] s.mram.steer (2 * c + dirNum down) r.map }
  let s2 := r.changes.foldl (fun t e => t.steerRecord c down reason e) s1
  let moved := (r.changes.filter fun e => e.1 != badSpare).length
  let s3 := if moved = 0 then s2 else s2.cntChan c 0x128 moved
  let x := s3.chan c
  let d := { x.dir down with
    minHoriz := BitVec.ofNat 8 (leastMargin r.map scans (c % 64) down WireRead.horiz 0x40)
    minVert := BitVec.ofNat 8 (leastMargin r.map scans (c % 64) down WireRead.vert 0x20) }
  (r.short, low, s3.setChan c (x.setDir down d))

/-- Steers both directions; whether the channel is lost (R231). -/
def State.steerBoth (s : State) (c : Nat) (scans : List WireScan) (weakToo : Bool) (reason : Nat) : Bool × State :=
  let (lostU, lowU, s1) := s.steer c false scans weakToo reason
  let (lostD, lowD, s2) := s1.steer c true scans weakToo reason
  (lostU || lostD, s2.setChan c { s2.chan c with sparesLow := (s2.chan c).sparesLow || lowU || lowD })

/-- Slices that have lost their only channel, as a mask of the stack (R242). -/
def sliceMask (ks : List Nat) : Nat := ks.foldl (fun m k => m + 2 ^ (k % 64)) 0

/-- The RETIREMENT record (R520). -/
def State.retireRecord (s : State) (c job carrier : Nat) (removed : List Nat) : State :=
  s.blackBox 6 0 (c / 64) job (natToBytes 4 c ++ natToBytes 1 (s.sparesUsed c false) ++ natToBytes 1 (s.sparesUsed c true) ++
    [0, 0] ++ natToBytes 4 carrier ++ natToBytes 8 (sliceMask removed))

/-- A channel stops carrying beats. -/
def WeltChan.halted (x : WeltChan) : WeltChan :=
  let clear := fun (d : WeltDir) => { d with replay := [], resend := [], nak := none, fails := 0, window := 0 }
  { x with up := clear x.up, down := clear x.down, repairing := false, stopped := true }

/-- Step 1 of a retirement (R242): the channel stops, and a job that holds the stack takes the fault 0x2B. The retirement is
committed once that job is scrubbed. -/
def State.retireStop (s : State) (c : Nat) : State :=
  let j := s.jobOn (c / 64)
  let s0 := s.setChan c { (s.chan c).halted with retiring := some (j.getD 0) }
  match j.filter s.present with
  | some j => s0.jobFault j 0x2B FaultSite.none (natToBytes 4 c) 0xFFFFFFFF
  | none => s0

/-- A job's fault record names a black-box record of its fault 0x2B on a channel. -/
def State.nameRecord (s : State) (j c bb : Nat) : State :=
  let mark := fun (e : JobEnd) =>
    if e.code == 0x2B && e.info == BitVec.ofNat 256 c then { e with bbIndex := BitVec.ofNat 32 bb } else e
  if s.mram.bbHead = bb then s else s.updJob j fun v => { v with ended := v.ended.map mark }

/-- Steps 3 and 4 of a retirement (R242): the pair channel takes the slice over, or the slices behind the pair leave; the change
is committed and the record written. A removal that takes the sole below R4 is stack-fatal, and the fault 0x2B is then written
too (R244). -/
def State.retireCommit (s : State) (c origin : Nat) : State :=
  match (s.chan c).retiring with
  | none => s
  | some j =>
    let k := c / 64
    let pair := c ^^^ 1
    let s1 := s.setChan c { s.chan c with retiring := none }
    let p1 := s1.plan.set .welt c ⟨2, 4, s1.weltDetail c⟩
    let carries := (p1.get .welt pair).isWorking
    let removed := if carries then [] else [min c pair, max c pair].filter p1.sliceOk
    let p2 := if carries then p1.set .welt pair ⟨1, 5, s1.weltDetail pair⟩
      else removed.foldl (fun p n => p.disable .slice n 5) p1
    let s2 := removed.foldl (fun t n => t.addDefect ⟨.slice, n⟩ 5) (s1.addDefect ⟨.welt, c⟩ 4)
    let s3 := s2.commitPlan p2 origin
    let s4 := (s3.retireRecord c j (if carries then pair else 0xFFFFFFFF) removed).nameRecord j c s3.mram.bbHead
    if p2.below k && !s.plan.below k then
      let s5 := if j = 0 then s4 else
        s4.blackBox 1 0x2B k j ([1, 0] ++ List.replicate 6 0 ++ natToBytes 8 c ++ natToBytes 4 0xFFFFFFFF)
      s5.stackFatal (BitVec.ofNat 8 (2 ^ k)) 1 (natToBytes 8 k)
    else s4

/-- Commits the retirements of a stack that wait, in ascending order (R242, R244): while a job holds the stack none is, and
one whose pair channel is under repair waits for that repair's end (R247). -/
def State.commitRetirements (s : State) (k origin : Nat) : State :=
  (((upTo 64).map (64 * k + ·)).filter fun c => (s.chan c).retiring.isSome && !(s.chan (c ^^^ 1)).repairing).foldl
    (fun t c => t.retireCommit c origin) s

/-- Retirement in service (R242): committed at once on a stack that no job holds. -/
def State.retire (s : State) (c origin : Nat) : State :=
  let s1 := s.retireStop c
  if (s.jobOn (c / 64)).isSome then s1 else s1.commitRetirements (c / 64) origin

/-- The details of a stack's channels are brought up to date in the floor plan, as one change (R34). -/
def State.weltDetails (s : State) (cs : List Nat) (origin : Nat) : State :=
  let p := cs.foldl (fun p c => let e := p.get .welt c; if e.detail = s.weltDetail c then p else p.set .welt c { e with detail := s.weltDetail c }) s.plan
  if p = s.plan then s else s.changePlan p origin

/-- The channels of a stack that are in service. -/
def State.weltLive (s : State) (k : Nat) : List Nat := ((upTo 64).map (64 * k + ·)).filter fun c => (s.plan.get .welt c).inService

/-- Steers channels; those that are lost. -/
def State.steerAll (s : State) (cs : List Nat) (scans : List WireScan) (weakToo : Bool) (reason : Nat) : List Nat × State :=
  cs.foldl (fun (acc : List Nat × State) c =>
    let (l, t) := acc.2.steerBoth c scans weakToo reason
    (if l then acc.1 ++ [c] else acc.1, t)) ([], s)

/-- A wire carries a signal: a position that no spare carries, or a spare that carries one. -/
def State.wireUsed (s : State) (c : Nat) (down : Bool) : Wire → Bool
  | .position p => (carriedBy (s.steerMap c down) p.val).isNone
  | .spare n => decide (smGet badSpare (s.steerMap c down) n.val < 4144)

/-- New deskew settings of a channel, its strobes locked (R233 steps 2 and 3). -/
def State.deskewed (s : State) (c : Nat) : State :=
  let (n, s1) := s.draw
  s1.setChan c { s1.chan c with locked := true, deskew := some n }

/-- Steps 3 to 8 of R233 on channels of one stack: deskew, scan, steering and verify scan; where the verify scan shows an error
on a wire in use, scan and steering are repeated once. -/
def State.testChannels (s : State) (cs : List Nat) (scans : List WireScan) (reason : Nat) : List Nat × State :=
  let a := (cs.foldl State.deskewed s).steerAll cs (ofPass .scan scans) true reason
  let errs := (ofPass .verify scans).any fun x => x.errors && cs.any fun c => c % 64 == x.ch.val && a.2.wireUsed c x.down x.wire
  if errs then
    let b := a.2.steerAll cs (ofPass .again scans) true reason
    (cs.filter fun c => a.1.contains c || b.1.contains c, b.2)
  else a

/-- The outcome of a test is committed: new details, then each retirement as its own change (R237, R244). -/
def State.testOutcome (s : State) (cs lost : List Nat) (origin : Nat) : State :=
  lost.foldl (fun t c => t.retire c origin) (s.weltDetails (cs.filter fun c => !lost.contains c) origin)

/-! ## Beats (R225 to R227) -/

/-- The signals of a beat by their positions (R224): data, a strobe for each 512 of them, check, header, the opposite
direction's credits, and the handshake, which is idle in service. -/
def Beat.wires (b : Beat) : BitVec 4144 :=
  (0 : BitVec 8) ++ b.back ++ b.header ++ b.crc ++ (0xFF : BitVec 8) ++ b.data

/-- The header bits of a beat that carries a packet of a slice, or none (R224, R243): a packet moves one line at most, so that
it starts and ends in one beat. -/
def beatHeader : Option (Packet NetMsg × Bool) → BitVec 8
  | none => 0
  | some (p, odd) => BitVec.ofNat 8 (3 + 4 * p.hdr.cls.toNat + (if odd then 32 else 0))

/-- A direction after a beat has been received, and whether it failed its check. -/
def WeltDir.receive (d : WeltDir) (b : Beat) (errors : BitVec 4144) : Bool × WeltDir :=
  let w := b.wires ^^^ errors
  if weltCrc (w.extractLsb' 0 4096) (w.extractLsb' 4120 8) ≠ w.extractLsb' 4104 16 then
    (true, if b.num = d.expect then { d with fails := d.fails + 1, nak := some b.num } else d)
  else if b.num = d.expect then
    (false, { d with expect := d.expect + 1, fails := 0, nak := none, replay := d.replay.filter (fun x => d.expect < x.num) })
  else (false, d)

/-- Whether a packet belongs to the odd slice of its pair. -/
def State.oddSlice (s : State) (p : Packet NetMsg) : Bool :=
  match p.msg.tileLine with
  | some (_, l) => s.plan.lineSlice l % 2 == 1
  | none => false

/-- The packets at some places of the network that cross a channel in a direction (R223, R243): its own slice's, and its
pair's on a carrier; and those that go from or to the stack's tiles for other stacks. A quiescing stack sends no request down
(R246). -/
def State.weltPackets (s : State) (c : Nat) (down : Bool) (waiting : List Nat) : List (Packet NetMsg) :=
  let carrier := (s.plan.get .welt c).reason == 5
  (s.packets waiting).filter fun p =>
    p.msg.goesUp == !down && match p.msg.tileLine with
    | some (t, l) =>
      t / 52 == c / 64 && (lineStack l != c / 64 || s.plan.lineSlice l == c || (carrier && s.plan.lineSlice l == (c ^^^ 1))) &&
        !((s.weltStack (c / 64)).quiescing && (match p.msg with | .request .. => true | _ => false))
    | none => false

/-- The packet that a direction takes next (R243): each slice's first by the class rules; where both have one, the slices take
turns, and a turn that one leaves unused passes to the other. -/
def WeltDir.pick (d : WeltDir) (evens odds : List (Packet NetMsg)) : Option (Packet NetMsg × Bool) × WeltDir :=
  let ofEven := fun p => (some (p, false), { d with even := d.even.served p evens, oddLast := false })
  let ofOdd := fun p => (some (p, true), { d with odd := d.odd.served p odds, oddLast := true })
  match d.even.choose evens, d.odd.choose odds with
  | some p, some q => if d.oddLast then ofEven p else ofOdd q
  | some p, none => ofEven p
  | none, some q => ofOdd q
  | none, none => (none, d)

/-- The beat on the wire: the next beat of a replay, or a new one that joins the replay buffer; none while the buffer of 64
is full. -/
def WeltDir.next (d : WeltDir) (data : BitVec 4096) (evens odds : List (Packet NetMsg)) (back : Byte) : Option (Beat × WeltDir) :=
  match d.resend with
  | b :: bs => some (b, { d with resend := bs })
  | [] =>
    if 64 ≤ d.replay.length then none
    else
      let (p, d1) := d.pick evens odds
      let b : Beat := ⟨d.sent, data, beatHeader p, weltCrc data (beatHeader p), back⟩
      some (b, { d1 with sent := d.sent + 1, replay := d.replay ++ [b] })

/-- A channel that carries beats now: in READY, and in a quiesce drain (R246). -/
def State.weltOpen (s : State) (c : Nat) : Bool :=
  let x := s.chan c
  let k := s.weltStack (c / 64)
  x.locked && !x.repairing && !x.stopped && !k.testing && (s.plan.get .welt c).inService &&
    ((s.dev.mode matches .ready) || k.quiescing)

/-- WELT_BEAT (R224 to R227, R243): a beat crosses with a packet of those that wait, and with the bits that the wires invert;
a mismatch sends a NAK, is counted, and starts a repair at the fourth failure of a beat or above the window's level. -/
def execWeltBeat (stack : Fin 8) (ch : Fin 64) (down : Bool) (data : BitVec 4096) (waiting : List Nat) (errors : BitVec 4144)
    (s : State) : Out :=
  let c := 64 * stack.val + ch.val
  if !s.weltOpen c then .next s
  else
    let ps := s.weltPackets c down waiting
    let other := (s.chan c).dir (!down)
    match ((s.chan c).dir down).next data (ps.filter fun p => !s.oddSlice p) (ps.filter s.oddSlice)
        (Config.weltBack other.expect other.nak) with
    | none => .next s
    | some (b, d) =>
      let (bad, d1) := d.receive b errors
      if !bad then .next (s.setChan c ((s.chan c).setDir down d1))
      else
        let d2 := { d1 with window := d1.window + 1 }
        let s1 := (s.setChan c ((s.chan c).setDir down d2)).cntChan c (if down then 0x108 else 0x100) 1
        if 4 ≤ d2.fails || s.weltErrLevel < d2.window then .next (s1.startRepair c) else .next s1

/-- WELT_NAK (R226): the sender sends again from the named beat, in order. -/
def execWeltNak (stack : Fin 8) (ch : Fin 64) (down : Bool) (beat : Nat) (s : State) : Out :=
  let c := 64 * stack.val + ch.val
  let d := (s.chan c).dir down
  if !s.weltOpen c || !d.replay.any (fun b => b.num == beat) then .next s
  else
    .next ((s.setChan c ((s.chan c).setDir down
      { d with resend := d.replay.filter (fun b => beat ≤ b.num), nak := none })).cntChan c 0x110 1)

/-- STROBE_LOSS (R226): the lock is lost, and a repair starts at once. -/
def execStrobeLoss (stack : Fin 8) (ch : Fin 64) (_down : Bool) (s : State) : Out :=
  let c := 64 * stack.val + ch.val
  if s.weltOpen c then .next ((s.setChan c { s.chan c with locked := false }).startRepair c) else .next s

/-- WELT_ERROR_WINDOW_END (R227). -/
def execWeltErrorWindowEnd (stack : Fin 8) (ch : Fin 64) (down : Bool) (s : State) : Out :=
  let c := 64 * stack.val + ch.val
  if s.dev.mode matches .ready then
    .next (s.setChan c ((s.chan c).setDir down { (s.chan c).dir down with window := 0 }))
  else .next s

/-- A channel resumes with a replay from the oldest unacknowledged beat (R241). -/
def WeltChan.resume (x : WeltChan) : WeltChan :=
  let go := fun (d : WeltDir) => { d with resend := d.replay, nak := none, fails := 0 }
  { x with up := go x.up, down := go x.down, repairing := false }

/-- WELT_REPAIR_END (R241, R242, R247): the channel resumes with a replay of each direction, or retires; a retirement of the
pair channel that waited goes on. The pause counts the cycles of the table. -/
def execWeltRepairEnd (stack : Fin 8) (ch : Fin 64) (scans : List WireScan) (s : State) : Out :=
  let c := 64 * stack.val + ch.val
  if !(s.chan c).repairing then .next s
  else
    let (lost, s1) := s.steerBoth c (ofPass .scan scans) false s.findReason
    let s2 :=
      if lost then (s1.cntChan c 0x120 6208).retire c 2
      else
        let x := s1.chan c
        let again := (if x.up.replay.isEmpty then 0 else 1) + (if x.down.replay.isEmpty then 0 else 1)
        ((((s1.setChan c x.resume).deskewed c).cntChan c 0x120 7744).cntChan c 0x110 again).weltDetails [c] 2
    .next (if (s2.jobOn stack.val).isSome then s2 else s2.commitRetirements stack.val 2)

/-! ## Self-tests (R235 to R238) -/

/-- The effective interval in always-on cycles (R235). -/
def State.testInterval (s : State) (k : Nat) : Nat :=
  let v := s.weltReg 0 0x3C % 64
  let m := if v = 0 then 1 else min v 60
  let t := (smGet Tread.fresh s.mram.tread k).count.toNat
  (if 50000 < t then (m + 1) / 2 else m) * 2400000000

/-- WELT_TEST_DUE (R235). -/
def execWeltTestDue (stack : Fin 8) (s : State) : Out :=
  let w := s.weltStack stack.val
  if s.testInterval stack.val ≤ w.age then .next (s.setWeltStack stack.val { w with due := true }) else .next s

/-- A stack that is free for a test: powered and trained, no job holds it and it is not under reset. -/
def State.stackFree (s : State) (k : Nat) : Bool :=
  (s.dev.mode matches .ready | .held | .check) && s.dev.weltTrained.getLsbD k && (s.jobOn k).isNone && !s.dev.stackReset.getLsbD k

/-- WELT_SELF_TEST (R236): a due test starts at the first moment at which no job holds the stack; a gated upper is woken. -/
def execWeltSelfTest (stack : Fin 8) (s : State) : Out :=
  let k := stack.val
  let w := s.weltStack k
  if w.due && !w.testing && s.stackFree k then
    .next ((s.setWeltStack k { w with testing := true }).wake k)
  else .next s

/-- The end of a stack's self-test (R235, R237): its age starts anew and no channel is flagged. -/
def State.testDone (s : State) (k : Nat) : State :=
  let s1 := ((upTo 64).map (64 * k + ·)).foldl (fun t c => t.setChan c { t.chan c with testDue := false }) s
  s1.setWeltStack k { s1.weltStack k with age := 0, due := false, testing := false }

/-- A whole self-test of a stack. -/
def State.selfTest (s : State) (k : Nat) (scans : List WireScan) (reason origin : Nat) : State :=
  let t := s.testChannels (s.weltLive k) scans reason
  (t.2.testOutcome (s.weltLive k) t.1 origin).testDone k

/-- WELT_SELF_TEST_COMMIT (R237): the maps take effect at step 8. -/
def execWeltSelfTestCommit (stack : Fin 8) (scans : List WireScan) (s : State) : Out :=
  if (s.weltStack stack.val).testing then .next (s.selfTest stack.val scans 0x0B 2) else .next s

/-! ## Cold training (R233) -/

def State.isFuseBad (s : State) (k : UnitKind) (n : Nat) : Bool := s.part.fuseBad.contains ⟨k, n⟩
def State.defectOf (s : State) (k : UnitKind) (n : Nat) : Option Byte :=
  ((s.defects.units).find? fun e => e.1 == ⟨k, n⟩).map Prod.snd
/-- A unit of this bring-up's findings (R404). -/
def State.foundBad (s : State) (k : UnitKind) (n : Nat) : Bool := s.dev.found.any fun e => e.1 == ⟨k, n⟩

/-- A slice disabled for a reason other than the welt. -/
def State.sliceDead (s : State) (n : Nat) : Bool :=
  s.isFuseBad .slice n || (match s.defectOf .slice n with | some r => r != 5 | none => false) || s.foundBad .slice n

/-- A channel that cold training trains. -/
def State.weltTrains (s : State) (c : Nat) : Bool := !s.isFuseBad .welt c && (s.defectOf .welt c).isNone && !s.sliceDead c

/-- Retirement in cold training: in the defect record and the black box; step 6 puts it into the floor plan. -/
def State.retireCold (s : State) (c : Nat) : State :=
  let s1 := s.addDefect ⟨.welt, c⟩ 4
  if s1.weltTrains (c ^^^ 1) then s1.retireRecord c 0 (c ^^^ 1) []
  else
    let gone := [min c (c ^^^ 1), max c (c ^^^ 1)].filter fun n => !s.sliceDead n
    (gone.foldl (fun t n => t.addDefect ⟨.slice, n⟩ 5) s1).retireRecord c 0 0xFFFFFFFF gone

/-- Step 5 ends once every powered stack's welt and the HBM have trained. -/
def State.trainingDone (s : State) : State :=
  if (s.dev.step matches .training) && s.dev.hbmTrained && s.dev.weltTrained == s.dev.stackUp then { s with dev.step := .plan } else s

/-- WELT_COLD_TRAINING (R233): the channels of one powered stack train in step 5. -/
def execWeltColdTraining (stack : Fin 8) (scans : List WireScan) (s : State) : Out :=
  let k := stack.val
  if !(s.dev.mode matches .bringup) || !(s.dev.step matches .training) || s.dev.weltTrained.getLsbD k || !s.dev.stackUp.getLsbD k then
    .next s
  else
    let cs := ((upTo 64).map (64 * k + ·)).filter s.weltTrains
    let s0 := cs.foldl (fun t c => t.setChan c { WeltChan.reset with counters := (t.chan c).counters }) s
    let ld := cs.foldl (fun (acc : List Nat × State) c =>
      let a := acc.2.loadMap c false
      let b := a.2.loadMap c true
      (if a.1 || b.1 then acc.1 ++ [c] else acc.1, b.2)) ([], s0)
    let t := ld.2.testChannels cs scans 2
    let s1 := (cs.filter fun c => ld.1.contains c || t.1.contains c).foldl State.retireCold t.2
    .next { (s1.testDone k) with dev.weltTrained := s1.dev.weltTrained ||| BitVec.ofNat 8 (2 ^ k) }.trainingDone

/-! ## Quiescing (R246, R247) -/

/-- The link layer of a stack's welt starts anew on its kept maps, deskew settings and locks (R234, R246); a repair that the
drain's end meets is abandoned. -/
def State.reopen (s : State) (k : Nat) : State :=
  let clear := fun (d : WeltDir) => { WeltDir.reset with window := d.window, minHoriz := d.minHoriz, minVert := d.minVert }
  let s1 := ((upTo 64).map (64 * k + ·)).foldl (fun t c =>
    let x := t.chan c
    t.setChan c { x with up := clear x.up, down := clear x.down, repairing := false, testDue := x.testDue || x.repairing }) s
  s1.setWeltStack k { s1.weltStack k with quiescing := false }

/-- Messages of the network that a stack's welt or slices still hold, and the requests of its tiles that wait to be sent. -/
def State.undelivered (s : State) (k : Nat) : Nat :=
  (s.sole.net.filter fun m => match m.tileLine with | some (t, l) => t / 52 == k || lineStack l == k | none => false).length +
    (s.qos.inject.filter fun x => x.master / 52 == k && decide (x.master < 416)).length

end Sys2Proof.Machine
end

