-- ==== Sys2Proof/Machine/Life.lean ====
section
/-! DEFINITION. The end of a job (R258, R326, R345, R516), events of the host link (R316, R318), the resets (R412 to R415),
device-fatal faults (R513) and the entry to SHUTDOWN (R355, R470). -/

namespace Sys2Proof.Machine

/-! ## Scrubbing (R156, R164, R218, R258, R294) -/

/-- What is left of a tile: its power, its cycle, its counters and its known-answer results. -/
def Tile.scrubbed (x : Tile) : Tile :=
  { Tile.reset with
    power := x.power, quarterCycles := x.quarterCycles, counters := x.counters, rngCounters := x.rngCounters
    rng := { Rng.reset with katDone := x.rng.katDone, katPass := x.rng.katPass } }

/-- Whether a message in flight belongs to selected stacks: of the line's home, or of the tile it answers. -/
def NetMsg.ofStacks (p : Nat → Bool) : NetMsg → Bool
  | .request l _ => p (lineStack l.toNat)
  | .recall _ l _ _ | .answer _ l _ _ _ | .fill _ l _ _ _ _ | .grant _ l _ | .ncData _ l _ _ | .ack _ l _ => p (lineStack l.toNat)

/-- The key slot of an HBM stack is zeroed: what the stack holds is ciphertext under a key that no longer exists (R258). -/
def State.loseKey (s : State) (h : Nat) : State :=
  let (n, s1) := s.draw
  { s1 with hbm.residue := smSet 0 s1.hbm.residue h (n + 1) }

/-- The tiles, soles, HBM keys and sequence tables of selected stacks forget their job. -/
def State.scrubStacks (s0 : State) (p : Nat → Bool) : State :=
  let s := (smKeys (fun h _ => p (h / 2)) s0.hbm.keys).foldl State.loseKey s0
  let gone := s.sole.atomics.filter fun a => p (a.tile / 52)
  { s with
    tiles := smMapD Tile.reset (fun t x => if p (t / 52) then x.scrubbed else x) s.tiles
    sole.lines := smFilter (fun l _ => !p (lineStack l)) s.sole.lines
    sole.autoPages := smFilter (fun n _ => !p (n / 524288)) s.sole.autoPages
    sole.waiting := s.sole.waiting.filter fun l => !p (lineStack l)
    sole.stuck := s.sole.stuck.filter fun l => !p (lineStack l)
    sole.demoted := s.sole.demoted.filter fun l => !p (lineStack l)
    qos.inject := s.qos.inject.filter fun x => !p (lineStack x.line.toNat)
    sole.net := s.sole.net.filter fun m => !m.ofStacks p
    sole.atomics := s.sole.atomics.filter fun a => !p (a.tile / 52)
    sole.replies := s.sole.replies.filter fun r => !gone.any fun a => a.tag == r.tag
    seq.descs := smFilter (fun d _ => !p (d / 2 ^ 17)) s.seq.descs
    seq.engines := smMapD SeqEngine.reset (fun k x => if p k then { SeqEngine.reset with counters := x.counters } else x) s.seq.engines
    seq.ops := s.seq.ops.filter fun o => !p o.stack && !p (o.tile / 52)
    seq.results := s.seq.results.filter fun r => !p r.stack && !p (r.tile / 52)
    fabric.outstanding := s.fabric.outstanding.filter fun a => !p (a.tile / 52)
    hbm.mem := smFilter (fun a _ => !p (a / 2 ^ 37)) s.hbm.mem
    hbm.keys := smFilter (fun h _ => !p (h / 2)) s.hbm.keys
    hbm.unfilled := smFilter (fun h _ => !p (h / 2)) s.hbm.unfilled
    hbm.soleFlips := smFilter (fun n _ => !p (n / 2 ^ 30) || n / 2 ^ 29 % 2 == 1) s.hbm.soleFlips
    hbm.passed := s.hbm.passed.filter fun l => !p (lineStack l) }

/-- Parked tiles of selected stacks ramp (R446). -/
def State.unpark (s : State) (p : Nat → Bool) : State :=
  (smKeys (fun t x => p (t / 52) && decide (x.power = .parked)) s.tiles).foldl State.tileUp s

/-- MR8 + s of selected stacks reads zero again (R476). -/
def State.clearStackMrs (s : State) (p : Nat → Bool) : State :=
  ((upTo 8).filter p).foldl (fun t k => t.clearMr (8 + k)) s

/-! ## Key slots (R490) -/

/-- Empties a slot that is not EMPTY and logs it (R503): reasons 0 RELEASE, 1 expiry, 2 job end, 3 reset, 4 link. -/
def State.destroyKey (s : State) (n reason : Nat) : State :=
  let k := s.keySlot n
  if k.state = .empty then s
  else (s.auditFw 0x0B k.job.toNat (natToBytes 1 n ++ natToBytes 4 k.job.toNat ++ natToBytes 1 reason)).setKeySlot n SecSlot.empty

/-- Ends IDE: its keys go, and the IDE slot is emptied (R491). -/
def State.endIde (s : State) (reason : Nat) : State :=
  let ns := (upTo 16).filter fun n => (s.keySlot n).ide && decide ((s.keySlot n).state = .ready)
  ns.foldl (fun t n => t.destroyKey n reason) { s with host.ide := false, sec.ideSet := false, sec.ideTx := 0, sec.ideRx := 0 }

/-! ## The end of a job -/

/-- The fault record (R516). -/
def State.faultRecord (s : State) (j : Nat) (v : Job) (e : JobEnd) : List Byte :=
  natToBytes 4 0x464C5431 ++ natToBytes 2 1 ++ [e.cls, e.code] ++ natToBytes 4 j ++ natToBytes 4 v.suppressed.toNat ++
  natToBytes 8 e.aonCount.toNat ++ natToBytes 4 e.tile.toNat ++ natToBytes 4 e.group.toNat ++ natToBytes 4 e.lanes.toNat ++
  natToBytes 4 e.pc.toNat ++ natToBytes 8 e.affected.toNat ++ natToBytes 4 s.mram.generation.toNat ++ natToBytes 4 e.bbIndex.toNat ++
  natToBytes 8 0 ++ digestBytes v.image.digest ++ digestBytes e.info ++ natToBytes 128 0

/-- Statuses that come with a fault record. -/
def JobEnd.hasRecord (e : JobEnd) : Bool := e.status == 3 || e.status == 0x3C || e.status == 0x3D

/-- Writes a job's fault record to its FAULT_ADDR; a write that fails is counted (R511). -/
def State.writeRecord (s : State) (j : Nat) (v : Job) (e : JobEnd) : State :=
  let a := v.faultAddr.toNat
  if !e.hasRecord || a = 0 then s
  else if s.hostOk a 256 then s.hostWrite a (s.faultRecord j v e) else s.hostError

/-- The descriptors of a job that have started complete with ABORTED before the LAUNCH (R345). -/
def State.abortOps (s : State) (j : Nat) : State :=
  (s.inflight.filter fun f => f.started && f.jobId == j && [2, 3, 5, 6, 0xE].contains f.opcode).foldl
    (fun t f => t.complete f.ring f.idx 0x0A 0 0) s

/-- The completion of a job whose end is decided, in place of the scrub: the record, then the LAUNCH completion. -/
def State.completeLaunch (s : State) (j : Nat) (v : Job) (e : JobEnd) : State :=
  if e.silent then { s with jobs := smErase s.jobs j }
  else (s.writeRecord j v e).complete v.ring v.idx e.status.toNat e.detail.toNat (if e.status = 0 then v.exited else 0)

/-- The steps of R258 and what follows them: accesses stop, the scrubs run, keys are zeroed, the bound slot empties, a
retirement that waited for the scrub is committed (R242), the end is logged, and the LAUNCH completes. -/
def State.finishJob (s : State) (j : Nat) : State :=
  match s.job j with
  | none => s
  | some v =>
    match v.ended with
    | none => s
    | some e =>
      if !e.silent && (s.findDesc v.ring v.idx).isNone then s
      else
        let p := fun k => v.image.stackBits.getLsbD k
        let s1 := if s.mgt.bar2Job.toNat = j then { s with mgt.bar2Job := 0 } else s
        let s2 := (((s1.abortOps j).unpark p).scrubStacks p).clearStackMrs p
        let s3 := match v.keySlot with | some n => s2.destroyKey n 2 | none => s2
        let s4 := (maskStacks v.image.stackBits).foldl (fun t k => t.commitRetirements k 2) s3
        (s4.auditFw 0x10 j [e.status, e.detail]).completeLaunch j v (((s4.job j).bind Job.ended).getD e)

/-- JOB_END_SCRUB (R258, R348); a thermal shutdown in progress completes its jobs itself, once the device is in SHUTDOWN (R470). -/
def execJobEndScrub (job : BitVec 32) (s : State) : Out :=
  .next (if s.dev.shuttingDown then s else s.finishJob job.toNat)

/-- Finishes every job whose end is decided. -/
def State.finishJobs (s : State) : State := (smKeys (fun _ v => v.ended.isSome) s.jobs).foldl State.finishJob s

/-! ## The host link (R316, R318) -/

/-- Keeps the registers that satisfy a test; the others read their reset values. -/
def State.keepRegs (s : State) (p : Nat → Bool) : State := { s with regs := smFilter (fun k _ => p k) s.regs }

/-- An event of R318: every job ends without a completion, and rings, status page and BAR2 binding return to their reset
values; IDE ends. -/
def State.hostDrop (s : State) : State :=
  let s1 := s.endJobs (fun _ _ => true) fun v => JobEnd.plain 0x0A s.aon v.image.stackBits
  let mute := fun (e : JobEnd) => { e with silent := true }
  let js := smMap (fun _ (v : Job) => { v with ended := v.ended.map mute }) s1.jobs
  let s2 := { s1 with
    jobs := js
    inflight := [], rings := [], mgt.statusPage := 0, mgt.bar2Job := 0, mgt.turn := 0 }
  (s2.keepRegs fun k => k / 0x1000 != 1).endIde 4

/-- The LINK_RESET entry (R318, R503): 0 FLR or hot reset, 1 loss of the link. -/
def State.auditLinkReset (s : State) (what : Nat) : State := s.audit 0 0xFFFE 0x12 0 (natToBytes 1 what)

/-- FLR_OR_HOT_RESET (R318): the link stays. -/
def execFlrOrHotReset (s : State) : Out :=
  if !s.host.up then .next s
  else
    let s1 := s.hostDrop.auditLinkReset 0
    .next { s1 with mgt.flrs := BitVec.ofNat 32 (satAdd32 s1.mgt.flrs.toNat 1) }

/-- The link goes down (R318). -/
def State.linkLoss (s : State) : State :=
  if !s.host.up then s
  else
    let s1 := s.hostDrop.auditLinkReset 1
    { s1 with host.up := false, host.width := 0, host.rate := 0, mgt.linkDowns := BitVec.ofNat 32 (satAdd32 s1.mgt.linkDowns.toNat 1) }

/-- CXL_LINK_LOSS (R318). -/
def execCxlLinkLoss (s : State) : Out := .next s.linkLoss

/-- CXL_LINK_UP (R6, R316, R317): at ×16, ×8 or ×4 and 32, 64 or 128 GT/s, from BOOT on. -/
def execCxlLinkUp (width : BitVec 5) (rate : BitVec 3) (s : State) : Out :=
  if s.host.up || (s.dev.mode matches .off | .aon) || !([16, 8, 4].contains width.toNat) || 3 ≤ rate.toNat then .next s
  else .next { s with host.up := true, host.width := width, host.rate := rate }

/-! ## Resets -/

/-- Every awl that is armed is disarmed by a reset (R386). -/
def State.resetAwls (s : State) : State := (upTo 18).foldl (fun t p => t.awlDisarm p 3 0) s

/-- The thermal settings and flags of stacks return to their reset values (R472). -/
def State.thermalReset (s : State) (p : Nat → Bool) : State :=
  let mine := fun d => if d < 8 then p d else if d < 16 then p (d - 8) else if d < 18 then false else p ((d - 18) / 2)
  { s with
    thm.settings := smFilter (fun k _ => !p k) s.thm.settings
    thm.cool := smFilter (fun k _ => !p k) s.thm.cool
    thm.dies := smMapD Die.reset (fun d x => if mine d then { x with hot := false, rate := false } else x) s.thm.dies }

/-- A compute or warm reset of the device (R472): settings, request and flags of every die return to their reset values. -/
def State.thermalRestart (s : State) : State :=
  let s1 := s.thermalClear
  { s1 with thm.dies := smMapD Die.reset (fun _ x => { x with hot := false, rate := false }) s1.thm.dies }

/-- The uppers and cache logic domains of selected stacks are reset (R157, R218, R245, R294, R313): what R258 scrubs, and
their counters. -/
def State.resetStacks (s : State) (p : Nat → Bool) : State :=
  let s1 := (((s.unpark p).scrubStacks p).clearStackMrs p).thermalReset p
  { s1 with
    tiles := smMapD Tile.reset (fun t x => if p (t / 52) then { x with counters := [], rngCounters := [], quarterCycles := 0 } else x) s1.tiles
    sole.slices := smFilter (fun n _ => !p (n / 64)) s1.sole.slices
    sole.toLong := smFilter (fun k _ => !p k) s1.sole.toLong
    sole.toShort := smFilter (fun k _ => !p k) s1.sole.toShort
    seq.engines := smFilter (fun k _ => !p k) s1.seq.engines
    qos.masters := smFilter (fun m _ => !(if m < 416 then p (m / 52) else if m < 424 then p (m - 416) else false)) s1.qos.masters
    pwr.drop := smFilter (fun n _ => !p (n / 292)) s1.pwr.drop
    pwr.gated := BitVec.ofNat 8 (((upTo 8).filter fun k => s1.pwr.gated.getLsbD k && !p k).foldl (fun m k => m + 2 ^ k) 0) }

/-- The end of a quiesce drain (R246, R412): what is undelivered is dropped and counted, with the transfers that only the wires
hold; the stack's upper and cache logic reset, and the link layer starts anew. -/
def State.drainEnd (s : State) (k wired : Nat) : State :=
  let w := s.weltStack k
  if !w.quiescing then s
  else
    let s1 := ((s.setWeltStack k { w with drops := satAdd64 w.drops (s.undelivered k + wired) }).resetStacks (· == k)).reopen k
    if (s1.jobOn k).isSome then s1 else s1.commitRetirements k 2

/-- QUIESCE_DRAIN_END (R246). -/
def execQuiesceDrainEnd (stack : Fin 8) (wired : BitVec 16) (s : State) : Out := .next (s.drainEnd stack.val wired.toNat)


/-- The key slots that a warm or cold reset empties (R490). -/
def State.emptySlots (s : State) : State := (upTo 16).foldl (fun t n => t.destroyKey n 3) s

/-- Entry to BOOT (R402 step 2, R425, R475, R476): the licence that the record holds is in force, MR0 to MR7 start from zero,
MR0 takes the ROM's digest, and the boot ROM writes the record of a fault that the always-on domain latched (R513). -/
def State.enterBoot (s : State) : State :=
  let lic := s.licenceRec
  let s1 := { s.enter .boot 0 with
    dev.mfwVersion := 0, dev.dfwVersion := 0, dev.step := .pair, dev.licence := (lic.counter.toNat, lic.variant, lic.bytes) }
  let s2 := ((upTo 8).foldl (fun t n => t.clearMr n) s1).extendMr 0 (sha256 s.part.rom)
  match s.dev.latched with
  | none => s2
  | some c =>
    { s2.blackBox 1 c.toNat 0xFF 0 ([3, 0] ++ List.replicate 14 0 ++ natToBytes 4 0xFFFFFFFF) with dev.latched := none }

/-- What a cold reset, or a loss of power, leaves (R412): MRAM, flash, the always-on counter, the input monitor and the
sensors' readings. -/
def State.clearAll (s : State) : State :=
  let s1 := (s.resetAwls.linkLoss).emptySlots
  let s2 := s1.jobs.foldl (fun t e => match e.2.ended with
    | some x => t.auditFw 0x10 e.1 [x.status, x.detail]
    | none => t) s1
  { s2 with
    regs := [], latches := [], rings := [], inflight := [], dcClock := true, jobs := [], tiles := [], sole := Sole.reset
    mgt := Mgt.reset
    hbm := Hbm.reset
    welt := ⟨[], []⟩
    seq := ⟨[], [], [], [], 0⟩
    qos := ⟨[], [], none, false, 0, [], [], none, [], 0⟩
    fabric := ⟨s2.fabric.ownId, [], [], [], [], 0⟩
    cvus := []
    pwr := { Pwr.reset with millivolts := s2.pwr.millivolts, watts := s2.pwr.watts, recent := s2.pwr.recent, inputOpen := s2.pwr.inputOpen }
    thm := { Thm.reset with
      sensors := s2.thm.sensors, tread := s2.mram.tread, rounds := s2.thm.rounds, hottest := s2.thm.hottest
      hottestDie := s2.thm.hottestDie, hottestSensor := s2.thm.hottestSensor }
    sec := { Sec.reset with entropyOk := s2.sec.entropyOk, lossEpisode := s2.sec.lossEpisode, lossFirst := s2.sec.lossFirst }
    dev := { Dev.reset with
      mode := s2.dev.mode, waitInput := s2.dev.waitInput, latched := s2.dev.latched, licence := s2.dev.licence } }

/-- A cold reset (R412, R414): the sequence runs again from step 2. -/
def State.coldReset (s : State) : State :=
  let s1 := if s.dev.mode = .ready then
      (s.endJobs (fun _ _ => true) fun v => JobEnd.plain 0x0A s.aon v.image.stackBits).powerClear
    else s
  s1.clearAll.enterBoot

/-- Registers that a warm reset keeps: those of the always-on domain (MGT, CXL, SEC, THM, PWR, DBG) and of the pass-through
domain (WELT_), and HBM_ (R245, R412). -/
def warmKeeps (k : Nat) : Bool :=
  if k < 2 ^ 20 then k / 0x1000 != 6 && k / 0x1000 != 1
  else k < 2 ^ 24 && (k / 2 ^ 20 - 1 == 1 || k / 2 ^ 20 - 1 == 2)

/-- A warm reset (R412, R415, R416): the welt quiesces, link and ports drop, everything outside the kept domains resets, the uppers
and cache logic once the welt has drained (R246), and the slip-on path begins; it begins with step 2 of the cold sequence when an active slot pointer has changed. -/
def State.warmReset (s : State) : State :=
  let s0 := (upTo 8).foldl (fun t k => t.quiesce k) s.resetAwls
  let s1 := if s0.host.up then s0.linkLoss else s0.hostDrop
  let s2 := s1.emptySlots.dropPorts.thermalRestart
  let via := s.dev.slotChanged
  let s3 := { s2.keepRegs warmKeeps with
    latches := [], rings := [], inflight := [], dcClock := true
    sole.refusals := 0
    qos := ⟨[], [], none, false, 0, [], [], none, s2.qos.inject, s2.qos.nextTag⟩
    hbm.selfRefresh := BitVec.allOnes 16
    cvus := smMapD Cvu.reset (fun _ u => { Cvu.reset with compares := u.compares, mismatches := u.mismatches, failed := u.failed }) s2.cvus
    tiles := smMapD Tile.reset (fun _ x => { x with rng := { x.rng with katDone := false, katPass := false } }) s2.tiles
    fabric.ownId := s2.mram.fabricId, fabric.nextSeq := [], fabric.expectSeq := [], fabric.outstanding := [], fabric.nextTag := 0
    pwr.drop := []
    dev.entered := false, dev.heldReset := none, dev.stackReset := 0, dev.found := [], dev.portsTrained := false, dev.attempts := []
    dev.licence := (s2.licenceRec.counter.toNat, s2.licenceRec.variant, s2.licenceRec.bytes)
    dev.slip := some ⟨true, via⟩ }
  if via then s3.enterBoot else { s3.enter .bringup 0 with dev.step := .slip }

/-- A compute reset of all stacks (R413): the jobs end and complete, the welt quiesces, ports and link stay. -/
def State.computeReset (s : State) : State :=
  let s1 := (upTo 8).foldl (fun t k => t.quiesce k) s.resetAwls
  let s2 := (s1.endJobs (fun _ _ => true) fun v => JobEnd.plain 0x0A s.aon v.image.stackBits).thermalRestart
  { s2.enter .bringup 0 with
    dev.step := .slip, dev.slip := some ⟨false, false⟩, dev.stackReset := 0, dev.heldReset := none, qos.masters := [], dev.found := []
    hbm.selfRefresh := BitVec.allOnes 16 }

/-- Carries a warm or compute reset out, or holds it back (R414); in LIMP no DFW digest was recorded at boot, so that a warm
reset becomes cold (R415 step 3), and no stack is powered for a compute reset. -/
def State.request414 (s : State) (k : ResetKind) : State :=
  match s.dev.mode with
  | .boot | .bringup => { s with dev.heldReset := some k }
  | .check | .ready | .held => match k with | .warm => s.warmReset | .compute => s.computeReset
  | .limp => match k with | .warm => s.coldReset | .compute => s
  | .off | .aon | .shutdown => s

/-- What a KIND asks for (R324): 0b01 warm, 0b10 compute, 0b11 cold; 0b00 does nothing. -/
def State.resetKind (s : State) (kind : Nat) : State :=
  match kind with
  | 1 => s.request414 .warm
  | 2 => s.request414 .compute
  | 3 => s.coldReset
  | _ => s

/-- A write of MGT_RESET (R324, R502, R504): logged, never refused; with the key, and outside SHUTDOWN, it asks for a reset. -/
def State.resetWrite (s : State) (v : Nat) : State :=
  if !s.writable 0x40 then s
  else
    s.logWrite 0 0x40 v true (fun _ => 0) fun t =>
      if v / 65536 % 65536 = 0xA55A && t.dev.mode != .shutdown then t.resetKind (v % 4) else t

/-- WARM_RESET (R412, R414). -/
def execWarmReset (key : BitVec 16) (s : State) : Out := .next (s.resetWrite (1 + 65536 * key.toNat))

/-- COMPUTE_RESET (R413, R414). -/
def execComputeReset (key : BitVec 16) (s : State) : Out := .next (s.resetWrite (2 + 65536 * key.toNat))

/-- COLD_RESET (R412, R414): at once in every state but SHUTDOWN. -/
def execColdReset (key : BitVec 16) (s : State) : Out := .next (s.resetWrite (3 + 65536 * key.toNat))

/-- HELD_RESET_RELEASE (R414): in CHECK, READY, HELD or LIMP. -/
def execHeldResetRelease (s : State) : Out :=
  match s.dev.heldReset with
  | none => .next s
  | some k =>
    if s.dev.mode matches .check | .ready | .held | .limp then .next ({ s with dev.heldReset := none }.request414 k) else .next s

/-! ## Device-fatal faults (R510, R513, R527) -/

/-- A DEVICE_FAULT end (R513). -/
def faultEnd (s : State) (cause : Nat) (unit : List Byte) (bb : Word) (v : Job) : JobEnd :=
  ⟨0x3D, 0, s.aon, 0xFFFFFFFF, 0xFFFFFFFF, 0, 0, 3, BitVec.ofNat 8 cause, v.image.stackBits, BitVec.ofNat 256 (bytesToNat unit), bb, false⟩

/-- Posts what waits on a ring, as far as CCI leaves room and R345 lets a LAUNCH go. -/
def State.postAll (r : Nat) : Nat → State → State
  | 0, s => s
  | n + 1, s =>
    match (s.ring r).waiting with
    | [] => s
    | c :: rest =>
      if ((s.ring r).cpi - (s.ring r).cci).toNat < (s.ring r).size && !s.launchWaits r c then State.postAll r n (s.postOne r c rest) else s

/-- The records and completions of R513, those of the jobs' other descriptors first (R345), while the link is up and the dispatch complex answers. -/
def State.postFaults (s : State) : State :=
  let s0 := s.jobs.foldl (fun t e => if e.2.ended.isSome then t.abortOps e.1 else t) s
  let s1 := s0.jobs.foldl (fun t e => match e.2.ended with
    | some x => if (t.findDesc e.2.ring e.2.idx).isSome then
        (t.writeRecord e.1 e.2 x).complete e.2.ring e.2.idx x.status.toNat x.detail.toNat (if x.status = 0 then e.2.exited else 0) else t
    | none => t) s0
  (upTo 64 ++ upTo 64).foldl (fun t r => State.postAll r (t.ring r).waiting.length t) s1

/-- A device-fatal fault: the record, the completions, and a cold reset; in SHUTDOWN the record alone. -/
def State.deviceFatal (s : State) (cause : Nat) (unit : List Byte) (answers : Bool) : State :=
  let h := s.mram.bbHead
  let s1 := if cause = 0x12 then { s with dev.latched := some 0x12 }
    else s.blackBox 1 cause 0xFF 0 ([3, 0] ++ List.replicate 6 0 ++ natToBytes 8 (bytesToNat unit) ++ natToBytes 4 0xFFFFFFFF)
  if s.dev.mode matches .off | .shutdown then s1
  else
    let bb : Word := if s1.mram.bbHead = h then 0xFFFFFFFF else BitVec.ofNat 32 h
    let s2 := s1.endJobs (fun _ _ => true) (faultEnd s cause unit bb)
    (if s2.host.up && answers then s2.postFaults else s2).coldReset

/-- SC_HEARTBEAT_TIMEOUT (R510): cause 0x04. -/
def execScHeartbeatTimeout (stack : Fin 8) (s : State) : Out :=
  if s.dev.stackUp.getLsbD stack.val then .next (s.stackFatal (BitVec.ofNat 8 (2 ^ stack.val)) 4 (natToBytes 8 stack.val)) else .next s

/-- The dispatch complex runs firmware. -/
def State.dfwRuns (s : State) : Bool := s.dev.mode matches .bringup | .check | .ready | .held

/-- DC_HEARTBEAT_TIMEOUT (R510, R513): cause 0x13; nothing is posted. -/
def execDcHeartbeatTimeout (s : State) : Out := if s.dfwRuns then .next (s.deviceFatal 0x13 [] false) else .next s

/-- MC_LOCKSTEP_MISMATCH (R510, R513): cause 0x12, latched for the boot ROM. -/
def execMcLockstepMismatch (s : State) : Out :=
  if s.dev.mode matches .off | .aon then .next s else .next (s.deviceFatal 0x12 [] true)

/-- IOD_UNCORRECTABLE (R510): cause 0x14; the unit is the die code. -/
def execIodUncorrectable (die : Fin 2) (s : State) : Out :=
  if s.dev.mode matches .off | .aon then .next s else .next (s.deviceFatal 0x14 (natToBytes 8 (16 + die.val)) true)

/-! ## SHUTDOWN (R355, R470) -/

/-- Power is removed from the stacks and HBM: what they held is lost, and their regions and tiles are off. -/
def State.stacksOff (s : State) : State :=
  let s1 := s.scrubStacks fun _ => true
  { s1 with
    tiles := smMapD Tile.reset (fun _ x => { x with power := .off }) s1.tiles
    pwr.regions := smMapD Region.reset (fun _ x => { x with state := if x.state = .dark then .dark else .off }) s1.pwr.regions
    pwr.gated := 0
    dev.stackUp := 0, dev.stackSettled := 0, dev.hbmTrained := false, dev.weltTrained := 0, dev.stackReset := 0 }

/-- Entry to SHUTDOWN with power removed and ports down; then the jobs complete. -/
def State.powerDown (s : State) (cause : Nat) : State :=
  let s1 := (s.stacksOff.dropPorts.enter .shutdown cause).finishJobs
  { s1 with dev.step := .idle, dev.slip := none, dev.heldReset := none, dev.shuttingDown := false }

end Sys2Proof.Machine
end

