-- ==== Sys2Proof/Machine/Signed.lean ====
section
/-! DEFINITION. The objects that carry a signature block (R477 to R479): firmware containers (R417 to R419), licences (R423)
and policies (R495). -/

namespace Sys2Proof.Machine

/-- `n` little-endian bytes of a text at an offset. -/
def le (bs : List Byte) (off n : Nat) : Nat := bytesToNat ((bs.drop off).take n)
/-- Every byte of a range is zero. -/
def zeros (bs : List Byte) (off n : Nat) : Bool := ((bs.drop off).take n).all (· == 0)
/-- A section of a text. -/
def cut (bs : List Byte) (off n : Nat) : List Byte := (bs.drop off).take n

/-! ## Signature blocks (R478) -/

/-- KEY_ID and signature of a well-formed block. -/
def sigBlock (b : List Byte) : Option (Nat × List Byte) :=
  if decide (16 ≤ b.length) && decide (le b 0 4 = 0x53494731) && zeros b 5 3 && zeros b 0xC 4 && decide (le b 8 4 = b.length - 16) then
    some (le b 4 1, b.drop 16)
  else none

/-- A block under an Aveth key (R477). -/
def avethVerifies (key : List Byte) (id : Nat) (msg b : List Byte) : Bool :=
  match sigBlock b with
  | none => false
  | some (k, sig) => decide (k = id) && decide (sig.length = 3604) && avethParams key && hssVerify key msg sig

/-! ## Firmware (R417 to R419) -/

/-- What a verified container says. -/
structure Firmware where
  dfw : Bool
  version : Word
  steppings : List (Nat × Nat × Nat)
  partners : List Word
  bytes : List Byte
deriving DecidableEq, Repr

/-- No two sections overlap. -/
def disjoint2 (a b : Nat × Nat) : Bool := decide (a.1 + a.2 ≤ b.1) || decide (b.1 + b.2 ≤ a.1) || a.2 == 0 || b.2 == 0

/-- The form of a container (R417, R418). -/
def firmwareForm (b : List Byte) : Bool :=
  let body := (le b 0x10 4, le b 0x14 4)
  let man := (le b 0x18 4, le b 0x1C 4)
  let sig := (le b 0x20 4, le b 0x24 4)
  let m := cut b man.1 man.2
  decide (64 ≤ b.length) && decide (le b 0 4 = 0x534C4631) && decide (le b 4 2 = 1) && [1, 2].contains (le b 6 1) && zeros b 7 1 &&
  decide (le b 8 4 = b.length) && decide (b.length % 64 = 0) && decide (b.length ≤ 2 ^ 26) && zeros b 0x28 24 &&
  [body, man, sig].all (fun x => decide (64 ≤ x.1) && decide (x.1 + x.2 ≤ b.length)) &&
  disjoint2 body man && disjoint2 body sig && disjoint2 man sig && decide (body.1 + body.2 ≤ sig.1) && decide (man.1 + man.2 ≤ sig.1) &&
  decide (1 ≤ le m 0 2) && decide (le m 0 2 ≤ 64) && decide (1 ≤ le m 2 2) && decide (le m 2 2 ≤ 256) && zeros m 4 4 &&
  decide (man.2 = 8 + 8 * le m 0 2 + 4 * le m 2 2) && (upTo (le m 0 2)).all (fun i => zeros m (14 + 8 * i) 2)

/-- A container that verifies: its form, and its signature under the Aveth firmware key. -/
def firmwareOf (key b : List Byte) : Option Firmware :=
  let m := cut b (le b 0x18 4) (le b 0x1C 4)
  let n := le m 0 2
  let sig := cut b (le b 0x20 4) (le b 0x24 4)
  if firmwareForm b && avethVerifies key 1 (b.take (le b 0x20 4)) sig then
    some ⟨decide (le b 6 1 = 2), BitVec.ofNat 32 (le b 0xC 4),
      (upTo n).map (fun i => (le m (8 + 8 * i) 2, le m (10 + 8 * i) 2, le m (12 + 8 * i) 2)),
      (upTo (le m 2 2)).map (fun i => BitVec.ofNat 32 (le m (8 + 8 * n + 4 * i) 4)), b⟩
  else none

/-- A slot's container of its kind; an empty slot, or one that fails, gives none. -/
def State.slotImage (s : State) (dfw other : Bool) : Option (List Byte) :=
  let b := if dfw then s.slots.dfw != other else s.slots.mfw != other
  match dfw, b with
  | false, false => s.flash.mfwA
  | false, true => s.flash.mfwB
  | true, false => s.flash.dfwA
  | true, true => s.flash.dfwB

def State.slotFirmware (s : State) (dfw other : Bool) : Option Firmware :=
  match s.slotImage dfw other with
  | none => none
  | some b => (firmwareOf s.part.firmwareKey b).filter (fun f => f.dfw == dfw)

/-- An image's own conditions: its floor and its steppings. -/
def State.firmwareFits (s : State) (f : Firmware) : Bool :=
  decide ((if f.dfw then s.floors.dfw else s.floors.mfw).toNat ≤ f.version.toNat) &&
  f.steppings.contains (s.part.upperStepping.toNat, s.part.soleStepping.toNat, s.part.iodStepping.toNat)

/-- An admissible pair (R419): `m` and `d` say that the slot other than the active one is meant. -/
def State.pairOf (s : State) (m d : Bool) : Option (Firmware × Firmware) :=
  match s.slotFirmware false m, s.slotFirmware true d with
  | some x, some y =>
    if s.firmwareFits x && s.firmwareFits y && x.partners.contains y.version && y.partners.contains x.version then some (x, y) else none
  | _, _ => none

/-- The four pairs in the order in which they are tried. -/
def pairOrder : List (Bool × Bool) := [(false, false), (false, true), (true, false), (true, true)]

/-- A pair failed only because an image present in its slot failed verification. -/
def State.pairUnverified (s : State) (m d : Bool) : Bool :=
  let fits := fun (f : Option Firmware) => match f with | some x => s.firmwareFits x | none => true
  let x := s.slotFirmware false m
  let y := s.slotFirmware true d
  (s.slotImage false m).isSome && (s.slotImage true d).isSome && (x.isNone || y.isNone) && fits x && fits y

/-! ## Licences (R423) -/

/-- The form of a licence: the first check of R424. -/
def licenceForm (b : List Byte) : Bool :=
  decide (64 ≤ b.length) && decide (b.length = 64 + le b 0x20 4) && decide (le b 0 4 = 0x4C494331) && decide (le b 4 2 = 1) && zeros b 6 2 &&
  decide (le b 0x14 1 < 3) && zeros b 0x15 11 && zeros b 0x24 28

def licenceVerifies (key b : List Byte) : Bool := avethVerifies key 2 (b.take 64) (b.drop 64)

/-! ## Policies (R495, R497) -/

/-- The bytes of a policy in force; the factory policy's are those of its layout. -/
def Policy.text (p : Policy) : List Byte :=
  if p.bytes.isEmpty then
    natToBytes 4 0x504F4C31 ++ natToBytes 2 1 ++ [0, 0] ++ natToBytes 4 p.counter.toNat ++ natToBytes 4 p.flags.toNat ++ List.replicate 64 0
  else p.bytes

def Policy.hasKey (p : Policy) : Bool := p.policyKey.any (· != 0)

/-- Keys, peers and the length before the block of a policy's layout. -/
def policyKeys (b : List Byte) : Nat := le b 6 1
def policyPeers (b : List Byte) : Nat := le b 7 1
def policyBody (b : List Byte) : Nat := 0x50 + 64 * policyKeys b + 8 * policyPeers b
/-- The key fields: the policy key and the image keys. -/
def policyKeyFields (b : List Byte) : List (List Byte) :=
  cut b 0x10 64 :: (upTo (policyKeys b)).map fun n => cut b (0x50 + 64 * n) 64

/-- The first check of R497; `signed` says that the policy in force has a policy key, so that a block follows. -/
def policyForm (b : List Byte) (signed : Bool) : Bool :=
  let n := policyBody b
  decide (0x50 ≤ b.length) && decide (le b 0 4 = 0x504F4C31) && decide (le b 4 2 = 1) && decide (policyKeys b ≤ 8) &&
  decide (policyPeers b ≤ 64) && decide (le b 0xC 4 < 256) && (policyKeyFields b).all (fun k => zeros k 60 4) &&
  (if signed then decide (n + 16 ≤ b.length) && decide (b.length = n + 16 + le b (n + 8) 4) else decide (b.length = n))

/-- The second check: every key that is present has a parameter set of R477. -/
def policyKeysOk (b : List Byte) : Bool :=
  match policyKeyFields b with
  | [] => false
  | p :: ks => (p.all (· == 0) || operatorParams (p.take 60)) && ks.all (fun k => operatorParams (k.take 60))

/-- A policy block verifies under the policy key in force. -/
def policyVerifies (p : Policy) (b : List Byte) : Bool :=
  match sigBlock (b.drop (policyBody b)) with
  | none => false
  | some (k, sig) => decide (k = 0x20) && hssVerify (p.policyKey.take 60) (b.take (policyBody b)) sig

def policyOf (b : List Byte) : Policy :=
  ⟨BitVec.ofNat 32 (le b 8 4), BitVec.ofNat 32 (le b 0xC 4), cut b 0x10 64,
    (upTo (policyKeys b)).map (fun n => cut b (0x50 + 64 * n) 64),
    (upTo (policyPeers b)).map (fun n => BitVec.ofNat 64 (le b (0x50 + 64 * policyKeys b + 8 * n) 8)), b⟩

end Sys2Proof.Machine
end

