-- ==== Sys2Proof/Machine/BringUp.lean ====
section
/-! DEFINITION. The cold sequence (R402 to R406) from 12 V good to READY, the choice of a firmware pair (R419), the slip-on
path (R415), and the comparison with the last (R409 to R411). -/

namespace Sys2Proof.Machine

/-! ## Regions of an upper (R433) -/

/-- First phase and number of phases of a region. -/
def regionPhases (r : Nat) : Nat × Nat := if r < 52 then (5 * r, 5) else (260 + 8 * (r - 52), 8)
/-- Failed phases of a region of a stack, by their number in the region. -/
def State.failedPhases (s : State) (k r : Nat) : List Nat :=
  let (b, n) := regionPhases r
  (upTo n).filter fun i => s.defects.phases.contains (292 * k + b + i)
def State.failedModule (s : State) (k : Nat) : List Nat := (upTo 14).filter fun i => s.defects.modulePhases.contains (14 * k + i)

/-- A stack that cannot power (R432, R443). -/
def State.noPower (s : State) (k : Nat) : Bool := 2 ≤ (s.failedModule k).length || s.dev.cannotPower.getLsbD k

/-- A region as a ramp from off leaves it: dark if two phases of a tile region have failed. -/
def State.freshRegion (s : State) (k r : Nat) : Region :=
  let f := s.failedPhases k r
  { Region.reset with
    state := if r < 52 && 2 ≤ f.length then .dark else .on
    failed := BitVec.ofNat 8 (f.foldl (fun m i => m + 2 ^ i) 0)
    trips := (s.region k r).trips }

/-- The regions of a stack settle, and the sensors of its upper are readable. -/
def State.powerStack (s : State) (k : Nat) : State :=
  let s1 := (upTo 56).foldl (fun t r =>
    let g := t.freshRegion k r
    let t1 := t.setRegion k r g
    if r < 52 then t1.updTile (52 * k + r) fun x => { x with power := g.state, quarterCycles := 0 } else t1) s
  (upTo 96).foldl (fun t n => t.freshSensor k n) s1

/-- Broken sensors recorded for a die (R464). -/
def State.brokenOn (s : State) (d : Nat) : List Nat := s.defects.sensors.filter fun n => n / 96 == d

/-! ## Step 1 (R402, R405, R522) -/

/-- The bytes of a black-box record whose check passes in one copy at least, from copy A first. -/
def bbGood (v : BitVec 512) : Bool :=
  let b := natToBytes 64 v.toNat
  decide (le b 60 4 = crc32c (b.take 60))
def State.bbRecord (s : State) (i : Nat) : Option (List Byte) :=
  match (smFind s.mram.bbA i).filter bbGood with
  | some v => some (natToBytes 64 v.toNat)
  | none => ((smFind s.mram.bbB i).filter bbGood).map fun v => natToBytes 64 v.toNat

/-- Position `i` of the black box: a record that fails in one copy is rewritten from the other (R522). -/
def State.bbRepair (s : State) (i : Nat) : State :=
  match (smFind s.mram.bbA i).filter bbGood, (smFind s.mram.bbB i).filter bbGood with
  | some v, none => { s with mram.bbB := smPut s.mram.bbB i v, mram.bbRepaired := BitVec.ofNat 32 (satAdd32 s.mram.bbRepaired.toNat 1) }
  | none, some v => { s with mram.bbA := smPut s.mram.bbA i v, mram.bbRepaired := BitVec.ofNat 32 (satAdd32 s.mram.bbRepaired.toNat 1) }
  | _, _ => s

/-- The black box at power-up (R522): the position at the head, then the records below it. -/
def State.bbStart (s : State) : State :=
  let h := s.mram.bbHead
  let s1 := match (smFind s.mram.bbB h).filter fun v => bbGood v && decide (v.toNat % 2 ^ 32 = h) with
    | some v => { s with mram.bbA := smPut s.mram.bbA h v, mram.bbHead := h + 1 }
    | none => { s with mram.bbA := smErase s.mram.bbA h, mram.bbB := smErase s.mram.bbB h }
  (upTo h).foldl State.bbRepair s1

/-- What one record names, for a rebuilt defect record (R405). -/
def Defects.learn (d : Defects) (b : List Byte) : Defects :=
  let ty := le b 4 1
  let code := le b 5 1
  let k := le b 6 1
  let p := b.drop 0x18
  let unit := le p 0 4
  let add := fun (d : Defects) (u : UnitId) (r : Nat) =>
    if d.units.any (fun e => e.1 == u) then d else { d with units := d.units ++ [(u, BitVec.ofNat 8 r)] }
  let once := fun (l : List Nat) (n : Nat) => if l.contains n then l else l ++ [n]
  if ty = 5 then
    let r := le p 4 1
    match code with
    | 0 => add d ⟨.tile, unit⟩ r
    | 1 => add d ⟨.slice, unit⟩ r
    | 5 => { d with sensors := once d.sensors (96 * le p 8 1 + le p 9 1) }
    | 6 => if unit < 18 then add d ⟨.port, unit⟩ r else add d ⟨.cvu, unit⟩ r
    | 7 => add d ⟨.lacing, unit⟩ r
    | 8 => add d ⟨.hbmChannel, unit⟩ r
    | _ => d
  else if ty = 6 then
    ((upTo 64).filter fun i => (le p 12 8).testBit i).foldl (fun e i => add e ⟨.slice, unit / 64 * 64 + i⟩ 5) (add d ⟨.welt, unit⟩ 4)
  else if ty = 7 then
    let region := le p 0 1
    let dark := decide (le p 3 1 = 1) && decide (region < 52)
    match code with
    | 0 => { d with modulePhases := once d.modulePhases (14 * k + region) }
    | 1 =>
      let d1 := { d with phases := once d.phases (292 * k + (regionPhases region).1 + le p 1 1) }
      if dark then add d1 ⟨.tile, 52 * k + region⟩ 6 else d1
    | _ => if dark then add d ⟨.tile, 52 * k + region⟩ 6 else d
  else d

/-- A rebuilt defect record, with HBM rows and sole words: INCOMPLETE if the black box has dropped or lost any record. -/
def State.rebuildDefects (s : State) : State :=
  let recs := (upTo s.mram.bbHead).filterMap s.bbRecord
  let d := recs.foldl Defects.learn Defects.empty
  let gaps := s.mram.bbDropped != 0 || decide (recs.length < s.mram.bbHead)
  let located := fun (code : Nat) (b : List Byte) => decide (le b 4 1 = 5) && decide (le b 5 1 = code)
  let rows := (recs.filter (located 3)).map fun b => BitVec.ofNat 64 (le b 0x20 8)
  let words := (recs.filter (located 4)).map fun b => (BitVec.ofNat 64 (le b 0x20 8), BitVec.ofNat 64 (le b 6 1))
  let s1 := rows.foldl (fun (t : State) loc =>
    let row := t.plan.hbmRow loc.toNat
    if t.mram.hbmRows.any (fun r => r.row == row) then t else { t with mram.hbmRows := t.mram.hbmRows ++ [⟨loc, row, false⟩] }) s
  let s2 := words.foldl (fun (t : State) w =>
    if t.mram.soleWords.any (fun r => r.location == w.1 && r.row == w.2) then t
    else { t with mram.soleWords := t.mram.soleWords ++ [⟨w.1, w.2, false⟩] }) s1
  s2.setDefects { d with incomplete := gaps }

/-- Steering maps rebuilt from the black box: every position named in a record is steered out (R405). -/
def State.rebuildSteer (s : State) : State :=
  let recs := ((upTo s.mram.bbHead).filterMap s.bbRecord).filter fun b => decide (le b 4 1 = 5) && decide (le b 5 1 = 2)
  recs.foldl (fun t b =>
    let key := 2 * le b 0x18 4 + le b 0x23 1
    { t with mram.steer := smSet [] t.mram.steer key (smPut (smGet [] t.mram.steer key) (le b 0x22 1) (le b 0x20 2)) }) { s with mram.steer := [] }

/-- Both copies of a record cannot be read. -/
def TwoCopy.lost {α : Type} (t : TwoCopy α) : Bool := t.a.isNone && t.b.isNone

/-- A fatal-fault record of cause 0x15 (R405, R510). -/
def State.lostRecord (s : State) : State := s.blackBox 1 0x15 0xFF 0 ([3, 0] ++ List.replicate 14 0 ++ natToBytes 4 0xFFFFFFFF)

/-- The records of R405 as step 1 reads them: copies agree again, and a lost record takes its factory value. -/
def State.readRecords (s : State) : State :=
  let m := s.mram
  let lost := [m.plan.lost, m.last.lost, m.licence.lost, m.slots.lost, m.floors.lost, m.policy.lost, m.sigIndex.lost].filter id
  let s1 := if m.plan.lost then s.rebuildSteer else s
  let s2 := { s1 with
    mram.plan := TwoCopy.both s.storedPlan, mram.last := TwoCopy.both s.lastTable, mram.licence := TwoCopy.both s.licenceRec
    mram.slots := TwoCopy.both s.slots, mram.floors := TwoCopy.both s.floors, mram.policy := TwoCopy.both s.policy
    mram.sigIndex := TwoCopy.both s.sigIndex }
  let s3 := lost.foldl (fun t _ => t.lostRecord) s2
  if m.defects.lost then s3.rebuildDefects.lostRecord else s3.setDefects s.defects

/-- TWELVE_V_GOOD (R402 step 1): the always-on domain starts and reads its records. -/
def execTwelveVGood (s : State) : Out :=
  if !(s.dev.mode matches .off) then .next s
  else
    let s1 := ({ s.clearAll with thm.rounds := 0, thm.sensors := [], thm.dies := [] }.enter .aon 0).bbStart.readRecords
    .next { s1 with thm.tread := s1.mram.tread, sec.entropyOk := true }

/-- A thermal-shutdown record (R470, R520) and its count: trigger 0 absolute, 1 rise, 2 broken. -/
def State.thermalRecord (s : State) (trigger die sensor : Nat) (reading : Int) : State :=
  let stack := if die < 8 then die else if die < 16 then die - 8 else if die < 18 then 0xFF else (die - 18) / 2
  let s1 := s.blackBox 2 trigger stack 0 (natToBytes 1 die ++ natToBytes 1 sensor ++ natToBytes 2 (reading % 65536).toNat ++ natToBytes 4 0 ++
    (upTo 8).map fun k => BitVec.ofNat 8 (smGet 27 s.thm.settings k))
  { s1 with mram.shutdowns := BitVec.ofNat 32 (satAdd32 s1.mram.shutdowns.toNat 1) }

/-- The end of step 1: BOOT, or SHUTDOWN on a part whose I/O die has three broken sensors recorded (R465). -/
def State.endAon (s : State) : State :=
  match [16, 17].find? fun d => 3 ≤ (s.brokenOn d).length with
  | some d => (s.thermalRecord 2 d (((s.brokenOn d).getD 2 0) % 96) 404).powerDown 6
  | none => s.enterBoot

/-! ## Step 2 (R419, R475, R476) -/

/-- A licence in force as MR3 measures it. -/
def licenceDigest (b : List Byte) : List Byte := if b.isEmpty then List.replicate 32 0 else sha256 b

/-- The pair that runs: pointers, versions, measurements, the licence in force; then step 3, or the slip-on path. -/
def State.runPair (s : State) (m d : Bool) (x y : Firmware) : State :=
  let s1 := if m || d then
      { s.auditFw 5 0 (natToBytes 4 x.version.toNat ++ natToBytes 4 y.version.toNat) with
        mram.slots := TwoCopy.both ⟨s.slots.mfw != m, s.slots.dfw != d⟩ }
    else s
  let lic := s1.licenceRec
  let s2 := { s1 with
    dev.mfwVersion := x.version, dev.dfwVersion := y.version, dev.dfwDigest := digestBits (sha256 y.bytes), dev.slotChanged := false
    dev.licence := (lic.counter.toNat, lic.variant, lic.bytes) }
  let s3 := (((s2.extendMr 1 (sha256 x.bytes)).extendMr 2 (sha256 y.bytes)).extendMr 3 (licenceDigest lic.bytes)).extendMr 4
    (sha256 s2.policy.text)
  { s3.enter .bringup 0 with dev.step := if s.dev.slip.isSome then .slip else .power }

/-- Step 2: the first admissible pair runs, or the device enters LIMP, a state in which no stack is powered (R467): what a warm
reset kept powered goes off. -/
def State.choosePair (s : State) : State :=
  match pairOrder.find? fun o => (s.pairOf o.1 o.2).isSome with
  | some (m, d) =>
    match s.pairOf m d with
    | some (x, y) => s.runPair m d x y
    | none => s
  | none =>
    let t := if s.dev.slip.isSome then s.stacksOff.finishJobs else s
    { t.enter .limp (if pairOrder.any fun o => s.pairUnverified o.1 o.2 then 5 else 4) with dev.step := .idle, dev.slip := none }

/-- FIRMWARE_PAIR_CHOICE (R402 step 2, R419); in AON it first ends step 1. -/
def execFirmwarePairChoice (s : State) : Out :=
  let s1 := if s.dev.mode matches .aon then s.endAon else s
  if (s1.dev.mode matches .boot) && (s1.dev.step matches .pair) then .next s1.choosePair else .next s1

/-! ## Findings (R404, R427, R520) -/

/-- The unit-kind code of a FIELD_DEFECT record, and the stack it names. -/
def kindCode : UnitKind → Option Nat
  | .tile => some 0
  | .slice => some 1
  | .port | .cvu => some 6
  | .lacing => some 7
  | .hbmChannel => some 8
  | .stack | .welt | .hbmStack | .hbmController => none
def unitStack (u : UnitId) : Nat :=
  match u.kind with
  | .tile => u.num / 52
  | .slice | .hbmChannel | .welt => u.num / 64
  | .stack => u.num
  | .hbmStack | .hbmController => u.num / 2
  | .lacing | .port | .cvu => 0xFF

/-- A unit found bad: unless the fuse map or the record marks it already, it enters the record, and a unit that a test found
enters the black box. -/
def State.findBad (s : State) (u : UnitId) (reason : Nat) : State :=
  if s.part.fuseBad.contains u || (s.defectOf u.kind u.num).isSome then s
  else
    let s1 := { s.addDefect u reason with dev.found := s.dev.found ++ [(u, BitVec.ofNat 8 reason)] }
    match kindCode u.kind with
    | some c => if reason = 6 then s1 else s1.fieldDefect c u.num reason [] (unitStack u)
    | none => s1

/-! ## Steps 3 to 5 -/

/-- STACK_POWER_UP (R402 step 3, R403, R429, R465): the next stack in ascending order settles, or is found unable to power. -/
def execStackPowerUp (stack : Fin 8) (settled : Bool) (s : State) : Out :=
  let k := stack.val
  if !(s.dev.mode matches .bringup) || !(s.dev.step matches .power) || s.dev.waitInput ||
      s.dev.stackSettled.toNat != 2 ^ k - 1 then .next s
  else
    let hot := 3 ≤ (s.brokenOn k).length || 3 ≤ (s.brokenOn (8 + k)).length
    let s1 := { s with dev.stackSettled := s.dev.stackSettled ||| BitVec.ofNat 8 (2 ^ k) }
    let s2 :=
      if hot then (upTo 52).foldl (fun t n => t.findBad ⟨.tile, 52 * k + n⟩ 2) s1
      else if !settled || s.noPower k then (upTo 52).foldl (fun t n => t.findBad ⟨.tile, 52 * k + n⟩ 6) s1
      else { s1.powerStack k with dev.stackUp := s1.dev.stackUp ||| BitVec.ofNat 8 (2 ^ k) }
    .next (if k = 7 then { s2 with dev.step := .tests } else s2)

/-- A unit that the start-up tests cover, on a stack that is powered; an HBM channel is tested with its controller. -/
def State.tested (s : State) (u : UnitId) : Bool :=
  match u.kind with
  | .tile => u.num < 416 && s.dev.stackUp.getLsbD (u.num / 52)
  | .slice => u.num < 512 && s.dev.stackUp.getLsbD (u.num / 64)
  | .hbmController => u.num < 16 && s.dev.stackUp.getLsbD (u.num / 2)
  | .lacing => u.num < 14
  | .port => u.num < 18
  | .cvu => 36 ≤ u.num && u.num < 44
  | .hbmChannel => u.num < 512 && s.dev.stackUp.getLsbD (u.num / 64)
  | .stack | .welt | .hbmStack => false

/-- The check-value units that are known bad refuse writes (R399). -/
def State.failCvus (s : State) : State :=
  ((upTo 44).filter fun u => 36 ≤ u && (s.isFuseBad .cvu u || (s.defectOf .cvu u).isSome)).foldl
    (fun t u => t.setCvu u { t.cvu u with failed := true }) s

/-- The known-answer test of a tile's random-bit unit (R162). -/
def State.rngTest (s : State) (t : Nat) (ok : Bool) : State :=
  let (n, s1) := s.draw
  s1.updTile t fun x => { x with
    rng := { x.rng with katDone := true, katPass := rngKnownAnswer && (ok || !Config.generatorBad n t) }
    rngCounters := x.rngCounters.add 0x110 1 }

/-- START_UP_TESTS (R402 step 4, R403, R404, R162, R399): every powered stack is tested; a unit found bad enters the record. -/
def execStartUpTests (found : List UnitId) (s : State) : Out :=
  if !(s.dev.mode matches .bringup) || !(s.dev.step matches .tests) then .next s
  else
    let bad := found.filter s.tested
    let tiles := (upTo 416).filter fun t => s.dev.stackUp.getLsbD (t / 52)
    let s1 := tiles.foldl (fun t n => t.rngTest n (!bad.contains ⟨.tile, n⟩)) s
    let s2 := (bad.foldl (fun t u => t.findBad u 2) s1).failCvus
    .next { s2 with dev.step := .training }

/-- The recorded sole words of selected stacks that find a free spare in their sub-array, in the order of their records (R269). -/
def spareWords (on : Nat → Bool) (ws : List RepairRecord) : List RepairRecord :=
  ws.foldl (fun (done : List RepairRecord) w =>
    let place := fun (r : RepairRecord) => (r.row, r.location.toNat % 64, Config.subArray r.location.toNat)
    let used := (done.filter fun r => r.applied && decide (place r = place w)).length +
      (Config.fuseSpares w.row.toNat (w.location.toNat % 64) (Config.subArray w.location.toNat)).val
    done ++ [if on w.row.toNat then { w with applied := decide (used < 4) } else w]) []

/-- The channel that a recorded row lies in. -/
def RepairRecord.channel (r : RepairRecord) : Nat := r.row.toNat / 2 ^ 32

/-- The repair records are applied (R269, R270): on the cold path every recorded row, on the slip-on path the new ones, but
for the rows that a stack refuses, by their LOCATIONs; and the recorded sole words. A row applied on the slip-on path is
written. What no repair could save is found bad. -/
def State.applyRepairs (s : State) (cold : Bool) (on : Nat → Bool) (refused : List (BitVec 34)) : State × List UnitId :=
  let due := fun (r : RepairRecord) => on (r.channel / 64) && (cold || !r.applied && (s.defectOf .hbmChannel r.channel).isNone)
  let no := fun (r : RepairRecord) => refused.any fun l => l.toNat == r.location.toNat
  let fresh := (s.mram.hbmRows.filter fun r => due r && !no r).map RepairRecord.row
  let ws := spareWords on s.mram.soleWords
  let s1 := { s with
    mram.hbmRows := s.mram.hbmRows.map fun r => if due r then { r with applied := !no r } else r
    mram.soleWords := ws
    hbm.flips := smFilter (fun l _ => !fresh.contains (s.plan.hbmRow l)) s.hbm.flips }
  let lost := ((s.mram.hbmRows.filter fun r => due r && no r).map fun r => (⟨.hbmChannel, r.channel⟩ : UnitId)) ++
    (ws.filter fun w => on w.row.toNat && !w.applied).map fun w => ⟨.slice, 64 * w.row.toNat + w.location.toNat % 64⟩
  (lost.foldl (fun t u => t.findBad u 2) s1, lost)

/-- HBM_TRAINING (R402 step 5, R259, R269, R270): HBM trains, repairs are applied, every unit is written with zeros, and the
lacing trains. What did not train waits for step 6 without a record: 0x07 an HBM channel, 0x08 a link that is down, 0x88 a
narrow link. -/
def execHbmTraining (failed : List (Fin 512)) (refused : List (BitVec 34)) (links : List LinkResult) (s : State) : Out :=
  if !(s.dev.mode matches .bringup) || !(s.dev.step matches .training) || s.dev.hbmTrained then .next s
  else
    let s1 := (s.applyRepairs true (fun _ => true) refused).1
    let chans := failed.map fun c => ((⟨.hbmChannel, c.val⟩ : UnitId), (7 : Byte))
    let lacing := links.filterMap fun l => match l.found with
      | .full => none
      | .narrow => some ((⟨.lacing, l.link.val⟩ : UnitId), (0x88 : Byte))
      | .failed => some ((⟨.lacing, l.link.val⟩ : UnitId), (8 : Byte))
    .next { s1 with
      dev.found := s1.dev.found ++ chans ++ lacing, dev.hbmTrained := true, hbm.flips := [], hbm.mem := [], hbm.residue := [] }.trainingDone

/-! ## Step 6 (R404, R406) -/

/-- Why a unit is out, from the fuse map, the record, and this bring-up's findings (R404). -/
def State.unitReason (s : State) (k : UnitKind) (n : Nat) : Option Byte :=
  if s.isFuseBad k n then some 1
  else
    match s.defectOf k n with
    | some r => some r
    | none => (s.dev.found.find? fun e => e.1 == ⟨k, n⟩).map Prod.snd

def outOf (r : Byte) (d : BitVec 16) : UnitEntry := ⟨2, r, d⟩

def State.tileEntry (s : State) (n : Nat) : UnitEntry :=
  match s.unitReason .tile n with
  | some r => outOf r 0
  | none => if (s.failedPhases (n / 52) (n % 52)).length = 1 then ⟨1, 6, 21⟩ else UnitEntry.working

/-- A channel that has retired, by the record or the fuse map. -/
def State.weltRetired (s : State) (c : Nat) : Bool := s.isFuseBad .welt c || (s.defectOf .welt c).isSome

def State.sliceEntry (s : State) (n : Nat) : UnitEntry :=
  match s.unitReason .slice n with
  | some r => outOf r 0
  | none => if s.weltRetired n && !s.weltTrains (n ^^^ 1) then outOf 5 0 else UnitEntry.working

def State.weltEntry (s : State) (c : Nat) : UnitEntry :=
  let d := s.weltDetail c
  match s.unitReason .welt c with
  | some r => outOf r d
  | none => if s.sliceDead c then outOf 0xA d else if s.weltRetired (c ^^^ 1) then ⟨1, 5, d⟩ else ⟨0, 0, d⟩

def State.hbmEntry (s : State) (h : Nat) : UnitEntry :=
  let d := BitVec.ofNat 16 (s.mram.hbmRows.filter fun r => r.applied && r.location.toNat / 2 ^ 30 == h).length
  match s.unitReason .hbmController h, s.unitReason .hbmStack h with
  | some r, _ => outOf r d
  | none, some r => outOf r d
  | none, none => ⟨0, 0, d⟩

def State.channelEntry (s : State) (c : Nat) : UnitEntry :=
  match s.unitReason .hbmChannel c with
  | some r => outOf r 0
  | none => if (s.hbmEntry (c / 32)).isDisabled then outOf 0xA 0 else UnitEntry.working

def State.lacingEntry (s : State) (l : Nat) : UnitEntry :=
  match s.unitReason .lacing l with
  | none => UnitEntry.working
  | some 8 => ⟨4, 8, 0⟩
  | some 0x88 => ⟨1, 8, 0⟩
  | some r => outOf r 0

/-- A port's entry before it trains: bad, unlicensed, or what it last was (R35, R362). -/
def State.portEntry (s : State) (p : Nat) : UnitEntry :=
  match s.unitReason .port p with
  | some r => outOf r 0
  | none =>
    if !s.portLicensed p then ⟨3, 9, 0⟩
    else
      match s.storedPlan with
      | none => UnitEntry.portDown
      | some o => if [0, 1, 4].contains (o.get .port p).state.toNat then o.get .port p else UnitEntry.portDown

/-- The entries of a section that differ from WORKING. -/
def entriesOf (n : Nat) (f : Nat → UnitEntry) : SMap UnitEntry :=
  (upTo n).filterMap fun i => if f i = UnitEntry.working then none else some (i, f i)

/-- The REASON of each stack that a step took below a minimum: of the highest-numbered unit it removed of the kind whose
minimum is missed first, tiles before slices (R34). -/
def Plan.stackReasons (new old : Plan) : Plan :=
  (upTo 8).foldl (fun p k =>
    if !new.below k || old.below k then p
    else
      let gone := fun (kind : UnitKind) (ns : List Nat) => ns.filter fun n => (new.get kind n).isDisabled && !(old.get kind n).isDisabled
      let pick := if (new.stackTiles k).length < 48 then
          ((gone .tile ((upTo 52).map (52 * k + ·))).getLast?).map fun n => (new.get .tile n).reason
        else ((gone .slice ((upTo 64).map (64 * k + ·))).getLast?).map fun n => (new.get .slice n).reason
      match pick with
      | some r => { p with stackReason := smSet 0 p.stackReason k r }
      | none => p) new

/-- The plan that step 6 builds. -/
def State.buildPlan (s : State) : Plan :=
  let p : Plan := { Plan.empty with
    tile := entriesOf 416 s.tileEntry, slice := entriesOf 512 s.sliceEntry, welt := entriesOf 512 s.weltEntry
    hbmStack := entriesOf 16 s.hbmEntry, hbmChannel := entriesOf 512 s.channelEntry, lacing := entriesOf 14 s.lacingEntry
    port := entriesOf 18 s.portEntry }
  p.stackReasons Plan.empty

/-- The test that holds the device at step 6 (R406). -/
def State.holdCause (s : State) : Option Nat :=
  if s.defects.incomplete then some 8
  else if (upTo 8).any s.plan.below then some 1
  else if !s.plan.meets25 then some 2
  else none

/-- FLOOR_PLAN_BUILD (R402 step 6, R406): the plan is committed; a minimum that is missed holds the device, and otherwise the
ports train. -/
def execFloorPlanBuild (s : State) : Out :=
  if !(s.dev.mode matches .bringup) || !(s.dev.step matches .plan) then .next s
  else
    let s1 := s.commitPlan s.buildPlan 0
    match s1.holdCause with
    | some c => .next { s1.enterHeld c with dev.portsTrained := false, dev.found := [] }
    | none => .next { s1 with dev.found := [], dev.step := .ports, dev.attempts := [], fabric.ownId := s1.mram.fabricId }.portsDone

/-! ## The slip-on path (R415) -/

/-- A retirement that the slip-on path finds: in the record, the black box and the plan that is being rebuilt. -/
def State.retireSlip (s : State) (p : Plan) (c : Nat) : State × Plan :=
  let s1 := s.retireCold c
  let p1 := p.set .welt c ⟨2, 4, s1.weltDetail c⟩
  if (p1.get .welt (c ^^^ 1)).isWorking then (s1, p1.set .welt (c ^^^ 1) ⟨1, 5, s1.weltDetail (c ^^^ 1)⟩)
  else
    let gone := [min c (c ^^^ 1), max c (c ^^^ 1)].filter p1.sliceOk
    (s1, gone.foldl (fun q n => q.set .slice n (outOf 5 0)) p1)

/-- The flagged channels of selected stacks are scanned (R234). -/
def State.scanFlagged (s : State) (on : Nat → Bool) (scans : List StackScan) (p : Plan) : State × Plan :=
  let cs := (upTo 512).filter fun c => on (c / 64) && (s.chan c).testDue && (p.get .welt c).inService
  cs.foldl (fun (acc : State × Plan) c =>
    let (lost, t) := acc.1.steerBoth c (ofPass .scan (scansOf scans (c / 64))) false 2
    let t1 := t.setChan c { t.chan c with testDue := false }
    if lost then t1.retireSlip acc.2 c
    else (t1, let e := acc.2.get .welt c; acc.2.set .welt c { e with detail := t1.weltDetail c })) (s, p)

/-- Units that the path takes out of the plan: refused repairs, and the tiles of stacks that cannot power (R270, R432). -/
def State.slipLosses (s : State) (on : Nat → Bool) (lost : List UnitId) (p : Plan) : State × Plan :=
  let dead := ((upTo 8).filter fun k => on k && s.noPower k).flatMap fun k => (upTo 52).map (52 * k + ·)
  let s1 := dead.foldl (fun t n => t.findBad ⟨.tile, n⟩ 6) s
  let p1 := dead.foldl (fun q n => if q.tileOk n then q.set .tile n (outOf 6 0) else q) p
  let p2 := lost.foldl (fun q u => if (q.get u.kind u.num).isDisabled then q else q.set u.kind u.num (outOf 2 0)) p1
  let p3 := (upTo 16).foldl (fun q h =>
    let e := q.get .hbmStack h
    q.set .hbmStack h { e with
      detail := BitVec.ofNat 16 (s1.mram.hbmRows.filter fun r => r.applied && r.location.toNat / 2 ^ 30 == h).length }) p2
  (s1, p3)

/-- The licence in force decides the entries of the ports that are not bad (R35): a port it leaves out is UNLICENSED, and one
that it takes in has yet to train. -/
def State.licencePorts (s : State) (p : Plan) : Plan :=
  (upTo 18).foldl (fun q n =>
    let e := q.get .port n
    if e.isDisabled then q
    else if !s.portLicensed n then q.set .port n ⟨3, 9, 0⟩
    else if e.state = 3 then q.set .port n UnitEntry.portDown
    else q) p

/-- Steps 4 to 6 of the path for selected stacks: scrub, repairs, scans, and the rebuilt plan with ORIGIN 0x01. -/
def State.slipStacks (s : State) (on : Nat → Bool) (scans : List StackScan) (refused : List (BitVec 34)) : State :=
  let (s0, lost) := ((((upTo 8).filter on).foldl (fun t k => t.drainEnd k 0) s).resetStacks on).applyRepairs false on refused
  let s1 := ((upTo 8).filter on).foldl State.reopen { s0 with
    hbm.selfRefresh := s0.hbm.selfRefresh &&& BitVec.ofNat 16 (((upTo 16).filter fun h => !on (h / 2)).foldl (fun m h => m + 2 ^ h) 0) }
  let (s2, p2) := s1.scanFlagged on scans s1.plan
  let (s3, p3) := s2.slipLosses on lost p2
  let s4 := ((upTo 8).filter fun k => on k && s3.dev.stackUp.getLsbD k).foldl State.powerStack s3
  { s4.commitPlan ((s4.licencePorts p3).stackReasons s.plan) 1 with dev.found := [] }

/-- SLIP_ON (R6, R413, R415): the path of a warm or compute reset, or of stacks reset in READY, completes; a warm reset whose
DFW does not match the digest recorded at boot becomes cold (a device-fatal fault of cause 0x14, R510), and a minimum of R4 or R25 that is missed holds the device. -/
def execSlipOn (scans : List StackScan) (refused : List (BitVec 34)) (dfwMatches : Bool) (s : State) : Out :=
  match s.dev.mode, s.dev.step, s.dev.slip with
  | .bringup, .slip, some x =>
    if x.warm && !x.viaPair && !dfwMatches then .next (s.deviceFatal 0x14 (natToBytes 8 16) true)
    else
      let s1 := (if x.warm then s.finishJobs else s).slipStacks (fun _ => true) scans refused
      match s1.holdCause with
      | some c =>
        let s2 := if x.warm then s1.dropPorts else s1
        .next { s2.enterHeld c with dev.portsTrained := !x.warm }
      | none => if x.warm then .next { s1 with dev.step := .ports }.portsDone else .next s1.enterCheck
  | .ready, _, _ =>
    if s.dev.stackReset = 0 then .next s
    else
      let on := fun k => s.dev.stackReset.getLsbD k
      let s1 := s.resetAwls.slipStacks on scans refused
      let s2 := { s1 with dev.stackReset := 0 }
      let hold := fun (c : Nat) => { s2.enterHeld c with dev.portsTrained := true }
      if (upTo 8).any fun k => on k && s2.plan.below k then .next (hold 1)
      else if !s2.plan.meets25 then .next (hold 2)
      else .next s2
  | _, _, _ => .next s

/-! ## Step 8 (R409 to R411) -/

/-- A port's entry in a last: policy 0 for none. -/
def lastEntry (b : List Byte) (p : Nat) : LastEntry :=
  let e := cut b (16 + 8 * p) 8
  ⟨BitVec.ofNat 16 (le e 0 2), BitVec.ofNat 8 (le e 2 1), BitVec.ofNat 8 (le e 3 1), BitVec.ofNat 8 (le e 4 1)⟩

/-- What the comparison finds at a port: whether it differs from the entry, and whether it holds the device. -/
def State.comparePort (s : State) (e : LastEntry) (p : Nat) : Bool × Bool :=
  let x := s.port p
  let w := e.width.toNat
  let same := x.neighbourId == e.neighbour && decide (x.neighbourPort.toNat = e.nport.toNat)
  if e.policy = 0 then (x.up, false)
  else if !x.up then (true, e.policy == 1)
  else if !same then (true, true)
  else if w ≤ x.width then (false, false)
  else if w ≤ 2 * x.width then (true, e.policy == 1)
  else (true, true)

/-- The LAST_DIFF payload: port, expected entry, found neighbour, port and width. -/
def State.lastDiff (s : State) (e : LastEntry) (p : Nat) : List Byte :=
  let x := s.port p
  natToBytes 1 p ++ natToBytes 2 e.neighbour.toNat ++ [e.nport, e.width, e.policy] ++
  (if x.up then natToBytes 2 x.neighbourId.toNat ++ natToBytes 1 x.neighbourPort.toNat ++ natToBytes 1 x.width else natToBytes 4 0)

/-- LAST_COMPARE (R410, R411): every port against the last in force; READY, or HELD with CAUSE 0x03. -/
def execLastCompare (s : State) : Out :=
  if !(s.dev.mode matches .check) then .next s
  else
    let entry := fun p => match s.dev.last with | some b => lastEntry b p | none => ⟨0, 0, 0, 0⟩
    let s1 := ((upTo 18).filter fun p => (s.comparePort (entry p) p).1).foldl (fun t p => t.auditFw 8 0 (s.lastDiff (entry p) p)) s
    if (upTo 18).any fun p => (s.comparePort (entry p) p).2 then .next (s1.enterHeld 3) else .next s1.enterReady

end Sys2Proof.Machine
end

