-- ==== Sys2Proof/Machine/Bist.lean ====
section
/-! DEFINITION. BIST on command (R238, R407, R408). -/

namespace Sys2Proof.Machine

def InFlight.bistKind (f : InFlight) : Nat := f.u8 0x10
def InFlight.bistMask (f : InFlight) : BitVec 8 := BitVec.ofNat 8 (f.u8 0x11)
/-- A row serves its own kind; a reserved kind is refused by any of them. -/
def InFlight.bistMine (kind : Nat) (f : InFlight) : Bool := f.bistKind == kind || decide (3 ≤ f.bistKind)

/-- A stack that cannot be tested yet: it resets, or tests itself. -/
def State.bistWaits (s : State) (m : BitVec 8) : Bool :=
  s.dev.stackReset &&& m != 0 || (maskStacks m).any fun k => (s.weltStack k).testing

/-- The checks of every kind, then the test on powered uppers. -/
def State.runBist (s : State) (f : InFlight) (go : State → List Nat → State) : State :=
  let m := f.bistMask
  if 3 ≤ f.bistKind || m = 0 then s.refuseDesc f 2
  else if (maskStacks m).any fun k => (s.jobOn k).isSome then s.refuseDesc f 0x2A
  else if s.bistWaits m then s
  else go ((maskStacks m).foldl State.wake s) (maskStacks m)

/-- RESULT carries the generation of the plan that the tests left (R408). -/
def State.bistDone (s : State) (f : InFlight) : State := s.okDesc f s.mram.generation.toNat

/-- BIST_WELT (R238): the self-tests of the named stacks, at once. The plan is committed with ORIGIN 0x03 even where nothing
changed, which the register of the plans shows (R476). -/
def execBistWelt (ring : Fin 64) (idx : BitVec 32) (scans : List StackScan) (s : State) : Out :=
  .next (s.runDesc ring idx 0xB (InFlight.bistMine 0) fun t f => t.runBist f fun u ks =>
    let v := ks.foldl (fun v k => v.selfTest k (scansOf scans k) 3 3) u
    (if v.mr 6 = u.mr 6 then v.commitPlan v.plan 3 else v).bistDone f)

/-- BIST_TILES (R407): the test of every working tile, and of every check-value unit, begins. -/
def execBistTiles (ring : Fin 64) (idx : BitVec 32) (s : State) : Out :=
  .next (s.runDesc ring idx 0xB (InFlight.bistMine 1) fun t f => t.runBist f fun u _ => u)

/-- BIST_SOLE (R407): the test of every live slice begins. -/
def execBistSole (ring : Fin 64) (idx : BitVec 32) (s : State) : Out :=
  .next (s.runDesc ring idx 0xB (InFlight.bistMine 2) fun t f => t.runBist f fun u _ => u)

/-- A unit that a BIST of a kind tests, and that is in service. -/
def State.bistTests (s : State) (kind : Nat) (ks : List Nat) (u : UnitId) : Bool :=
  match u.kind with
  | .tile => kind == 1 && ks.contains (u.num / 52) && s.tileOk u.num
  | .slice => kind == 2 && ks.contains (u.num / 64) && s.sliceOk u.num
  | .cvu => kind == 1 && decide (u.num < 44) &&
      (if u.num < 36 then !(s.plan.get .port (u.num / 2)).isDisabled else !(s.cvu u.num).failed)
  | _ => false

/-- The unit that a failure takes out: a port for a unit that serves one (R399). -/
def bistUnit (u : UnitId) : UnitId :=
  match u.kind with
  | .cvu => if u.num < 36 then ⟨.port, u.num / 2⟩ else u
  | _ => u

/-- A failed unit: in the defect record and the black box, with REASON BIST_COMMAND (R408). -/
def State.bistFail (s : State) (u : UnitId) : State :=
  let s1 := (s.addDefect u 3).fieldDefect ((kindCode u.kind).getD 0) u.num 3 [] (unitStack u)
  match u.kind with
  | .cvu => s1.setCvu u.num { s1.cvu u.num with failed := true }
  | .port => s1.updPort u.num FabPort.stop
  | _ => s1

/-- The plan without the failed units. -/
def Plan.without (p : Plan) (us : List UnitId) : Plan :=
  us.foldl (fun q u => match u.kind with
    | .port => q.set .port u.num ⟨2, 3, 0⟩
    | .cvu => q
    | k => q.disable k u.num 3) p

/-- The check-value units and the random-bit units are left as their tests leave them: reset, and tested (R162, R399). -/
def State.bistUnits (s : State) (ks : List Nat) (bad : List UnitId) : State :=
  let s1 := (ks.flatMap s.plan.stackTiles).foldl (fun t n => t.rngTest n (!bad.contains ⟨.tile, n⟩)) s
  (upTo 44).foldl (fun t u => if (t.cvu u).failed then t else t.setCvu u (t.cvu u).afterReset) s1

/-- BIST_COMPLETE (R408): what failed leaves service, every other unit returns, and the completion is posted. -/
def execBistComplete (ring : Fin 64) (idx : BitVec 32) (found : List UnitId) (s : State) : Out :=
  match s.findDesc ring.val idx with
  | none => .next s
  | some f =>
    let ks := maskStacks f.bistMask
    if f.opcode ≠ 0xB || !f.started || f.bistKind = 0 || s.bistWaits f.bistMask || !(s.dev.mode matches .ready) then .next s
    else
      let bad := ((found.filter (s.bistTests f.bistKind ks)).map bistUnit).eraseDups
      let s1 := if f.bistKind = 1 then s.bistUnits ks bad else s
      let s2 := bad.foldl State.bistFail s1
      .next ((s2.changePlan (s2.plan.without bad) 3).bistDone f)

end Sys2Proof.Machine
end

