-- ==== Sys2Proof/Machine/Power.lean ====
section
/-! DEFINITION. Power delivery: the 12 V input (R428 to R430), phases and regions (R432 to R443), ramps, parking and gating
(R444 to R447), and the power tier (R448 to R450). -/

namespace Sys2Proof.Machine

/-! ## The power tier (R448 to R450) -/

/-- W_T (R448). -/
def State.tier (s : State) : Nat := variantTier s.variant

/-- A sample above 1.15 W_T (R450). -/
def State.fastOver (s : State) (w : Nat) : Bool := decide (115 * s.tier < 100 * w)

/-- The fast limit at a sample in READY: one step down, ENFORCED and FAST; FAST clears at or below W_T. -/
def State.fastLimit (s : State) (w : Nat) : State :=
  if s.fastOver w then
    let s1 := if s.pwr.fast then s else s.auditPower 4
    let s2 := if s1.pwr.enforced then s1 else s1.auditPower 2
    { s2 with
      pwr.fast := true, pwr.enforced := true, pwr.setting := if 10 < s.pwr.setting then s.pwr.setting - 1 else s.pwr.setting
      pwr.fastRun := if 10 < s.pwr.setting then 0 else s.pwr.fastRun + 1 }
  else
    let s1 := { s with pwr.fastRun := 0 }
    if s.pwr.fast && decide (w ≤ s.tier) then { s1.auditPower 5 with pwr.fast := false } else s1

/-- The samples of the 40,000 always-on cycles before now (R467). -/
def keepRecent (now : Nat) (l : List (Nat × Nat)) : List (Nat × Nat) := l.filter fun e => decide (now < e.1 + 40000)

/-- INPUT_SAMPLE (R428, R448, R450, R454): the monitor's sample of voltage (mV) and power (W). -/
def execInputSample (millivolts watts : BitVec 16) (s : State) : Out :=
  if s.dev.mode matches .off then .next s
  else
    let mv := millivolts.toNat
    let w := watts.toNat
    let high := decide (12600 < mv)
    let s1 := if high && !s.pwr.highEpisode then s.auditPower 0 else s
    let s2 := { s1 with
      pwr.millivolts := mv, pwr.watts := w, pwr.inputHigh := s1.pwr.inputHigh || high, pwr.highEpisode := high
      pwr.recent := (s1.aon.toNat, w) :: keepRecent s1.aon.toNat s1.pwr.recent }
    if s2.dev.mode matches .ready then
      .next ({ s2 with pwr.windowSum := s2.pwr.windowSum + w, pwr.windowCount := s2.pwr.windowCount + 1 }.fastLimit w)
    else .next s2

/-- PWR_GRACE in always-on cycles (R449, R454). -/
def State.powerGrace (s : State) : Nat := s.reg 0x500C 200 * 40000

/-- Steps 3 to 5 of R449 at a window's end: `above` says above W_T, `low` at or below 0.9 W_T. -/
def State.powerStep (s : State) (above low : Bool) : State :=
  let p := s.pwr
  let down := if p.enforced && above && decide (10 < p.setting) then p.setting - 1 else p.setting
  let setting := if low && decide (down < 27) then down + 1 else down
  let run := if !p.enforced then 0 else if low && p.windowStart == 27 then p.coolRun + 1 else 0
  let s1 := { s with pwr.setting := setting, pwr.windowStart := setting, pwr.coolRun := run }
  if p.enforced && decide (10 ≤ run) then
    { s1.auditPower 3 with
      pwr.active := false, pwr.enforced := false, pwr.coolRun := 0, pwr.target := 0, pwr.requestAt := 0, pwr.judged := false }
  else s1

/-- POWER_WINDOW_END (R448, R449): the average is published, a request may be posted, and the setting steps. A window
without a sample judges nothing. -/
def execPowerWindowEnd (s : State) : Out :=
  if !(s.dev.mode matches .ready) || s.pwr.windowCount = 0 then .next s
  else
    let n := s.pwr.windowCount
    let sum := s.pwr.windowSum
    let above := decide (s.tier * n < sum)
    let low := decide (10 * sum ≤ 9 * s.tier * n)
    let s1 := { s with
      pwr.average := sum / n, pwr.windows := s.pwr.windows + 1, pwr.windowSum := 0, pwr.windowCount := 0, pwr.lastOver := above }
    let s2 := if above && !s1.pwr.active then
        { s1.auditPower 1 with
          pwr.active := true, pwr.judged := false, pwr.target := s.tier, pwr.requestAt := s1.aon + BitVec.ofNat 64 s1.powerGrace }
      else s1
    .next (s2.powerStep above low)

/-- POWER_ENFORCE_AT (R449 step 2): at ENFORCE_AT the request is enforced, or cleared. -/
def execPowerEnforceAt (s : State) : Out :=
  if !(s.dev.mode matches .ready) || !s.pwr.active || s.pwr.judged || decide (s.aon.toNat < s.pwr.requestAt.toNat) then .next s
  else if s.pwr.lastOver then
    let s1 := if s.pwr.enforced then s else s.auditPower 2
    .next { s1 with pwr.enforced := true, pwr.judged := true }
  else .next { s.auditPower 3 with pwr.active := false, pwr.target := 0, pwr.requestAt := 0 }

/-- FAST_LIMIT_FATAL (R450): cause 0x11. -/
def execFastLimitFatal (s : State) : Out :=
  if (s.dev.mode matches .ready) && decide (100 ≤ s.pwr.fastRun) then .next (s.deviceFatal 0x11 [] true) else .next s

/-! ## The 12 V input (R428 to R430) -/

/-- LOSS_OF_12V (R428, R430): the brown-out record, then everything that needs power is lost. -/
def execLossOf12V (s : State) : Out :=
  if s.dev.mode matches .off then .next s
  else
    let s1 := s.blackBox 4 0 0xFF 0 (natToBytes 2 s.pwr.millivolts ++ natToBytes 2 0 ++ natToBytes 4 s.pwr.average)
    let s2 := s1.endJobs (fun _ _ => true) fun v => JobEnd.plain 0x0A s.aon v.image.stackBits
    .next { s2.clearAll with dev := { Dev.reset with latched := s2.dev.latched }, thm := Thm.reset, pwr := Pwr.reset }

/-- INPUT_OVERVOLTAGE (R428, R429): protection opens, cause 0x10; step 3 then waits for a stable input. -/
def execInputOvervoltage (s : State) : Out :=
  if s.dev.mode matches .off then .next s
  else
    let s1 := { s with pwr.inputOpen := true, dev.waitInput := true }
    .next (if s.dev.mode matches .aon then s1.blackBox 1 0x10 0xFF 0 ([3, 0] ++ List.replicate 14 0 ++ natToBytes 4 0xFFFFFFFF)
      else s1.stacksOff.deviceFatal 0x10 [] true)

/-- INPUT_STABLE (R429): 10 ms within range. -/
def execInputStable (s : State) : Out := .next { s with pwr.inputOpen := false, dev.waitInput := false }

/-! ## Regions (R433 to R435) -/

/-- The region of a phase, and the phase's number in it. -/
def phaseRegion (n : Nat) : Nat × Nat := if n < 260 then (n / 5, n % 5) else (52 + (n - 260) / 8, (n - 260) % 8)

/-- The neighbours of a region (R435). -/
def regionNeighbours (r : Nat) : List Nat :=
  if r < 52 then
    (if 4 ≤ r then [r - 4] else []) ++ (if r + 4 < 52 then [r + 4] else []) ++ (if r % 4 = 0 then [] else [r - 1]) ++
    (if r % 4 = 3 then [] else [r + 1]) ++ (if 48 ≤ r then [52 + r % 4] else [])
  else (r - 4) :: ((if 52 < r then [r - 1] else []) ++ (if r < 55 then [r + 1] else []))

/-- How many phases of a region have failed. -/
def Region.failedCount (g : Region) : Nat := ((upTo 8).filter fun i => g.failed.getLsbD i).length

/-- L in amperes (R433, R438, R440, R443). -/
def Region.limit (g : Region) (r : Nat) : Nat :=
  if r < 52 then (if g.failedCount = 0 then 20 else 16) else 4 * (8 - g.failedCount)

/-- The tile's clock cap, 0 if uncapped (R440). -/
def Region.cap (g : Region) (r : Nat) : Nat := if r < 52 && g.failedCount = 1 then 21 else 0

/-- A region takes a state, and a tile region's tile with it. -/
def State.setPower (s : State) (k r : Nat) (p : Power) : State :=
  if r < 52 then s.tilePower (52 * k + r) p else s.setRegion k r { s.region k r with state := p }

/-- A region that carries current: on, or ramping. -/
def Region.live (g : Region) : Bool := g.state matches .on | .ramping

/-! ## Records and faults of a region (R440 to R443, R453) -/

/-- The regulator-failure record (R520); a job's end by 0x38 that has no record yet names it (R516). -/
def State.regulator (s : State) (code k a phase reason result job : Nat) : State :=
  let h := s.mram.bbHead
  let s1 := s.blackBox 7 code k job ((([a, phase, reason, result]).map fun n => BitVec.ofNat 8 n))
  if s1.mram.bbHead = h then s1
  else s1.updJob job fun v => { v with ended := v.ended.map fun e =>
    if e.cls == 1 && e.code == 0x38 && e.bbIndex == 0xFFFFFFFF then { e with bbIndex := BitVec.ofNat 32 h } else e }

/-- Fault 0x38 of the job that holds the stack (R441, R442, R517), counted on the region's tile (R157); where the loss of the tile is
stack-fatal too, that decides, and this fault is suppressed (R527). -/
def State.regionFault (s : State) (k r : Nat) : State :=
  match s.jobOn k with
  | none => s
  | some j =>
    (s.jobFault j 0x38 ⟨BitVec.ofNat 32 (52 * k + r), 0xFFFFFFFF, 0, 0⟩ ([BitVec.ofNat 8 k, BitVec.ofNat 8 r, (s.region k r).failed])
      0xFFFFFFFF).cntTile (52 * k + r) 0x150 1

/-- A tile region goes dark (R441): recorded, and the tile is out of service. -/
def State.darken (s : State) (k r : Nat) : State :=
  let t := 52 * k + r
  let s1 := (s.tilePower t .dark).addDefect ⟨.tile, t⟩ 6
  let s2 := s1.setRegion k r { s1.region k r with waiting := false, waitAt := none, tripped := none, halved := false }
  if s2.tileOk t then s2.changePlan (s2.plan.disable .tile t 6) 2 else s2

/-- The first failed phase of a tile region (R440, R452): DEGRADED with its cap; a ramp under way stops and is asked for
again. -/
def State.degrade (s : State) (k r : Nat) : State :=
  let t := 52 * k + r
  let s1 := if (s.region k r).state matches .ramping then
      let s0 := s.setPower k r .off
      s0.setRegion k r { s0.region k r with waiting := true, waitAt := none }
    else s
  if (s1.plan.get .tile t).isWorking then s1.changePlan (s1.plan.set .tile t ⟨1, 6, 21⟩) 2 else s1

/-- A phase fails (R439 to R441, R443), for a reason of R520. -/
def State.phaseFail (s : State) (k n reason : Nat) : State :=
  let r := (phaseRegion n).1
  let i := (phaseRegion n).2
  let g := s.region k r
  if !s.dev.stackUp.getLsbD k || s.defects.phases.contains (292 * k + n) || (g.state matches .dark) then s
  else
    let s1 := (s.setDefects { s.defects with phases := s.defects.phases ++ [292 * k + n] }).cntPwr k 0x118 1
    let s2 := { s1.setRegion k r { g with failed := g.failed ||| BitVec.ofNat 8 (2 ^ i) } with
      pwr.drop := smSet 0 s1.pwr.drop (292 * k + n) 0 }
    let bad : Nat := (s2.region k r).failedCount
    if 52 ≤ r then
      let s3 := if bad = 3 then s2.stackFatal (BitVec.ofNat 8 (2 ^ k)) 2 (natToBytes 8 (292 * k + n)) else s2
      s3.regulator 1 k r i reason 0 0
    else if bad == 1 then (s2.degrade k r).regulator 1 k r i reason 0 0
    else ((s2.darken k r).regionFault k r).regulator 1 k r i reason 1 ((s.jobOn k).getD 0)

/-- PHASE_REGULATION_LOSS (R439). -/
def execPhaseRegulationLoss (stack : Fin 8) (phase : Fin 292) (s : State) : Out := .next (s.phaseFail stack.val phase.val 0)

/-- PHASE_OVER_CURRENT (R439). -/
def execPhaseOverCurrent (stack : Fin 8) (phase : Fin 292) (s : State) : Out := .next (s.phaseFail stack.val phase.val 1)

/-- A suspect sample of the drop check (R439): V in µV above K_p × I × (1 + 0.0039 × (T − 25)) by more than 25 %, with K_p in
µΩ, I in mA and T in quarter degrees. -/
def dropSuspect (kp milliamps microvolts : Nat) (quarterDegrees : Int) : Bool :=
  decide ((125 * kp * milliamps : Int) * (40000 + 39 * (quarterDegrees - 100)) < (microvolts * 1000 * 40000 * 100 : Int))

/-- DROP_CHECK_SAMPLE (R439): a sample below 1 A is skipped; one that is not suspect ends the run. -/
def execDropCheckSample (stack : Fin 8) (phase : Fin 292) (milliamps microvolts : BitVec 16) (quarterDegrees : Int) (s : State) : Out :=
  let n := 292 * stack.val + phase.val
  if !s.dev.stackUp.getLsbD stack.val || s.defects.phases.contains n || milliamps.toNat < 1000 then .next s
  else if dropSuspect (smGet 0 s.part.kp n) milliamps.toNat microvolts.toNat quarterDegrees then
    .next { s.cntPwr stack.val 0x120 1 with pwr.drop := smSet 0 s.pwr.drop n (smGet 0 s.pwr.drop n + 1) }
  else .next { s with pwr.drop := smSet 0 s.pwr.drop n 0 }

/-- DROP_CHECK_FAIL (R439): one hundred suspect samples in a row. -/
def execDropCheckFail (stack : Fin 8) (phase : Fin 292) (s : State) : Out :=
  if 100 ≤ smGet 0 s.pwr.drop (292 * stack.val + phase.val) then .next (s.phaseFail stack.val phase.val 2) else .next s

/-- MODULE_PHASE_FAILURE (R432): recorded; with 12 phases or fewer the stack cannot power, a stack-fatal fault of cause 0x03. -/
def execModulePhaseFailure (stack : Fin 8) (phase : Fin 14) (s : State) : Out :=
  let k := stack.val
  let n := 14 * k + phase.val
  if !s.dev.stackUp.getLsbD k || s.defects.modulePhases.contains n then .next s
  else
    let s1 := (s.setDefects { s.defects with modulePhases := s.defects.modulePhases ++ [n] }).cntPwr k 0x118 1
    let low := 2 ≤ (s1.failedModule k).length
    let s2 := if low then s1.stackFatal (BitVec.ofNat 8 (2 ^ k)) 3 (natToBytes 8 k) else s1
    .next (s2.regulator 0 k phase.val 0 0 (if low then 3 else 0) 0)

/-! ## Trips (R437, R438, R442, R443) -/

/-- A region trips: the second trip of a tile region darkens it; a trip of an uncore region is stack-fatal. -/
def State.trip (s : State) (k r reason : Nat) : State :=
  let g := s.region k r
  if !s.dev.stackUp.getLsbD k || !g.live then s
  else
    let s1 := (s.setRegion k r { g with trips := min 3 (g.trips + 1) }).cntPwr k 0x110 1
    if 52 ≤ r then
      let n := smGet 0 s1.pwr.uncoreTrips k + 1
      let s2 := { s1.setPower k r .off with pwr.uncoreTrips := smSet 0 s1.pwr.uncoreTrips k n }
      let s3 := if 2 ≤ n then { s2 with dev.cannotPower := s2.dev.cannotPower ||| BitVec.ofNat 8 (2 ^ k) } else s2
      (s3.stackFatal (BitVec.ofNat 8 (2 ^ k)) 2 (natToBytes 8 k)).regulator 2 k r 0 reason (if 2 ≤ n then 3 else 2) 0
    else
      let job := (s.jobOn k).getD 0
      if 1 ≤ g.trips then ((s1.darken k r).regionFault k r).regulator 2 k r 0 reason 1 job
      else
        let s3 := (s1.regionFault k r).setPower k r .off
        (s3.setRegion k r { s3.region k r with tripped := some reason, waiting := false, waitAt := none, halved := false }).regulator 2 k r 0
          reason 2 job

/-- REGION_OVER_CURRENT (R438). -/
def execRegionOverCurrent (stack : Fin 8) (region : Fin 56) (s : State) : Out := .next (s.trip stack.val region.val 3)

/-- REGION_UNDERVOLTAGE (R437). -/
def execRegionUndervoltage (stack : Fin 8) (region : Fin 56) (s : State) : Out := .next (s.trip stack.val region.val 4)

/-- REGION_RERAMP (R442): once the job that faulted has ended, the region asks for its ramp (R444, R445); once that runs, it
trips, its tile fails the tests, or the tile returns to service. -/
def execRegionReramp (stack : Fin 8) (region : Fin 56) (trip : Option RegionTrip) (testsBad : Bool) (s : State) : Out :=
  let k := stack.val
  let r := region.val
  let g := s.region k r
  let ending := match s.jobOn k with | some j => !s.present j | none => false
  match g.tripped with
  | none => .next s
  | some reason =>
    if ending || 52 ≤ r || !s.dev.stackUp.getLsbD k then .next s
    else if !(g.state matches .ramping) then .next (s.setRegion k r { g with waiting := true })
    else
      match trip with
      | some c =>
        let s1 := (s.setRegion k r { g with trips := min 3 (g.trips + 1) }).cntPwr k 0x110 1
        .next (((s1.darken k r).regionFault k r).regulator 2 k r 0 (match c with | .overCurrent => 3 | .undervoltage => 4) 1 ((s.jobOn k).getD 0))
      | none =>
        let t := 52 * k + r
        let s1 := (s.updTile t Tile.scrubbed).rngTest t (!testsBad)
        if testsBad then .next (((s1.darken k r).regionFault k r).regulator 2 k r 0 reason 1 ((s.jobOn k).getD 0))
        else .next ((s1.setRegion k r { g with tripped := none, quarter := false }).tileUp t)

/-! ## Transients (R436, R437) -/

/-- The boost stage can engage: ready, or 8 µs (320 always-on cycles) after its release. -/
def Region.boostReady (g : Region) (now : Nat) : Bool :=
  match g.boost with
  | .ready => true
  | .engaged => false
  | .recovering => decide (g.releasedAt + 320 ≤ now)

/-- BOOST_ENGAGE (R436). -/
def execBoostEngage (stack : Fin 8) (region : Fin 56) (s : State) : Out :=
  let g := s.region stack.val region.val
  if g.live && g.boostReady s.aon.toNat then
    .next ((s.setRegion stack.val region.val { g with boost := .engaged, releasedAt := 0 }).cntPwr stack.val 0x100 1)
  else .next s

/-- BOOST_RELEASE (R436). -/
def execBoostRelease (stack : Fin 8) (region : Fin 56) (s : State) : Out :=
  let g := s.region stack.val region.val
  if g.boost matches .engaged then .next (s.setRegion stack.val region.val { g with boost := .recovering, releasedAt := s.aon.toNat })
  else .next s

/-- CLOCK_HALVING (R437): the output is low while the boost cannot engage. -/
def execClockHalving (stack : Fin 8) (region : Fin 56) (s : State) : Out :=
  let g := s.region stack.val region.val
  if g.live && !g.halved && (g.boost matches .recovering) && !g.boostReady s.aon.toNat then
    .next ((s.setRegion stack.val region.val { g with halved := true }).cntPwr stack.val 0x108 1)
  else .next s

/-- CLOCK_RESTORE (R437). -/
def execClockRestore (stack : Fin 8) (region : Fin 56) (s : State) : Out :=
  let g := s.region stack.val region.val
  if g.halved then .next (s.setRegion stack.val region.val { g with halved := false }) else .next s

/-! ## Ramps (R444, R445) -/

/-- The measured currents of a stack's regions. -/
def State.measure (s : State) (k : Nat) (draws : List RegionDraw) : State :=
  draws.foldl (fun t d => t.setRegion k d.region.val { t.region k d.region.val with milliamps := d.milliamps.toNat }) s

/-- A powered neighbour that draws more than 85 % of its L blocks a normal ramp. -/
def State.blocked (s : State) (k r : Nat) : Bool :=
  (regionNeighbours r).any fun n =>
    let g := s.region k n
    (g.state matches .on | .ramping | .parked) && decide (85 * (g.limit n * 1000) < 100 * g.milliamps)

/-- Regions of a stack that ramp now: no more than 4 at once. -/
def State.ramping (s : State) (k : Nat) : Nat := ((upTo 56).filter fun r => (s.region k r).state matches .ramping).length

/-- A ramp starts. -/
def State.startRamp (s : State) (k r : Nat) (quarter : Bool) : State :=
  let s1 := s.setPower k r .ramping
  s1.setRegion k r { s1.region k r with waiting := false, waitAt := none, quarter := quarter }

/-- REGION_RAMP_START (R445): a region that waits for its ramp checks its neighbours; the first check that blocks counts a
wait. -/
def execRegionRampStart (stack : Fin 8) (region : Fin 56) (draws : List RegionDraw) (s : State) : Out :=
  let k := stack.val
  let r := region.val
  let s1 := s.measure k draws
  let g := s1.region k r
  if !g.waiting || !(g.state matches .off | .parked) || 4 ≤ s1.ramping k then .next s1
  else if s1.blocked k r then
    if g.waitAt.isSome then .next s1
    else .next ((s1.setRegion k r { g with waitAt := some s1.aon.toNat }).cntPwr k 0x128 1)
  else .next (s1.startRamp k r false)

/-- QUARTER_SLOPE_RAMP (R445): after 40 µs (1,600 always-on cycles) of waiting. -/
def execQuarterSlopeRamp (stack : Fin 8) (region : Fin 56) (s : State) : Out :=
  let k := stack.val
  let r := region.val
  let g := s.region k r
  match g.waitAt with
  | none => .next s
  | some w =>
    if !g.waiting || !(g.state matches .off | .parked) || s.aon.toNat < w + 1600 || 4 ≤ s.ramping k then .next s
    else .next ((s.startRamp k r true).cntPwr k 0x130 1)

/-- REGION_RAMP_DONE (R444, R446): the region is at its setpoint, and its tile runs; REGION_RERAMP ends a re-ramp. -/
def execRegionRampDone (stack : Fin 8) (region : Fin 56) (s : State) : Out :=
  let k := stack.val
  let r := region.val
  if !((s.region k r).state matches .ramping) || (s.region k r).tripped.isSome then .next s
  else
    let s1 := s.setRegion k r { s.region k r with quarter := false }
    .next (if r < 52 then s1.tileUp (52 * k + r) else s1.setPower k r .on)

/-! ## Parking and gating (R446, R447) -/

/-- A tile that holds nothing and waits for nothing. -/
def State.tileIdle (s : State) (t : Nat) : Bool :=
  let x := s.tile t
  x.groups.isEmpty && !x.face0.held && !x.face1.held && x.arrayQueue.isEmpty && x.arrayDone.isEmpty && x.vecQueue.isEmpty &&
  x.vecDone.isEmpty && x.loads.isEmpty && x.stores.isEmpty && s.seqOutstanding t == 0 &&
  !(s.sole.atomics.any fun a => a.tile == t) && !(s.fabric.outstanding.any fun a => a.tile == t)

/-- TILE_PARK (R446): in a running job, an idle tile writes its L1 back and parks. -/
def execTilePark (tile : Fin 416) (s : State) : Out :=
  let t := tile.val
  let k := t / 52
  let runs := match s.jobOn k with
    | some j => (match s.job j with | some v => v.runs | none => false)
    | none => false
  if !runs || !((s.tile t).power matches .on) || !s.tileIdle t then .next s
  else .next (((s.flushL1 tile true).tilePower t .parked).cntPwr k 0x138 1)

/-- The stack is held by no job, or by a suspended one alone, and tests nothing (R447). -/
def State.idleStack (s : State) (k : Nat) : Bool :=
  (match s.jobOn k with
    | some j => (match s.job j with | some v => v.suspended && v.ended.isNone | none => true)
    | none => true) &&
  !(s.weltStack k).testing && !((upTo 52).any fun r => (s.region k r).tripped.isSome) &&
  !(s.inflight.any fun f => f.started && f.opcode == 0xB && (descField f.bytes 0x11 1).testBit k)

/-- UPPER_POWER_GATE (R447): L1s are invalidated and the tile regions switched off; local store is not retained.
The generator keeps its key and counters: the job-end scrub alone clears them (R164; log entry 155). -/
def execUpperPowerGate (stack : Fin 8) (s : State) : Out :=
  let k := stack.val
  if !(s.dev.mode matches .ready) || !s.dev.stackUp.getLsbD k || s.pwr.gated.getLsbD k || !s.idleStack k then .next s
  else
    let s1 := (upTo 52).foldl (fun t n =>
      let u := t.updTile (52 * k + n) fun x => { x.scrubbed with rng := x.rng }
      if (u.tile (52 * k + n)).power matches .dark then u else u.tilePower (52 * k + n) .off) s
    .next ({ s1 with pwr.gated := s1.pwr.gated ||| BitVec.ofNat 8 (2 ^ k) }.cntPwr k 0x140 1)

end Sys2Proof.Machine
end

