-- ==== Sys2Proof/Machine/Launch.lean ====
section
/-! DEFINITION. Jobs: the Silain image (R349, R350), LAUNCH (R347, R498), dispatch (R147), SUSPEND (R150 to R154), RESUME
(R155, R177) and ABORT (R345). -/

namespace Sys2Proof.Machine

/-! ## The Silain image (R349, R350) -/

/-- The device pages a footprint of an image covers. -/
def pageCount (f : Nat) : Nat := f / 2 ^ 21

/-- A kernel-table entry (R350). -/
def imageKernel (b : List Byte) (i : Nat) : Kernel :=
  let e := le b 0xF0 4 + 16 * i
  ⟨le b e 4, le b (e + 4) 4, le b (e + 8) 4, BitVec.ofNat 3 (le b (e + 12) 1)⟩

/-- The image's fields, as its bytes give them. -/
def imageOf (b : List Byte) : Image where
  stackBits := BitVec.ofNat 8 (le b 0xC 1)
  l1Split := le b 0xD 1
  nR := le b 0xE 1
  nV := le b 0xF 1
  lG := le b 0x10 4
  rngLane := decide (le b 0x14 1 % 4 = 1)
  rekey := (le b 0x14 1).testBit 2
  kvPage := le b 0x15 1 % 4
  seed := BitVec.ofNat 64 (le b 0x18 8)
  fI := le b 0x20 8
  fS := (upTo 8).map fun k => le b (0x28 + 8 * k) 8
  descriptors := (upTo 8).map fun k => le b (0x68 + 4 * k) 4
  poolBase := (upTo 8).map fun k => le b (0x88 + 8 * k) 8
  poolPages := (upTo 8).map fun k => le b (0xC8 + 4 * k) 4
  argBase := le b 0xE8 8
  argLength := le b 0x108 4
  kernels := (upTo (le b 0x16 2)).map (imageKernel b)
  lmodes := (upTo (le b 0xF8 4)).filterMap fun i =>
    let e := le b 0xF4 4 + 8 * i
    if le b (e + 4) 1 = 0 then none else some (le b e 4, le b (e + 4) 1)
  code := cut b (le b 0xFC 4) (le b 0x100 4)
  digest := digestBits (sha256 b)

/-- The sections an image names: offset and length. -/
def imageSections (b : List Byte) : List (Nat × Nat) :=
  [(le b 0xF0 4, 16 * le b 0x16 2), (le b 0xFC 4, le b 0x100 4)] ++
  (if le b 0xF8 4 = 0 then [] else [(le b 0xF4 4, 8 * le b 0xF8 4)]) ++
  (if le b 0x108 4 = 0 then [] else [(le b 0x104 4, le b 0x108 4)]) ++
  (if le b 0x110 4 = 0 then [] else [(le b 0x10C 4, le b 0x110 4)])

/-- No two of a list of sections overlap. -/
def sectionsApart : List (Nat × Nat) → Bool
  | [] => true
  | a :: l => l.all (disjoint2 a) && sectionsApart l

/-- Kernel entries follow one another and start inside the code section. -/
def kernelsOk (b : List Byte) : Nat → List Nat → Bool
  | _, [] => true
  | first, i :: l =>
    let e := le b 0xF0 4 + 16 * i
    let k := imageKernel b i
    decide (k.entry % 8 = 0) && decide (k.entry < le b 0x100 4) && decide (k.first = first) && decide (1 ≤ k.count) &&
    decide (le b (e + 12) 1 < 8) && zeros b (e + 13) 3 && kernelsOk b (first + k.count) l

/-- LMODE entries: strictly ascending pages of the footprint, no reserved code (R189). -/
def lmodesOk (b : List Byte) (pages : Nat) : Nat → List Nat → Bool
  | _, [] => true
  | low, i :: l =>
    let e := le b 0xF4 4 + 8 * i
    let p := le b e 4
    decide (low ≤ p) && decide (p < pages) && decide (le b (e + 4) 1 < 3) && zeros b (e + 5) 3 && lmodesOk b pages (p + 1) l

/-- Two pools of an image, by base and bytes, do not overlap; an empty pool occupies nothing (R274). -/
def Image.pools (im : Image) : List (Nat × Nat) :=
  ((maskStacks im.stackBits).map fun k => (im.poolBase.getD k 0, im.poolPages.getD k 0 * im.pageBytes)).filter fun p => decide (p.2 ≠ 0)

/-- The first two rows of R274. -/
def Image.bindingOk (im : Image) : Bool :=
  decide (im.kvPage < 3) &&
  (upTo 8).all (fun k => im.stackBits.getLsbD k ||
    (im.descriptors.getD k 0 == 0 && im.poolBase.getD k 0 == 0 && im.poolPages.getD k 0 == 0)) &&
  (maskStacks im.stackBits).all (fun k => im.poolBase.getD k 0 % im.pageBytes == 0 && decide (im.poolPages.getD k 0 ≤ 2 ^ 26)) &&
  im.pools.all (fun p => decide (p.1 + p.2 ≤ im.footprint)) && sectionsApart im.pools

/-- The first row of R254. -/
def Image.sizesOk (im : Image) : Bool :=
  im.fI % 2 ^ 21 == 0 && (upTo 8).all fun k =>
    im.fS.getD k 0 % 2 ^ 21 == 0 && (im.stackBits.getLsbD k || im.fS.getD k 0 == 0)

/-- The header's own conditions. -/
def headerOk (b : List Byte) : Bool :=
  let at1 := fun o => le b o 1
  let arg := le b 0x108 4
  decide (0x140 ≤ b.length) && decide (le b 0 4 = 0x534C4E31) && decide (le b 4 2 = 1) && zeros b 6 2 &&
  decide (le b 8 4 = b.length) && b.length % 64 == 0 && decide (b.length ≤ 2 ^ 26) && at1 0xC != 0 && decide (at1 0xD < 5) &&
  at1 0xE % 8 == 0 && decide (8 ≤ at1 0xE) && decide (at1 0xE ≤ 128) && at1 0xF % 4 == 0 && decide (at1 0xF ≤ 32) &&
  le b 0x10 4 % 16 == 0 && decide (4096 * at1 0xF ≤ le b 0x10 4) && decide (at1 0x14 < 8) && decide (at1 0x14 % 4 < 2) &&
  decide (at1 0x15 < 4) && decide (1 ≤ le b 0x16 2) && decide (le b 0x16 2 ≤ 64) && le b 0x100 4 % 8 == 0 &&
  decide (8 ≤ le b 0x100 4) && arg % 16 == 0 && decide (arg ≤ 2 ^ 20) && (arg != 0 || (le b 0x104 4 == 0 && le b 0xE8 8 == 0)) &&
  (le b 0xF8 4 != 0 || le b 0xF4 4 == 0) && (le b 0x10C 4 == 0) == (le b 0x110 4 == 0) && zeros b 0x114 44

/-- The second check of R347. -/
def imageForm (b : List Byte) : Bool :=
  let im := imageOf b
  headerOk b &&
  ((imageSections b).all fun x => x.1 % 64 == 0 && decide (0x140 ≤ x.1) && decide (x.1 + x.2 ≤ b.length)) &&
  sectionsApart (imageSections b) && kernelsOk b 0 (upTo (le b 0x16 2)) && decide (im.groups ≤ 2 ^ 31) && im.sizesOk &&
  im.argBase % 64 == 0 && (im.argLength == 0 || decide (im.argBase + im.argLength ≤ im.footprint)) &&
  lmodesOk b (pageCount im.footprint) 0 (upTo (le b 0xF8 4)) && im.bindingOk

/-! ## Admission (R498, R492) -/

/-- The bytes an image is signed over: the signature section read as zeros (R479). -/
def signedImage (b : List Byte) : List Byte :=
  let o := le b 0x10C 4
  let n := le b 0x110 4
  b.take o ++ List.replicate n 0 ++ b.drop (o + n)

/-- The signing key of an image: its KEY_ID, 0 for an image that counts as unsigned, none for a section that fails. -/
def Policy.signer (p : Policy) (b : List Byte) : Option Nat :=
  if le b 0x110 4 = 0 then some 0
  else
    match sigBlock (cut b (le b 0x10C 4) (le b 0x110 4)) with
    | none => none
    | some (k, sig) =>
      if k < 0x10 || 0x18 ≤ k then none
      else
        match (p.imageKeys.map (List.take 60))[k - 0x10]? with
        | none => some 0
        | some key => if hssVerify key (signedImage b) sig then some k else none

/-- The READY slots of PURPOSE JOB that name a job. -/
def State.bindable (s : State) (j : Nat) : List Nat :=
  (upTo 16).filter fun n =>
    let k := s.keySlot n
    decide (k.state = .ready) && !k.ide && k.job.toNat == j

/-- The third check of R347: the status on failure, or the signer. -/
def State.admitJob (s : State) (j : Nat) (b : List Byte) : Except Nat Nat :=
  match s.policy.signer b with
  | none => .error 8
  | some k =>
    if s.flag 0 && k = 0 then .error 1
    else if 2 ≤ (s.bindable j).length then .error 0x3B
    else if s.flag 1 && (s.bindable j).isEmpty then .error 1
    else .ok k

/-! ## Room (R254, R146, R274) -/

/-- Chunks of 4,096 bytes that R251 places on a live HBM stack of a job. -/
def Plan.chunksOn (p : Plan) (im : Image) (h : Nat) : Nat :=
  let hs := p.liveOf im.stackBits
  let t := h / 2
  let n := im.fS.getD t 0 / 4096
  let pr := [2 * t, 2 * t + 1].filter p.hbmLive
  let own := if pr.length = 2 then (if h % 2 = 0 then (n + 1) / 2 else n / 2) else n
  (if hs.length = 0 then 0 else (im.fI / 4096 + hs.length - 1) / hs.length) + own

/-- The second and third rows of R254, and G ≥ 1 (R146). -/
def Plan.fits (p : Plan) (im : Image) : Bool :=
  let hs := p.liveOf im.stackBits
  (im.fI == 0 || !hs.isEmpty) &&
  ((maskStacks im.stackBits).all fun k => im.fS.getD k 0 == 0 || hs.any fun h => h / 2 == k) &&
  (hs.all fun h => decide (p.chunksOn im h * 4096 ≤ p.hbmGib h * 2 ^ 30)) && decide (1 ≤ im.groupsPerTgp)

/-- The third row of R274. -/
def State.seqLicensed (s : State) (im : Image) : Bool :=
  (maskStacks im.stackBits).all fun k => decide (im.descriptors.getD k 0 ≤ variantSeq s.variant / 8)

/-- The checks of R347 in order: the status of the first that fails, or the signer. -/
def State.launchCheck (s : State) (j : Nat) (b : List Byte) : Except Nat Nat :=
  if !imageForm b then .error 2
  else
    let im := imageOf b
    match s.admitJob j b with
    | .error e => .error e
    | .ok k =>
      if (s.jobs.any fun e => e.2.image.stackBits &&& im.stackBits != 0) || s.dev.stackReset &&& im.stackBits != 0 then .error 0x2A
      else if !s.plan.fits im then .error 4
      else if !s.seqLicensed im then .error 0xC
      else if !s.sec.entropyOk then .error 0x3B
      else .ok k

/-- A stack of a LAUNCH that tests itself, is due to, or runs a BIST: the LAUNCH waits (R236, R408). -/
def State.testsOn (s : State) (m : BitVec 8) : Bool :=
  (maskStacks m).any fun k => (s.weltStack k).due || (s.weltStack k).testing ||
    (s.inflight.any fun f => f.started && f.opcode == 0xB && (f.u8 0x11).testBit k)

/-! ## Launch (R347, R255, R257, R476, R492) -/

/-- Device pages with a portion on an HBM stack, ascending (R257). -/
def Plan.pagesOn (p : Plan) (im : Image) (h : Nat) : List Nat :=
  let local_ := match im.fS.getD (h / 2) 0 with
    | 0 => []
    | n + 1 => (upTo (pageCount (n + 1))).map (pageCount (im.localBase (h / 2)) + ·)
  (if (p.liveOf im.stackBits).contains h then upTo (pageCount im.fI) else []) ++ local_

/-- The tiles of a launch: share zeroed, the generator keyed with the seed (R147, R164). -/
def State.launchTiles (s : State) (im : Image) : State :=
  ((maskStacks im.stackBits).flatMap s.plan.stackTiles).foldl (fun t n => t.updTile n fun x =>
    { x.scrubbed with rng := { x.scrubbed.rng with loaded := true, key := im.seed, lane := im.rngLane, rekey := im.rekey } }) s

/-- The JOB entry (R503). -/
def State.auditJob (s : State) (ring j : Nat) (digest : List Byte) (slot : Option Nat) (signer status : Nat) : State :=
  s.auditRing ring 0xF j (digest ++ natToBytes 1 (slot.getD 0xFF) ++ natToBytes 1 signer ++ natToBytes 1 status)

/-- Measurement of a launch in MR8 + s (R476). -/
def State.measureJob (s : State) (im : Image) (slot : Option Nat) : State :=
  let bind := match slot with | some n => digestBytes (s.keySlot n).binding | none => List.replicate 32 0
  (maskStacks im.stackBits).foldl (fun t k => (t.extendMr (8 + k) (digestBytes im.digest)).extendMr (8 + k) bind) s

/-- The job as a launch creates it. -/
def State.newJob (s : State) (f : InFlight) (im : Image) (slot : Option Nat) : Job :=
  let held := (f.u32 0x1C).testBit 0
  ⟨im, f.ring, f.idx, BitVec.ofNat 32 (f.u32 4), BitVec.ofNat 64 (f.u64 0x20), 0, 0, held, !held, none, s.policy.flags, slot, 0, none,
    none, 0, false⟩

/-- The steps after the checks: the job holds its stacks, its key is loaded and its fill starts, its tiles are prepared, and
the argument section is written, for which the launch may wait. -/
def State.startJob (s : State) (f : InFlight) (b : List Byte) : Whole State :=
  let im := imageOf b
  let j := f.jobId
  let slot := (s.bindable j).head?
  let (n, s0) := ((maskStacks im.stackBits).foldl State.wake s).draw
  let key := BitVec.ofNat 512 (bytesToNat (entropyBytes n 64))
  let hs := s0.plan.liveOf im.stackBits
  let s1 := s0.setJob j (s0.newJob f im slot)
  let s2 := { s1 with
    hbm.keys := hs.foldl (fun m h => smPut m h ⟨BitVec.ofNat 32 j, key⟩) s1.hbm.keys
    hbm.unfilled := hs.foldl (fun m h => smSet [] m h (s1.plan.pagesOn im h)) s1.hbm.unfilled }
  let s3 := match slot with
    | some q => s2.setKeySlot q { s2.keySlot q with state := .bound }
    | none => s2
  ((s3.measureJob im slot).launchTiles im).writeMem im byFirmware im.argBase (cut b (le b 0x104 4) im.argLength)

/-- LAUNCH (R347): checked, logged and started; its completion is posted when the job ends. -/
def State.runLaunch (s : State) (f : InFlight) : State :=
  let j := f.jobId
  if (s.job j).isSome then s
  else if s.auditReserve then s.refuseDesc f 0x3A
  else if !s.hostOk (f.u64 0x10) (f.u32 0x18) then
    ((s.auditJob f.ring j (List.replicate 32 0) none 0 0x32).hostError).refuseDesc f 0x32
  else
    let b := s.hostRead (f.u64 0x10) (f.u32 0x18)
    match s.launchCheck j b with
    | .error e => (s.auditJob f.ring j (sha256 b) none 0 e).refuseDesc f e
    | .ok k =>
      if s.testsOn (imageOf b).stackBits then s
      else
        match (s.auditJob f.ring j (sha256 b) (s.bindable j).head? k 0).startJob f b with
        | .error w => s.waits w
        | .ok s1 => s1

/-- LAUNCH. -/
def execLaunch (ring : Fin 64) (idx : BitVec 32) (s : State) : Out :=
  .next (s.runDesc ring idx 1 (fun _ => true) State.runLaunch)

/-! ## Dispatch (R147) -/

/-- SSUM of a group that starts (R121). -/
def startSsum : BitVec 128 := BitVec.ofNat 128 (2 + 0x7FF * 2 ^ 16 + 0x7F800000 * 2 ^ 64 + 0xFF800000 * 2 ^ 96)

/-- The kernel of a group (R350). -/
def Image.kernelOf (im : Image) (g : Nat) : Option Kernel := im.kernels.find? fun k => decide (k.first ≤ g) && decide (g < k.first + k.count)

/-- A group as it starts (R128, R121, R124). -/
def newGroup (j g : Nat) (k : Kernel) : Group where
  id := BitVec.ofNat 32 g
  job := BitVec.ofNat 32 j
  cls := k.cls
  live := 0xFFFFFFFF
  atBarrier := 0
  pc := (upTo 32).foldl (fun m l => smSet 0 m l (BitVec.ofNat 32 k.entry)) []
  regs := []
  vl := 0
  ssum := startSsum
  vacc := 0
  vaccTag := 0xFF
  engVl := 0
  engVacc := 0
  engVaccTag := 0xFF
  cstat := 0
  aflags := 0
  aout := 0
  vout := 0
  halted := false
  busy := []
  acks := []
  peerAcks := []
  stepped := false

/-- A parked tile asks for its ramp (R446). -/
def State.askRamp (s : State) (t : Nat) : State :=
  let g := s.region (t / 52) (t % 52)
  if (g.state matches .parked) && !g.waiting then s.setRegion (t / 52) (t % 52) { g with waiting := true, waitAt := none } else s

/-- GROUP_DISPATCH (R147, R446): the next group goes to a free slot of a working tile of a job that runs. -/
def execGroupDispatch (tile : Fin 416) (tgp : Fin 4) (slot : Fin 16) (s : State) : Out :=
  let t := tile.val
  let key := 16 * tgp.val + slot.val
  match s.jobOn (t / 52) with
  | none => .next s
  | some j =>
    match s.job j with
    | none => .next s
    | some v =>
      match v.image.kernelOf v.nextGroup with
      | none => .next s
      | some k =>
        if !v.runs || !s.tileOk t || v.image.groupsPerTgp ≤ slot.val || smHas (s.tile t).groups key ||
            !((s.tile t).power matches .on | .ramping | .parked) then .next s
        else
          let s1 := (s.setGroup t key (newGroup j v.nextGroup k)).askRamp t
          .next (s1.setJob j { v with nextGroup := v.nextGroup + 1 })

/-! ## The context (R151 to R154) -/

/-- Tiles of a job. -/
def State.jobTiles (s : State) (im : Image) : List Nat := (maskStacks im.stackBits).flatMap s.plan.stackTiles

/-- The geometry word (R152). -/
def Image.geometry (im : Image) : Nat :=
  128 + 32 * 2 ^ 16 + (if im.rngLane then 2 ^ 24 else 0) + (if im.rekey then 2 ^ 26 else 0) + 1024 * 2 ^ 32

/-- A group record (R154). -/
def Group.record (g : Group) (key nR : Nat) : List Byte :=
  natToBytes 4 g.id.toNat ++ natToBytes 1 key ++ natToBytes 1 nR ++ natToBytes 2 g.vl ++ natToBytes 4 g.live.toNat ++
  natToBytes 4 g.atBarrier.toNat ++ natToBytes 16 g.ssum.toNat ++ natToBytes 16 g.vacc.toNat ++ [g.vaccTag] ++
  natToBytes 1 g.cstat.toNat ++ natToBytes 1 g.aflags.toNat ++ natToBytes 13 0 ++
  ((upTo 32).flatMap fun l => natToBytes 4 (g.pcOf l)) ++
  (upTo nR).flatMap fun r => (upTo 32).flatMap fun l => natToBytes 4 (g.reg l r).toNat

/-- The 65,536 bytes of a face, all zero if unheld. -/
def Face.bytes (f : Face) : List Byte :=
  (upTo 4096).flatMap fun n =>
    if f.held then
      let w := smGet Wide.zero f.acc n
      natToBytes 16 (Wp96.encode ⟨w.int, f.anchor, w.flags⟩)
    else natToBytes 16 0

def Face.ownerId (f : Face) : Nat := if f.held then f.owner.toNat else 0xFFFFFFFF

/-- The slots of a tile that hold groups. -/
def Tile.slotMask (x : Tile) : Nat := x.groups.foldl (fun m e => m + 2 ^ e.1) 0

/-- A tile record (R153, R175). -/
def Tile.record (x : Tile) (t : Nat) (im : Image) : List Byte :=
  let gs := x.groups.flatMap fun e => e.2.record e.1 im.nR
  natToBytes 4 t ++ natToBytes 4 (0x20830 + im.share + gs.length) ++ natToBytes 8 x.slotMask ++ natToBytes 4 x.face0.ownerId ++
  natToBytes 4 x.face1.ownerId ++ natToBytes 8 x.rng.key.toNat ++ natToBytes 1 (if x.rng.lane then 1 else 0) ++ natToBytes 15 0 ++
  ((upTo 128).flatMap fun l => natToBytes 16 (if x.rng.lane then x.rng.ctr t l else 0)) ++ x.face0.bytes ++ x.face1.bytes ++
  x.share.readBytes 0 im.share ++ gs

/-- A tile that a context records: it holds groups or a face. -/
def Tile.recorded (x : Tile) : Bool := !x.groups.isEmpty || x.face0.held || x.face1.held

/-- The whole context with its digest (R151). -/
def State.contextOf (s : State) (v : Job) : List Byte :=
  let im := v.image
  let ts := (s.jobTiles im).filter fun t => (s.tile t).recorded
  let recs := ts.flatMap fun t => (s.tile t).record t im
  let b := natToBytes 4 0x43545831 ++ natToBytes 2 1 ++ natToBytes 2 ts.length ++ natToBytes 8 im.geometry ++
    natToBytes 8 (0xA0 + recs.length) ++ natToBytes 4 im.groups ++ natToBytes 4 v.nextGroup ++ natToBytes 1 im.l1Split ++
    natToBytes 1 im.nR ++ natToBytes 1 im.nV ++ [0] ++ natToBytes 4 im.lG ++ natToBytes 8 s.aon.toNat ++ digestBytes im.digest ++
    natToBytes 48 0 ++ recs
  b ++ sha256 b

/-! ## SUSPEND (R150, R342) -/

/-- A group waits for nothing in flight. -/
def Group.settled (g : Group) : Bool := g.busy.isEmpty && g.acks.isEmpty && g.peerAcks.isEmpty && g.aout == 0 && g.vout == 0

/-- Step 3 of R150 is over: nothing of the job is in flight on its tiles. -/
def State.drained (s : State) (im : Image) : Bool :=
  (s.jobTiles im).all fun t =>
    let x := s.tile t
    x.arrayQueue.isEmpty && x.arrayDone.isEmpty && x.vecQueue.isEmpty && x.vecDone.isEmpty && x.loads.isEmpty && x.stores.isEmpty &&
    (x.groups.all fun e => e.2.settled) && s.seqOutstanding t == 0 && !(s.sole.atomics.any fun a => a.tile == t) &&
    !(s.fabric.outstanding.any fun a => a.tile == t)

/-- The least CTX_LENGTH of a SUSPEND (R342). -/
def State.contextBound (s : State) (im : Image) : Nat :=
  0xA0 + (s.jobTiles im).length * (0x20830 + im.share + 64 * (192 + 128 * im.nR))

/-- A region of device memory, 64-byte aligned and inside the footprint. -/
def Image.region (im : Image) (a n : Nat) : Bool := a % 64 == 0 && decide (a + n ≤ im.footprint)

/-- What a suspended job leaves on a tile: its share and generator. -/
def Tile.suspended (x : Tile) : Tile := { x with groups := [], face0 := Face.free, face1 := Face.free }

/-- Another SUSPEND of the job is in progress (R150). -/
def State.otherSuspend (s : State) (f : InFlight) : Bool :=
  s.inflight.any fun e => e.started && e.opcode == 2 && e.jobId == f.jobId && !(e.ring == f.ring && e.idx == f.idx)

/-- SUSPEND: dispatch and issue stop; once what is in flight has completed, L1 is written back and the context is written. -/
def State.runSuspend (s : State) (f : InFlight) : State :=
  match s.job f.jobId with
  | none => s
  | some v =>
    let a := f.u64 0x10
    let n := f.u64 0x18
    if v.ended.isSome then s
    else if v.suspended || s.otherSuspend f || !v.image.region a n || n < s.contextBound v.image then s.refuseDesc f 2
    else
      let s1 := s.setJob f.jobId { v with suspending := true }
      if !s1.drained v.image then s1
      else
        let on := fun k => v.image.stackBits.getLsbD k
        let s2 := (s1.jobTiles v.image).foldl (fun t n => if h : n < 416 then t.flushL1 ⟨n, h⟩ false else t) (s1.unpark on)
        let c := s2.contextOf v
        match s2.writeMem v.image byFirmware a c with
        | .error w => s1.waits w
        | .ok s3 =>
          if !s3.present f.jobId then s3 else
          let s4 := (s3.jobTiles v.image).foldl (fun t n => t.updTile n Tile.suspended) s3
          let s5 := if s4.mgt.bar2Job.toNat = f.jobId && !s4.jobFlag v 6 then { s4 with mgt.bar2Job := 0 } else s4
          (s5.updJob f.jobId fun w => { w with suspended := true, suspending := false, context := some (a, n) }).okDesc f c.length

/-- SUSPEND. -/
def execSuspend (ring : Fin 64) (idx : BitVec 32) (s : State) : Out :=
  .next (s.runDesc ring idx 2 (fun _ => true) State.runSuspend)

/-! ## RESUME (R155, R177) -/

/-- Slots of a mask, ascending. -/
def maskSlots (m : Nat) : List Nat := (upTo 64).filter fun n => m.testBit n

/-- A tile record of a context: where it begins and its length. -/
def recordsOf (b : List Byte) : Nat → Nat → List (Nat × Nat)
  | 0, _ => []
  | n + 1, o => (o, le b (o + 4) 4) :: recordsOf b n (o + le b (o + 4) 4)

/-- The bytes a record must have. -/
def recordLength (b : List Byte) (im : Image) (o : Nat) : Nat :=
  0x20830 + im.share + (maskSlots (le b (o + 8) 8)).length * (192 + 128 * im.nR)

/-- Records follow one another in ascending source-tile order, with the lengths they must have. -/
def recordsOk (b : List Byte) (im : Image) : Nat → List (Nat × Nat) → Bool
  | _, [] => true
  | low, (o, n) :: l => decide (low ≤ le b o 4) && n == recordLength b im o && recordsOk b im (le b o 4 + 1) l

/-- The group records of a tile record: slot and offset. -/
def groupsOf (b : List Byte) (im : Image) (o : Nat) : List (Nat × Nat) :=
  let ks := maskSlots (le b (o + 8) 8)
  (ks.zip (upTo ks.length)).map fun e => (e.1, o + 0x20830 + im.share + e.2 * (192 + 128 * im.nR))

/-- FORMAT, VERSION, LENGTH and the digest agree (R155). -/
def contextForm (b : List Byte) (im : Image) : Bool :=
  let n := b.length
  let rs := recordsOf b (le b 6 2) 0x80
  decide (0xA0 ≤ n) && decide (le b 0 4 = 0x43545831) && decide (le b 4 2 = 1) && decide (le b 6 2 ≤ 416) && le b 0x10 8 == n &&
  recordsOk b im 0 rs && n == 0xA0 + (rs.map Prod.snd).foldl (· + ·) 0 && decide (cut b (n - 32) 32 = sha256 (b.take (n - 32))) &&
  decide (le b 8 8 / 2 ^ 24 % 4 < 2)

/-- The checks of R155 after the first: the status of the first that fails. -/
def State.contextCheck (s : State) (b : List Byte) (im : Image) : Option Nat :=
  let g := le b 8 8
  let rs := recordsOf b (le b 6 2) 0x80
  if !contextForm b im then some 2
  else if cut b 0x30 32 ≠ digestBytes im.digest then some 2
  else if g / 2 ^ 16 % 256 ≠ 32 then some 6
  else if rs.any fun r => (groupsOf b im r.1).any fun e => decide (1024 < le b (e.2 + 6) 2) then some 6
  else if g / 2 ^ 24 % 4 = 1 && g % 65536 ≠ 128 && !g.testBit 26 then some 6
  else if (s.jobTiles im).length < le b 6 2 then some 4
  else none

/-- A group restored from its record (R154). -/
def restoreGroup (b : List Byte) (j : Nat) (im : Image) (o : Nat) : Group :=
  let id := le b o 4
  let cls := match im.kernelOf id with | some k => k.cls | none => 0
  let vl := le b (o + 6) 2
  let vacc := BitVec.ofNat 128 (le b (o + 0x20) 16)
  let tag := BitVec.ofNat 8 (le b (o + 0x30) 1)
  { newGroup j id ⟨0, 0, 0, cls⟩ with
    live := BitVec.ofNat 32 (le b (o + 8) 4), atBarrier := BitVec.ofNat 32 (le b (o + 0xC) 4)
    ssum := BitVec.ofNat 128 (le b (o + 0x10) 16), vl := vl, engVl := vl, vacc := vacc, engVacc := vacc, vaccTag := tag, engVaccTag := tag
    cstat := BitVec.ofNat 4 (le b (o + 0x31) 1), aflags := BitVec.ofNat 5 (le b (o + 0x32) 1)
    pc := (upTo 32).foldl (fun m l => smSet 0 m l (BitVec.ofNat 32 (le b (o + 0x40 + 4 * l) 4))) []
    regs := (upTo im.nR).foldl (fun m r => (upTo 32).foldl
      (fun m l => smSet 0 m (32 * r + l) (BitVec.ofNat 32 (le b (o + 0xC0 + 128 * r + 4 * l) 4))) m) [] }

/-- A face restored from its bytes, held by the group of the record that it names. -/
def restoreFace (b : List Byte) (o owner : Nat) (gs : List (Nat × Group)) : Face :=
  match gs.find? fun e => e.2.id.toNat == owner with
  | none => Face.free
  | some (key, g) =>
    ⟨true, g.id, key, (Wp96.decode (le b o 16)).anchor, (upTo 4096).foldl (fun m n =>
      smSet Wide.zero m n (Wp96.decode (le b (o + 16 * n) 16)).wide) []⟩

/-- N of R177: the greatest v mod 2^64 of the context's lanes, rounded up to a multiple of 32. -/
def rekeyBase (b : List Byte) (rs : List (Nat × Nat)) : Nat :=
  let m := (rs.flatMap fun r => (upTo 128).map fun l => le b (r.1 + 0x30 + 16 * l) 16 % 2 ^ 64).foldl max 0
  (m + 31) / 32 * 32

/-- The generator of a restored tile (R176, R177): the counters bit for bit, or derived from the key anew. A tile's lanes
keep the ranges of the tile t0 where they started (R168, R171), which lane 0 shows even at its range's end. -/
def restoreRng (x : Rng) (b : List Byte) (im : Image) (t o : Nat) (rekey : Option Nat) : Rng :=
  let base := { x with loaded := true, key := BitVec.ofNat 64 (le b (o + 0x18) 8), lane := im.rngLane, rekey := im.rekey, lanes := [], ranges := [] }
  if !im.rngLane then base
  else
    (upTo 128).foldl (fun (g : Rng) l =>
      let v := match rekey with | some n => (128 * t + l) * 2 ^ 64 + n | none => le b (o + 0x30 + 16 * l) 16
      let t0 := match rekey with | some _ => t | none => le b (o + 0x30) 16 / 2 ^ 64 / 128
      { g.setCtr l v with ranges := if t0 = t then g.ranges else smPut g.ranges l (128 * t0 + l) }) base

/-- A tile of the job without a record: it holds the key and mode as every tile of the job does (R164, R174), and under
re-derivation its lanes start anew too (R177). -/
def Rng.rejoin (x : Rng) (im : Image) (t : Nat) (rekey : Option Nat) : Rng :=
  let base := { x with loaded := true, key := im.seed, lane := im.rngLane, rekey := im.rekey }
  match rekey with
  | none => base
  | some n => (upTo 128).foldl (fun g l => g.setCtr l ((128 * t + l) * 2 ^ 64 + n)) { base with lanes := [], ranges := [] }

/-- One tile record restored onto a tile. -/
def State.restoreTile (s : State) (b : List Byte) (j : Nat) (im : Image) (rekey : Option Nat) (o t : Nat) : State :=
  let gs := (groupsOf b im o).map fun e => (e.1, restoreGroup b j im e.2)
  s.updTile t fun x =>
    { x with
      share := Memory.writeBytes [] 0 (cut b (o + 0x20830) im.share), rng := restoreRng x.rng b im t o rekey
      face0 := restoreFace b (o + 0x830) (le b (o + 0x10) 4) gs, face1 := restoreFace b (o + 0x10830) (le b (o + 0x14) 4) gs
      groups := gs.foldl (fun m e => smPut m e.1 e.2) [] }

/-- The tiles that receive the records: the source tile where it works in the job's stacks, else the lowest one left. -/
def placeRecords (b : List Byte) (rs : List (Nat × Nat)) (tiles : List Nat) : List (Nat × Nat) :=
  let srcs := rs.map fun r => le b r.1 4
  let free := tiles.filter fun t => !srcs.contains t
  (rs.foldl (fun (acc : List (Nat × Nat) × List Nat) r =>
    let src := le b r.1 4
    if tiles.contains src then (acc.1 ++ [(r.1, src)], acc.2)
    else match acc.2 with
      | [] => acc
      | t :: l => (acc.1 ++ [(r.1, t)], l)) ([], free)).1

/-- RESUME: the context is read and checked, the records are restored, and dispatch goes on. -/
def State.runResume (s : State) (f : InFlight) : State :=
  match s.job f.jobId with
  | none => s
  | some v =>
    let im := v.image
    let a := f.u64 0x10
    let n := f.u64 0x18
    if v.ended.isSome then s
    else if !v.suspended || !im.region a n || n < 0xA0 then s.refuseDesc f 2
    else
      match s.readMem im byFirmware a 0x80 with
      | .error w => s.waits w
      | .ok (h, s1) =>
        if !s1.present f.jobId then s1 else
        let len := le h 0x10 8
        if len < 0xA0 || n < len then s1.refuseDesc f 2
        else
          match s1.readMem im byFirmware a len with
          | .error w => s.waits w
          | .ok (b, s2) =>
            if !s2.present f.jobId then s2 else
            match s2.contextCheck b im with
            | some e => s2.refuseDesc f e
            | none =>
              let lanes := le b 8 8 % 65536
              let rs := recordsOf b (le b 6 2) 0x80
              let rekey := if im.rngLane && lanes ≠ 128 then some (rekeyBase b rs) else none
              if rekey.isSome && s2.auditReserve then s2.refuseDesc f 0x3A
              else
                let s3 := if rekey.isSome then s2.auditRing f.ring 0x11 f.jobId (natToBytes 4 lanes ++ natToBytes 4 128) else s2
                let s4 := ((maskStacks im.stackBits).foldl State.wake s3).unpark fun k => im.stackBits.getLsbD k
                let s4 := (s4.jobTiles im).foldl (fun u t => u.updTile t fun x => { x with rng := x.rng.rejoin im t rekey }) s4
                let s5 := (placeRecords b rs (s4.jobTiles im)).foldl (fun t e => t.restoreTile b f.jobId im rekey e.1 e.2) s4
                let next := le b 0x1C 4
                let held := (rs.map fun r => (groupsOf b im r.1).length).foldl (· + ·) 0
                (s5.setJob f.jobId { v with
                  suspended := false, everStarted := true, context := none, nextGroup := next, exited := next - held }).okDesc f 0

/-- RESUME. -/
def execResume (ring : Fin 64) (idx : BitVec 32) (s : State) : Out :=
  .next (s.runDesc ring idx 3 (fun _ => true) State.runResume)

/-! ## ABORT (R345, R348) -/

/-- ABORT: decides the end; it completes once the LAUNCH completion is posted. -/
def execAbort (ring : Fin 64) (idx : BitVec 32) (s : State) : Out :=
  .next (s.runDesc ring idx 4 (fun _ => true) fun t f =>
    match t.job f.jobId with
    | none => t
    | some v => t.endJob f.jobId (JobEnd.plain 0xA t.aon v.image.stackBits))

end Sys2Proof.Machine
end

