-- ==== Sys2Proof/Machine/Debug.lean ====
section
/-! DEFINITION. DEBUG (R148, R149): halting, reading, stepping and releasing a thread group, and the instruction that the code
section of an image holds at a PC (R129). -/

namespace Sys2Proof.Machine

/-! ## The instruction at a PC (R129, R107) -/

/-- A row of an instruction. -/
abbrev Row := Site → BitVec 52 → State → Out

/-- The OPs of the classes, in the order of their codes. -/
def classRows (cls : Nat) : List Row :=
  match cls with
  | 0 => [execAdd, execSub, execMul, execMulhi, execMulhu, execAndI, execOrI, execXorI, execShl, execShr, execShra, execMinI, execMaxI,
      execMinu, execMaxu, execSetI, execSel, execPopc, execClz]
  | 1 => [execFadd, execFsub, execFmul, execFfma, execFmin, execFmax, execFabs, execFneg, execFset]
  | 2 => [execCvt]
  | 3 => [execMovi, execMovs]
  | 4 => [execLdl, execStl]
  | 5 => [execLdg, execStg]
  | 6 => [execAadd, execAmin, execAmax, execAminu, execAmaxu, execAand, execAor, execAxor, execAfadd, execAwadd, execAcas, execAexch]
  | 7 => [execFence, execBar, execWaita, execWaitv]
  | 8 => [execNop, execBra, execBrz, execBrnz, execBrs, execCall, execJmp, execExitT, execTrap]
  | 0xA => [execSeqOpen, execSeqAppend, execSeqGather, execSeqFree, execSeqQuery]
  | 0xB => [execRngv]
  | _ => []

/-- The vector operations by VOP: 0x00 on, 0x20 on, 0x30 on and 0x38 on. -/
def vectorRows (base : Nat) : List (Site → BitVec 50 → State → Out) :=
  match base with
  | 0 => [execVsetvl, execVadd, execVsub, execVmul, execVfma, execVmin, execVmax, execVabs, execVneg, execVand, execVor, execVxor, execVshl,
      execVshr, execVcmpeq, execVcmplt, execVcmple, execVcmpgt, execVsel, execVexp2, execVrcp, execVrsqrt]
  | 0x20 => [execVcvt, execVld, execVst, execVlds, execVsts, execVgather, execVscatter]
  | 0x30 => [execVscani, execVscanx, execVred, execVcompress, execVsum]
  | 0x38 => [execVwscani, execVwscanx, execVwred, execVwadd, execVwrealign]
  | _ => []

/-- The row of a VOP. -/
def vectorRow (vop : Nat) : Option (Site → BitVec 50 → State → Out) :=
  if vop < 0x20 then (vectorRows 0)[vop]?
  else if vop < 0x30 then (vectorRows 0x20)[vop - 0x20]?
  else if vop < 0x38 then (vectorRows 0x30)[vop - 0x30]?
  else (vectorRows 0x38)[vop - 0x38]?

/-- The state a command answers with. -/
def State.after (s : State) (o : Out) : State := match o with | .next t => t | .fault _ => s | .refused _ => s

/-- The operation that the AOD of an ENGINE instruction names: of the thread that gives its base (R72, R94). -/
def State.aodRow (s : State) (site : Site) (w : Nat) : Row :=
  let g := s.groupAt site.tile.val site.tgp.val site.slot.val
  let r := match g with | some v => ((v.reg ((v.setOf site.lane.val [insRA w]).headD 0) (insRA w))).toNat | none => 0
  match (s.tile site.tile.val).share.readNat (toBits 32 (r + signed 16 (insOFF w))) 1 % 16 with
  | 1 => execEwmul
  | 2 => execEwadd
  | _ => execMma

/-- A SEQ instruction with a reserved OP: the fault 0x2D (R293). -/
def State.issueReservedSeq (s : State) (site : Site) (w : Nat) : State :=
  match s.issueAt site.tile.val site.tgp.val site.slot.val site.lane.val w [insRA w] with
  | none => s
  | some i =>
    let s1 := s.cntTile i.t 0x100 1
    if !i.job.pcOk i.pc || decide (i.job.image.nR ≤ insRA w) then s1.insFault i 0x25 0
    else s1.insFault i 0x2D (i.scalar (insRA w)).toNat

/-- Issues the instruction of a word at a site; a reserved class or OP is the fault 0x25 (R129), of class SEQ 0x2D (R293), of
class RNG 0x29 (R172), a reserved VOP 0x23 (R107). -/
def State.runWord (s : State) (site : Site) (w : Nat) : State :=
  let cls := w / 2 ^ 58
  let op := w / 2 ^ 52 % 64
  if cls = 0x10 then
    match vectorRow (w / 2 ^ 50 % 256) with
    | some f => s.after (f site (BitVec.ofNat 50 w) s)
    | none => s.acceptVec site w 0 [] 0x23 (fun _ => true) (fun _ _ => false) false
  else
    let row := if cls = 9 && op = 0 then some (s.aodRow site w) else (classRows cls)[op]?
    match row with
    | some f => s.after (f site (BitVec.ofNat 52 w) s)
    | none =>
      if cls = 0xA then s.issueReservedSeq site w
      else if cls = 0xB then s.acceptVec site w 0 [] 0x29 (fun _ => true) (fun _ _ => false) false
      else s.issueIns site w ⟨0, 0, 0, 0, false, false, false, 0, false, false⟩ fun _ t => t

/-- The word of a job's code at a PC; 0, a reserved word of no class, is never fetched outside the code section, which the
issue refuses (R129). -/
def Job.codeWord (v : Job) (pc : Nat) : Nat := bytesToNat ((v.image.code.drop pc).take 8)

/-! ## The operations (R148) -/

def InFlight.debugOp (f : InFlight) : Nat := f.u8 0x10
def InFlight.debugLane (f : InFlight) : Nat := f.u8 0x11 % 32
def InFlight.debugGroup (f : InFlight) : Nat := f.u32 0x14
/-- A row serves its own operation; a reserved one is refused by any of them. -/
def InFlight.debugMine (op : Nat) (f : InFlight) : Bool := f.debugOp == op || f.debugOp == 0 || decide (5 ≤ f.debugOp)

/-- A resident group of a job by its identifier: tile and slot. -/
def State.findGroup (s : State) (j id : Nat) : Option (Nat × Nat × Group) :=
  s.tiles.findSome? fun e =>
    (e.2.groups.find? fun x => x.2.job.toNat == j && x.2.id.toNat == id).map fun x => (e.1, x.1, x.2)

/-- Bytes that READ writes. -/
def Image.readLength (im : Image) : Nat := 192 + 128 * im.nR + 4096 * im.nV

/-- DEBUG_TARGET (R148). -/
def State.badTarget (s : State) (f : InFlight) : State := s.refuseDesc f 0x28

/-- Runs a DEBUG operation: the checks of R341 and R342, the policy (R148, R492, R496), the audit entry, and then the operation
on the group, if it is resident. An operation that has started goes on without them. -/
def State.runDebug (s : State) (ring : Fin 64) (idx : Word) (op : Nat) (go : State → InFlight → Job → Nat × Nat × Group → State) : State :=
  s.runDesc ring idx 0xE (InFlight.debugMine op) fun t f =>
    match t.job f.jobId with
    | none => t
    | some v =>
      let run := fun (u : State) => match u.findGroup f.jobId f.debugGroup with
        | some g => go u f v g
        | none => if f.started then u.okDesc f 0 else u.badTarget f
      if v.ended.isSome then t
      else if f.started then run t
      else if f.debugOp ≠ op || (op = 2 && f.u32 0x20 < v.image.readLength) then t.refuseDesc f 2
      else if v.keySlot.isSome || !t.jobFlag v 2 then (t.cntDbg 0x108 1).refuseDesc f 1
      else if t.auditReserve then t.refuseDesc f 0x3A
      else
        run ((t.auditRing f.ring 0xD f.jobId (natToBytes 4 f.debugGroup ++ natToBytes 1 op ++ natToBytes 1 f.debugLane)).cntDbg 0x100 1)

/-- DEBUG_HALT: the group issues no more; it completes once every register result has landed. -/
def execDebugHalt (ring : Fin 64) (idx : BitVec 32) (s : State) : Out :=
  .next (s.runDebug ring idx 1 fun t f _ (n, key, g) =>
    if g.halted && !f.started then t.badTarget f
    else
      let t1 := t.setGroup n key { g with halted := true }
      if g.busy.isEmpty then t1.okDesc f 0 else t1)

/-- DEBUG_READ: the group record and the vector registers of a halted group. -/
def execDebugRead (ring : Fin 64) (idx : BitVec 32) (s : State) : Out :=
  .next (s.runDebug ring idx 2 fun t f v (n, key, g) =>
    if !g.halted then t.badTarget f
    else
      let b := g.record key v.image.nR ++ (t.tile n).share.readBytes (v.image.lsBase (key / 16) (key % 16)) (4096 * v.image.nV)
      if t.hostOk (f.u64 0x18) b.length then (t.hostWrite (f.u64 0x18) b).okDesc f b.length else t.hostFailed f)

/-- A stepped group's result is visible. -/
def Group.stepDone (g : Group) (w : Nat) : Bool :=
  decide (9 ≤ w / 2 ^ 58) || (g.busy.isEmpty && g.acks.isEmpty && g.peerAcks.isEmpty)

/-- Issues the next instruction of the set of a lane of a halted group: it waits while the set is not runnable. Where the
instruction decides the job's end, the end completes the descriptor (R345). -/
def State.stepGroup (s : State) (f : InFlight) (v : Job) (n key : Nat) (g : Group) : State :=
  let lane := f.debugLane
  let w := v.codeWord (g.pcOf lane)
  let site : Site := ⟨Fin.ofNat 416 n, Fin.ofNat 4 (key / 16), Fin.ofNat 16 key, Fin.ofNat 32 lane⟩
  let s1 := s.setGroup n key { g with halted := false }
  let s2 := s1.runWord site w
  if s2.tile n = s1.tile n then s
  else
    match smFind (s2.tile n).groups key with
    | none => s2.okDesc f 0
    | some h =>
      if !s2.present f.jobId then s2.setGroup n key { h with halted := true, stepped := true }
      else if h.stepDone w then (s2.setGroup n key { h with halted := true }).okDesc f 0
      else s2.setGroup n key { h with halted := true, stepped := true }

/-- DEBUG_STEP: one instruction of the set of the named lane; it completes once the result is visible. -/
def execDebugStep (ring : Fin 64) (idx : BitVec 32) (s : State) : Out :=
  .next (s.runDebug ring idx 3 fun t f v (n, key, g) =>
    if g.stepped then
      if g.stepDone 0 then (t.setGroup n key { g with stepped := false }).okDesc f 0 else t
    else if !g.halted || !g.isLive f.debugLane then t.badTarget f
    else t.stepGroup f v n key g)

/-- DEBUG_STEP_TIMEOUT: a step whose set was not runnable in time fails, and nothing has issued. -/
def execDebugStepTimeout (ring : Fin 64) (idx : BitVec 32) (s : State) : Out :=
  match s.findDesc ring.val idx with
  | none => .next s
  | some f =>
    if f.opcode ≠ 0xE || f.debugOp ≠ 3 || !f.started then .next s
    else
      match s.findGroup f.jobId f.debugGroup with
      | some (_, _, g) => .next (if g.stepped then s else s.badTarget f)
      | none => .next s

/-- DEBUG_RELEASE: the group resumes. -/
def execDebugRelease (ring : Fin 64) (idx : BitVec 32) (s : State) : Out :=
  .next (s.runDebug ring idx 4 fun t f _ (n, key, g) =>
    if g.halted then (t.setGroup n key { g with halted := false, stepped := false }).okDesc f 0 else t.badTarget f)

end Sys2Proof.Machine
end

