-- ==== Sys2Proof/Machine/Dma.lean ====
section
/-! DEFINITION. Descriptors that move a job's data: DMA (R342, R211 to R213, R493, R494), SEQ_OP (R291), and the BAR2 window
(R326). -/

namespace Sys2Proof.Machine

/-! ## DMA: what every operation checks (R342) -/

def InFlight.dmaOp (f : InFlight) : Nat := f.u8 0x10
def InFlight.src (f : InFlight) : Nat := f.u64 0x18
def InFlight.dst (f : InFlight) : Nat := f.u64 0x20
def InFlight.len (f : InFlight) : Nat := f.u64 0x28

/-- A row serves its own operation; a reserved operation is refused by any of them. -/
def InFlight.dmaMine (op : Nat) (f : InFlight) : Bool := f.dmaOp == op || decide (5 ≤ f.dmaOp)

/-- Its transfers travel as its ring's master, in the class of the descriptor (R297, R300, R342). -/
def InFlight.dmaBy (f : InFlight) : By := byRing f.ring (f.u8 0x11)

/-- LENGTH is 1 to 2^40, and a device range lies in the footprint. -/
def InFlight.lengthOk (f : InFlight) : Bool := decide (1 ≤ f.len) && decide (f.len ≤ 2 ^ 40)
def Image.inside (im : Image) (a n : Nat) : Bool := decide (a + n ≤ im.footprint)

/-- Runs a DMA of an operation on its job; nothing once the job's end is decided. -/
def State.runDma (s : State) (f : InFlight) (body : State → Job → State) : State :=
  match s.job f.jobId with
  | none => s
  | some v => if v.ended.isSome then s else if 5 ≤ f.dmaOp || !f.lengthOk then s.refuseDesc f 2 else body s v

/-! ## Sealed records (R493, R494) -/

/-- The IV of a record: direction 0 for H2D, 1 for D2H. -/
def sealIv (job dir counter : Nat) : List Byte := natToBytes 12 (job * 2 ^ 64 + dir * 2 ^ 63 + counter)

/-- The session key of a sealed job. -/
def State.sealKey (s : State) (slot : Nat) : List Byte := digestBytes (s.keySlot slot).sessionKey

/-- DATA_LEN of record r of a transfer. -/
def dataLen (len r : Nat) : Nat := min 4096 (len - 4096 * r)
def recordCount (len : Nat) : Nat := (len + 4095) / 4096

/-- How a run of records ends. -/
inductive SealRun where
  | done (s : State)
  | failed (s : State)
  | host (s : State)
  /-- An access of the run ended the job (R265): the descriptor is aborted with it (R345). -/
  | ended (s : State)
  | wait (w : Option Nat)

/-- Checks and writes the H2D records from `r` on. -/
def State.openRecords (b0 : By) (j : Nat) (im : Image) (slot src dst len : Nat) : Nat → Nat → State → SealRun
  | 0, _, s => .done s
  | n + 1, r, s =>
    let a := src + 4160 * r
    let da := dst + 4096 * r
    let dl := dataLen len r
    if !s.hostOk a 4160 then .host s
    else
      let b := s.hostRead a 4160
      let c := le b 0 8
      let old := match s.job j with | some v => v.h2dHighest | none => none
      let fresh := match old with | some h => decide (h < c) | none => true
      if !fresh || decide (2 ^ 63 ≤ c) || le b 8 4 ≠ dl then .failed s
      else
        match gcmOpen (s.sealKey slot) (sealIv j 0 c) (b.take 16 ++ natToBytes 8 da) ((b.drop 16).take dl) ((b.drop 0x1010).take 16) 16 with
        | none => .failed s
        | some pt =>
          match s.writeMem im b0 da pt with
          | .error w => .wait w
          | .ok s1 =>
            if !s1.present j then .ended s1
            else State.openRecords b0 j im slot src dst len n (r + 1)
              ((s1.updJob j fun v => { v with h2dHighest := some c }).cntSec 0x110 1)

/-- Seals and writes the D2H records from `r` on. -/
def State.sealRecords (b0 : By) (j : Nat) (im : Image) (slot src dst len : Nat) : Nat → Nat → State → SealRun
  | 0, _, s => .done s
  | n + 1, r, s =>
    let a := dst + 4160 * r
    let da := src + 4096 * r
    let dl := dataLen len r
    match s.readMem im b0 da dl with
    | .error w => .wait w
    | .ok (pt, s1) =>
      if !s1.present j then .ended s1 else
      let c := match s1.job j with | some v => v.d2hCounter | none => 0
      let head := natToBytes 8 c ++ natToBytes 4 dl ++ natToBytes 4 0
      let (ct, tag) := gcmSeal (s1.sealKey slot) (sealIv j 1 c) (head ++ natToBytes 8 da) pt
      if !s1.hostOk a 4160 then .host s1
      else
        State.sealRecords b0 j im slot src dst len n (r + 1)
          (((s1.hostWrite a (head ++ ct ++ natToBytes (4096 - dl) 0 ++ tag ++ natToBytes 32 0)).updJob j fun v =>
            { v with d2hCounter := c + 1 }).cntSec 0x110 1)

/-- The completion of a sealed transfer. -/
def State.sealDone (s : State) (f : InFlight) (x : SealRun) : State :=
  match x with
  | .done t => t.okDesc f f.len
  | .failed t => (t.cntSec 0x118 1).refuseDesc f 0x39
  | .host t => t.hostFailed f
  | .ended t => t
  | .wait w => s.waits w

/-! ## H2D, D2H, D2D -/

/-- DMA H2D: host bytes, or the sealed records of a sealed job, into device memory but no pool (R276). -/
def execDmaH2d (ring : Fin 64) (idx : BitVec 32) (s : State) : Out :=
  .next (s.runDesc ring idx 5 (InFlight.dmaMine 0) fun t f => t.runDma f fun t v =>
    if !v.image.inside f.dst f.len || v.image.inPool f.dst f.len then t.refuseDesc f 2
    else
      match v.keySlot with
      | some q => t.sealDone f (State.openRecords f.dmaBy f.jobId v.image q f.src f.dst f.len (recordCount f.len) 0 t)
      | none =>
        if !t.hostOk f.src f.len then t.hostFailed f
        else
          match t.writeMem v.image f.dmaBy f.dst (t.hostRead f.src f.len) with
          | .error w => t.waits w
          | .ok t1 => if !t1.present f.jobId then t1 else t1.okDesc f f.len)

/-- Two ranges share a byte. -/
def rangesMeet (a n b m : Nat) : Bool := decide (a < b + m) && decide (b < a + n)

/-- A D2H that CONTEXT_OUT forbids: the job is suspended, and the range overlaps its context (R498). -/
def State.contextHeld (s : State) (v : Job) (a n : Nat) : Bool :=
  v.suspended && !s.jobFlag v 6 && (match v.context with | some c => rangesMeet a n c.1 c.2 | none => false)

/-- Writes bytes to host memory in units of 64 until one fails: whether all landed. -/
def State.hostPut : Nat → Nat → List Byte → State → Bool × State
  | 0, _, _, s => (true, s)
  | n + 1, a, bs, s =>
    if bs.isEmpty then (true, s)
    else
      let c := bs.take 64
      if s.hostOk a c.length then State.hostPut n (a + 64) (bs.drop 64) (s.hostWrite a c) else (false, s)

/-- DMA D2H: device memory to host memory, sealed for a sealed job. -/
def execDmaD2h (ring : Fin 64) (idx : BitVec 32) (s : State) : Out :=
  .next (s.runDesc ring idx 5 (InFlight.dmaMine 1) fun t f => t.runDma f fun t v =>
    if !v.image.inside f.src f.len then t.refuseDesc f 2
    else if t.contextHeld v f.src f.len then t.refuseDesc f 1
    else
      match v.keySlot with
      | some q => t.sealDone f (State.sealRecords f.dmaBy f.jobId v.image q f.src f.dst f.len (recordCount f.len) 0 t)
      | none =>
        match t.readMem v.image f.dmaBy f.src f.len with
        | .error w => t.waits w
        | .ok (bs, t1) =>
          if !t1.present f.jobId then t1 else
          let (ok, t2) := State.hostPut (bs.length / 64 + 1) f.dst bs t1
          if ok then t2.okDesc f f.len else t2.hostFailed f)

/-- DMA D2D: between ranges of the job that do not overlap. -/
def execDmaD2d (ring : Fin 64) (idx : BitVec 32) (s : State) : Out :=
  .next (s.runDesc ring idx 5 (InFlight.dmaMine 2) fun t f => t.runDma f fun t v =>
    if !v.image.inside f.src f.len || !v.image.inside f.dst f.len || rangesMeet f.src f.len f.dst f.len ||
        v.image.inPool f.dst f.len then t.refuseDesc f 2
    else
      match t.readMem v.image f.dmaBy f.src f.len with
      | .error w => t.waits w
      | .ok (bs, t1) =>
        if !t1.present f.jobId then t1 else
        match t1.writeMem v.image f.dmaBy f.dst bs with
        | .error w => t.waits w
        | .ok t2 => if !t2.present f.jobId then t2 else t2.okDesc f f.len)

/-! ## TACK and UNTACK (R211 to R213) -/

/-- The lines of a range of a job's memory. -/
def State.rangeLines (s : State) (im : Image) (a n : Nat) : List Nat :=
  (upTo (n / 256)).filterMap fun i => (s.plan.place im (a + 256 * i)).map Place.line

/-- A range that TACK and UNTACK accept. -/
def InFlight.tackRange (f : InFlight) (im : Image) : Bool := f.dst % 256 == 0 && f.len % 256 == 0 && im.inside f.dst f.len

/-- Serves a request on every line of a list. -/
def State.serveAll (im : Image) (b : By) : List (Nat × Request) → State → Whole State
  | [], s => .ok s
  | (l, r) :: ls, s =>
    match s.serveNow im b l r with
    | .error w => .error w
    | .ok s1 => if !s1.lineLive l then .ok s1 else State.serveAll im b ls s1

/-- The TACKs of some lines in the forms that they have now (R210): the blocks to be filled long come first. -/
def State.tackList (s : State) (im : Image) (ls : List Nat) : List (Nat × Request) :=
  let long := fun l => s.tacksLong im l && !(s.soleLine l).present
  (ls.filter long).map (fun l => (l, Request.tack true)) ++ (ls.filter fun l => !long l).map fun l => (l, .tack false)

/-- DMA TACK: the quota of the whole range first, then every line is filled and tacked. -/
def execDmaTack (ring : Fin 64) (idx : BitVec 32) (s : State) : Out :=
  .next (s.runDesc ring idx 5 (InFlight.dmaMine 3) fun t f => t.runDma f fun t v =>
    if !f.tackRange v.image then t.refuseDesc f 2
    else
      let ls := t.rangeLines v.image f.dst f.len
      if !t.tackAllowed v.image ls then
        { t with sole.refusals := BitVec.ofNat 32 (satAdd32 t.sole.refusals.toNat 1) }.refuseDesc f 7
      else
        match State.serveAll v.image f.dmaBy (t.tackList v.image ls) t with
        | .error w => t.waits w
        | .ok t1 => if !t1.present f.jobId then t1 else t1.okDesc f f.len)

/-- DMA UNTACK. -/
def execDmaUntack (ring : Fin 64) (idx : BitVec 32) (s : State) : Out :=
  .next (s.runDesc ring idx 5 (InFlight.dmaMine 4) fun t f => t.runDma f fun t v =>
    if !f.tackRange v.image then t.refuseDesc f 2
    else
      match State.serveAll v.image f.dmaBy ((t.rangeLines v.image f.dst f.len).map fun l => (l, .untack)) t with
      | .error w => t.waits w
      | .ok t1 => if !t1.present f.jobId then t1 else t1.okDesc f f.len)

/-! ## SEQ_OP (R291) -/

def InFlight.seqCode (f : InFlight) : Nat := f.u8 0x10
def InFlight.block (f : InFlight) : Nat := descField f.bytes 0x20 32
def InFlight.seqMine (op : Nat) (f : InFlight) : Bool := f.seqCode == op || !([0, 3, 4].contains f.seqCode)

/-- A job-fatal fault of a host operation on a malformed list, and its completion; where an access has ended the job, the
descriptor is aborted with it. -/
def State.seqFaulted (s : State) (f : InFlight) : State :=
  if !s.present f.jobId then s else (s.jobFault f.jobId 0x2F FaultSite.none [] 0xFFFFFFFF).complete f.ring f.idx 3 0x2F 0

/-- An engine cannot take a host operation: its queue is full, or an operation it has accepted on the descriptor is not complete
(R289). -/
def State.seqBusy (s : State) (dn : Nat) : Bool :=
  decide (1024 ≤ s.seqQueued (dn / 131072)) ||
    s.seq.ops.any fun o => o.stack == dn / 131072 && o.block.any fun b => blockField b.toNat 0 4 == dn

/-- The checks of a SEQ_OP, then its effect under the header of the dispatch firmware's request (R297, R302). -/
def State.runSeqOp (s : State) (f : InFlight) (go : State → Hdr → Job → State) : State :=
  match s.job f.jobId with
  | none => s
  | some v =>
    if v.ended.isSome then s
    else if !([0, 3, 4].contains f.seqCode) || (s.seqWrong f.seqCode f.jobId v.image f.block).isSome ||
        (f.seqCode = 4 && (SeqBlock.decode f.block).lsAddr != 0) then s.refuseDesc f 2
    else if s.seqBusy (blockField f.block 0 4) then s
    else
      let (h, s1) := s.grant byFirmware.master byFirmware.cls 64
      go (s1.replied h) h v

/-- SEQ_OP OPEN. -/
def execSeqOpOpen (ring : Fin 64) (idx : BitVec 32) (s : State) : Out :=
  .next (s.runDesc ring idx 6 (InFlight.seqMine 0) fun t f => t.runSeqOp f fun t _ v =>
    match t.seqOpen f.jobId v.image f.block with
    | .done n t1 => t1.okDesc f n
    | .bad t1 => t1.seqFaulted f
    | .wait w => t.waits w)

/-- SEQ_OP FREE. -/
def execSeqOpFree (ring : Fin 64) (idx : BitVec 32) (s : State) : Out :=
  .next (s.runDesc ring idx 6 (InFlight.seqMine 3) fun t f => t.runSeqOp f fun t h v =>
    match t.seqFree v.image (seqBy ((SeqBlock.decode f.block).seq / 131072) h) (SeqBlock.decode f.block).seq with
    | .done n t1 => t1.okDesc f n
    | .bad t1 => t1.seqFaulted f
    | .wait w => t.waits w)

/-- SEQ_OP QUERY: the 64 bytes of the descriptor, in any state, to the host buffer. -/
def execSeqOpQuery (ring : Fin 64) (idx : BitVec 32) (s : State) : Out :=
  .next (s.runDesc ring idx 6 (InFlight.seqMine 4) fun t f => t.runSeqOp f fun t _ _ =>
    let d := (SeqBlock.decode f.block).seq
    if t.hostOk (f.u64 0x18) 64 then
      ((t.hostWrite (f.u64 0x18) (t.seqDesc d).bytes).cntSeq (d / 131072) 0x120 1).okDesc f 0
    else t.hostFailed f)

/-! ## BAR2 (R326, R496, R498) -/

/-- Whether MGT_BAR2_JOB may name a job: present, not sealed, permitted, and while suspended only with CONTEXT_OUT. -/
def State.mayBind (s : State) (j : Nat) : Bool :=
  match s.job j with
  | none => false
  | some v => v.ended.isNone && v.keySlot.isNone && s.jobFlag v 7 && (!v.suspended || s.jobFlag v 6) && !s.ideBlocks

/-- MGT_BAR2_JOB_WRITE (R326): binds a job to BAR2, or none. -/
def State.bar2JobWrite (s : State) (v : Word) : State :=
  s.barWrite 0x70 v (fun t => t.mgt.bar2Job.toNat) fun t => { t with mgt.bar2Job := if t.mayBind v.toNat then v else 0 }
def execMgtBar2JobWrite (v : BitVec 32) (s : State) : Out := .next (s.bar2JobWrite v)

/-- The device address of a BAR2 unit. -/
def State.bar2Address (s : State) (unit : BitVec 30) : Nat := s.reg 0x74 0 / 2 ^ 21 * 2 ^ 21 + 2 ^ 32 * s.reg 0x78 0 + 64 * unit.toNat

/-- The job that a BAR2 access reaches. -/
def State.bar2Target (s : State) (unit : BitVec 30) : Option Image :=
  match s.job s.mgt.bar2Job.toNat with
  | none => none
  | some v =>
    if s.mgt.bar2Job != 0 && s.mayBind s.mgt.bar2Job.toNat && v.image.inside (s.bar2Address unit) 64 then some v.image else none

/-- A dropped access is counted (R326). -/
def State.bar2Drop (s : State) : State := { s with mgt.bar2Drops := BitVec.ofNat 32 (satAdd32 s.mgt.bar2Drops.toNat 1) }

/-- The bytes of a BAR2 read; all ones where a read that met an uncorrectable error has ended the job (R265, R326), and nothing
where an access must wait. -/
def State.bar2Take (s : State) : Whole (List Byte × State) → State
  | .error w => s.waits w
  | .ok (bs, s1) =>
    if s1.present s.mgt.bar2Job.toNat then { s1 with host.lastRead := bs }
    else { s1.bar2Drop with host.lastRead := List.replicate 64 0xFF }

/-- BAR2_READ: a CXL.mem read of 64 bytes; a dropped one returns all ones. -/
def execBar2Read (unit : BitVec 30) (s : State) : Out :=
  if !s.linked then .next s
  else
    match s.bar2Target unit with
    | none => .next { s.bar2Drop with host.lastRead := List.replicate 64 0xFF }
    | some im => .next (s.bar2Take (s.readMem im s.byHost (s.bar2Address unit) 64))

/-- BAR2_WRITE: a CXL.mem write of the masked bytes of 64; one into a sequence-table pool is dropped. -/
def execBar2Write (unit : BitVec 30) (data : BitVec 512) (mask : BitVec 64) (s : State) : Out :=
  if !s.linked then .next s
  else
    let a := s.bar2Address unit
    match s.bar2Target unit with
    | none => .next s.bar2Drop
    | some im =>
      if im.inPool a 64 then .next s.bar2Drop
      else
        match s.plan.place im a with
        | none => .next s.bar2Drop
        | some pl =>
          let o := pl.o % 256
          .next (match s.writeLine im s.byHost pl.line (BitVec.ofNat 2048 (data.toNat * 2 ^ (8 * o))) (BitVec.ofNat 256 (mask.toNat * 2 ^ o)) with
            | .ok t => t
            | .error w => s.waits w)

end Sys2Proof.Machine
end

