-- ==== Sys2Proof/Machine/Fabric.lean ====
section
/-! DEFINITION. Messages that reach this device over Trerik (R372 to R385): transit, peer requests, replies, broadcasts and
timeouts. -/

namespace Sys2Proof.Machine

/-! ## Arrival -/

/-- Takes a message out of a port's buffers, whose flits of credit fall due (R364); a message that is not there arrives
whole. -/
def State.takeMsg (s : State) (p : Nat) (m : Message) : State :=
  let x := s.port p
  if x.inbox.contains m then
    let vc := msgVc m
    s.setPort p { x with inbox := x.inbox.erase m, owed := smSet 0 x.owed vc (smGet 0 x.owed vc + (msgFlits m).length) }
  else s

/-- The ingress unit checks a message for this device (R379, R398). -/
def State.ingress (s : State) (p : Nat) (m : Message) (dst : Nat) : Bool × State :=
  let u := (s.cvu (2 * p + 1)).forPort
  let u1 := ({ u with expect := m.check }).feed (checkBytes (msgSrc m) dst (msgSeq m) m.header.toNat m.data)
  let u2 := u1.finish
  (u2.isMatch && decide (m.data.length = msgLength m), s.setCvu (2 * p + 1) u2)

/-- The order of a flow (R380): none where the message is behind what is expected. -/
def State.flow (s : State) (p : Nat) (m : Message) : Option State :=
  if !msgOrdered m then some s
  else
    let src := msgSrc m
    let want := if msgFlowStart m then msgSeq m else smGet 0 s.fabric.expectSeq src
    let ahead := (msgSeq m + 2 ^ 32 - want) % 2 ^ 32
    if 2 ^ 31 ≤ ahead then none
    else
      let s1 := { s with fabric.expectSeq := smPut s.fabric.expectSeq src ((msgSeq m + 1) % 2 ^ 32) }
      some (if ahead = 0 then s1 else s1.cntPort p 0x268 1)

/-- A message for this device enters through a port, which charges it as a master (R302, R378): its header here, CLASS and
URGENCY as they arrive and DEMOTED against the port's own budget (R298). -/
def State.inbound (s : State) (p : Nat) (m : Message) (bytes : Nat) : Hdr × State :=
  let (h, s1) := s.grant (488 + p) (msgQos m % 8) bytes
  ({ h with urgency := BitVec.ofNat 2 (msgQos m / 16) }, s1)
/-- The inbound traffic of a port, under the header of the message it serves. -/
def byPort (p : Nat) (h : Hdr) : By := ⟨.port (Fin.ofNat 18 p), 488 + p, h.cls.toNat, some h⟩

/-- Sends the answer to a request; an answer without a usable hop is discarded (R372). -/
def State.answer (s : State) (m : Message) (label op reason : Nat) (data : List Byte) : State :=
  (s.sendDraft ⟨s.fabricId, msgSrc m, op, label, msgOrdered m, msgJob m, 0, msgTag m, 0, reason, 0, data⟩).getD s

/-- A NACK to the source of a request (R381), with the request's label (R299). -/
def State.nack (s : State) (p : Nat) (m : Message) (label reason : Nat) : State :=
  let s1 := (s.answer m label 5 reason []).cntPort p 0x258 1
  if reason = 7 then s1.cntSec 0x120 1 else s1

/-! ## Requests (R381, R383, R384) -/

/-- What serving a request comes to. -/
inductive Served where
  | refused (reason : Nat)
  /-- A line it needs is busy: the message waits. -/
  | waits (w : Option Nat)
  | done (s : State) (data : List Byte)

/-- The job that a request reaches, or why it reaches none (R381, R384). -/
def State.peerAdmit (s : State) (m : Message) : Except Nat Job :=
  if s.unassigned then .error 5
  else
    match s.dev.mode with
    | .ready =>
      match s.job (msgJob m) with
      | none => .error 1
      | some v =>
        if s.present (msgJob m) then (if s.jobFlag v 5 then .ok v else .error 7)
        else
          match s.plan.place v.image (msgAddr m) with
          | some pl => if s.dev.stackReset.getLsbD pl.s then .error 4 else .error 1
          | none => .error 1
    | .bringup => if (match s.dev.slip with | some x => !x.warm | none => false) then .error 4 else .error 5
    | _ => .error 5

/-- Whether an address range lies outside a job's footprint, or a write of it in a pool. -/
def rangeBad (im : Image) (a n : Nat) (write : Bool) : Option Nat :=
  if n = 0 || im.footprint < a + n then some 2 else if write && im.inPool a n then some 3 else none

/-- What serving a whole access comes to. -/
def Served.of (x : Whole (List Byte × State)) : Served :=
  match x with
  | .error w => .waits w
  | .ok (d, t) => .done t d

/-- A request at its destination: checked end to end, kept in order, charged to its port, admitted, served and answered (R379
to R381). -/
def State.peerRequest (s : State) (p : Nat) (m : Message) (op bytes : Nat) (serve : State → By → Job → Served) : State :=
  if !(s.port p).up || msgDst m ≠ s.fabricId then s
  else
    let (ok, s1) := (s.takeMsg p m).ingress p m s.fabricId
    if !ok then (s1.cntPort p 0x260 1).nack p m (msgQos m % 64) 9
    else
      match s1.flow p m with
      | none => s1.cntPort p 0x260 1
      | some s2 =>
        let (h, s3) := s2.inbound p m bytes
        match s3.peerAdmit m with
        | .error r => (s3.replied h).nack p m h.bits r
        | .ok v =>
          match serve s3 (byPort p h) v with
          | .refused r => (s3.replied h).nack p m h.bits r
          | .waits w => s.waits w
          | .done s4 data =>
            if s4.present (msgJob m) then (s4.replied h).answer m h.bits op 0 data else (s4.replied h).nack p m h.bits 1

/-- FABRIC_READ (R376, R381): served at the home slice as NCRD and answered by DATA. -/
def execFabricRead (port : Fin 18) (msg : Message) (s : State) : Out :=
  if msgOp msg ≠ 0 then .next s
  else
    let n := msgRlen msg
    .next (s.peerRequest port.val msg 3 n fun t b v =>
      match if 2048 < n then some 2 else rangeBad v.image (msgAddr msg) n false with
      | some r => .refused r
      | none => .of (t.readMem v.image b (msgAddr msg) n))

/-- FABRIC_WRITE (R376, R381): served as NCWR and answered by ACK. -/
def execFabricWrite (port : Fin 18) (msg : Message) (s : State) : Out :=
  if msgOp msg ≠ 1 then .next s
  else
    .next (s.peerRequest port.val msg 4 msg.data.length fun t b v =>
      match rangeBad v.image (msgAddr msg) msg.data.length true with
      | some r => .refused r
      | none => .of ((t.writeMem v.image b (msgAddr msg) msg.data).map fun t1 => ([], t1)))

/-! ### Reductions (R377, R383) -/

/-- The operation of a code of R142. -/
def atomOfCode (n : Nat) : Option AtomicOp :=
  [AtomicOp.aadd, .amin, .amax, .aminu, .amaxu, .aand, .aor, .axor, .afadd, .awadd, .acas, .aexch][n]?

/-- One sub-request: the byte offset in the line and its operands. -/
structure SubRequest where
  offset : Nat
  operands : List Nat
deriving DecidableEq, Repr

/-- The sub-requests of RED data; none where the data is not such a list. -/
def subRequests (size : Nat) : Nat → List Byte → Option (List SubRequest)
  | 0, bs => if bs.isEmpty then some [] else none
  | f + 1, bs =>
    if bs.isEmpty then some []
    else
      let n := byteAt bs 1
      let body := bs.drop 4
      if bs.length < 4 || n = 0 || 32 < n || field2 bs 2 ≠ 0 || body.length < n * size then none
      else
        match subRequests size f (body.drop (n * size)) with
        | none => none
        | some rs => some (⟨byteAt bs 0, (upTo n).map fun i => bytesToNat ((body.drop (i * size)).take size)⟩ :: rs)

/-- Serves sub-requests in order, each as one RED. -/
def State.redList (im : Image) (b : By) (op : AtomicOp) (fmt addr : Nat) : List SubRequest → State → Whole (List Byte × State)
  | [], s => .ok ([], s)
  | r :: rs, s =>
    match s.plan.place im (addr + r.offset) with
    | none => .error none
    | some pl =>
      let ops := r.operands.mapIdx fun i v => (⟨Fin.ofNat 32 i, Fin.ofNat 256 (pl.o % 256), BitVec.ofNat 128 v⟩ : RedOperand)
      match s.redNow im b pl.line ⟨op, BitVec.ofNat 4 fmt, ops, b.src, 0⟩ with
      | .error w => .error w
      | .ok (olds, s1) =>
        match State.redList im b op fmt addr rs s1 with
        | .error w => .error w
        | .ok (bs, s2) => .ok ((olds.map fun o => natToBytes (redSize op fmt) o.2.toNat).flatten ++ bs, s2)

/-- FABRIC_RED (R383): each sub-request enters its home slice as one RED request, in order; DATA returns the old values. -/
def execFabricRed (port : Fin 18) (msg : Message) (s : State) : Out :=
  if msgOp msg ≠ 2 then .next s
  else
    let fmt := msgRed msg / 16
    .next (s.peerRequest port.val msg 3 64 fun t b v =>
      match atomOfCode (msgRed msg % 16) with
      | none => .refused 8
      | some op =>
        let size := if op = .acas then 8 else redSize op fmt
        if !redAccepts op fmt then .refused 8
        else
          match subRequests size 256 msg.data with
          | none => .refused 8
          | some rs =>
            let n := redSize op fmt
            let bad := rs.findSome? fun r => if r.offset % n ≠ 0 || 256 < r.offset + n then some 8 else none
            match bad with
            | some e => .refused e
            | none =>
              match rs.findSome? fun r => rangeBad v.image (msgAddr msg + r.offset) n true with
              | some e => .refused e
              | none => .of (State.redList v.image b op fmt (msgAddr msg) rs t))

/-! ## Replies (R376, R381, R385) -/

/-- The outstanding access that a reply answers. -/
def State.findAccess (s : State) (m : Message) : Option PeerAccess :=
  s.fabric.outstanding.find? fun a => a.tag.toNat == msgTag m && a.dest.toNat == msgSrc m
def State.dropAccess (s : State) (tag : BitVec 16) : State :=
  { s with fabric.outstanding := s.fabric.outstanding.filter (fun a => a.tag != tag) }

/-- The job-fatal fault of a peer access (R385, R516): the record carries D, the NACK REASON and the TAG. -/
def State.peerFault (s : State) (a : PeerAccess) (code reason : Nat) : State :=
  ((s.dropAccess a.tag).jobFault a.job.toNat code ⟨BitVec.ofNat 32 a.tile, a.group, a.set, a.pc⟩
    (natToBytes 2 a.dest.toNat ++ natToBytes 2 reason ++ natToBytes 2 a.tag.toNat) 0xFFFFFFFF).cntTile a.tile 0x150 1

/-- Writes what a DATA reply brings to the lanes of its access, and counts the reply as acknowledged. -/
def Group.landPeer (g : Group) (a : PeerAccess) (data : List Byte) : Group :=
  (a.lanes.mapIdx fun i l => (i, l)).foldl (fun g e =>
    let v := bytesToNat ((data.drop (e.1 * a.size)).take a.size)
    let g1 := g.landLoad e.2 a.rd a.size v a.signed
    { g1 with peerAcks := smSet 0 g1.peerAcks e.2 (smGet 0 g1.peerAcks e.2 - 1) }) g

/-- A reply at its source: checked end to end, kept in order, matched with its request (R379 to R381). -/
def State.peerReply (s : State) (p : Nat) (m : Message) (f : State → PeerAccess → State) : State :=
  if !(s.port p).up || msgDst m ≠ s.fabricId then s
  else
    let (ok, s1) := (s.takeMsg p m).ingress p m s.fabricId
    if !ok then
      let s2 := s1.cntPort p 0x260 1
      match s2.findAccess m with
      | none => s2
      | some a => s2.peerFault a 0x34 0
    else
      match s1.flow p m with
      | none => s1.cntPort p 0x260 1
      | some s2 =>
        match s2.findAccess m with
        | none => s2
        | some a => f (s2.replied a.hdr) a

/-- FABRIC_DATA (R376): the reply of a load or an atomic. -/
def execFabricData (port : Fin 18) (msg : Message) (s : State) : Out :=
  if msgOp msg ≠ 3 then .next s
  else .next (s.peerReply port.val msg fun t a =>
    if a.size = 0 || msg.data.length ≠ a.size * a.lanes.length then t
    else (t.dropAccess a.tag).updGroup a.tile a.slot fun g => if g.id = a.group then g.landPeer a msg.data else g)

/-- FABRIC_ACK (R376): the reply of a store. -/
def execFabricAck (port : Fin 18) (msg : Message) (s : State) : Out :=
  if msgOp msg ≠ 4 then .next s
  else .next (s.peerReply port.val msg fun t a =>
    if a.size ≠ 0 then t
    else (t.dropAccess a.tag).updGroup a.tile a.slot fun g =>
      if g.id = a.group then
        a.lanes.foldl (fun g l => { g with peerAcks := smSet 0 g.peerAcks l (smGet 0 g.peerAcks l - 1) }) g
      else g)

/-- The fault that a NACK's REASON makes (R385); none for a code that is never sent. -/
def nackFault (reason : Nat) : Option Nat :=
  if reason = 9 then some 0x34
  else if reason = 6 then some 0x35
  else if (1 ≤ reason && reason ≤ 5) || reason = 7 || reason = 8 then some 0x36
  else none

/-- FABRIC_NACK (R385): the issuing job faults by the REASON. -/
def execFabricNack (port : Fin 18) (msg : Message) (s : State) : Out :=
  if msgOp msg ≠ 5 then .next s
  else .next (s.peerReply port.val msg fun t a =>
    match nackFault (msgReason msg) with
    | some c => t.peerFault a c (msgReason msg)
    | none => t)

/-- FAB_E2E_TIMEOUT in always-on cycles (R388). -/
def State.replyLimit (s : State) : Nat := 4000 * max 1 (s.reg 0x600C 0x9C4 % 65536)

/-- FABRIC_TIMEOUT (R385): a request that has waited FAB_E2E_TIMEOUT for its reply. -/
def execFabricTimeout (tag : BitVec 16) (s : State) : Out :=
  match s.fabric.outstanding.find? (fun a => a.tag == tag) with
  | none => .next s
  | some a => if s.replyLimit ≤ s.aon.toNat - a.sentAt then .next (s.peerFault a 0x33 0) else .next s

/-! ## Broadcast and transit -/

/-- Delivers a broadcast write to this device (R382): a device without the job, or a range outside its footprint or in a
pool, takes nothing. -/
def State.deliverBcast (s : State) (b : By) (jobId a : Nat) (bs : List Byte) : Whole State :=
  match s.job jobId with
  | none => .ok s
  | some v =>
    if s.present jobId && decide (a + bs.length ≤ v.image.footprint) && !v.image.inPool a bs.length then s.writeMem v.image b a bs
    else .ok s

/-- BCAST (R382): delivered here if the group is this device's, then forwarded on the mask; never answered. -/
def execBcast (port : Fin 18) (msg : Message) (s : State) : Out :=
  let p := port.val
  if msgOp msg ≠ 6 || !(s.port p).up then .next s
  else
    let s1 := s.takeMsg p msg
    let fwd := fun (t : State) => if msgHops msg = 0 then t.cntPort p 0x270 1 else
      let t1 := t.spread (msgHopped msg) (some p)
      if ((t.routeOf (msgDst msg)).ports (some p)).isEmpty then t1 else t1.cntPort p 0x250 1
    if msgDst msg / 256 ≠ s.fabricId / 256 || s.unassigned then .next (fwd s1)
    else
      let (ok, s2) := s1.ingress p msg (s.fabricId / 256 * 256 + 0xFF)
      if !ok then .next (fwd (s2.cntPort p 0x260 1))
      else
        match s2.peerAdmit msg with
        | .error _ => .next (fwd s2)
        | .ok _ =>
          let (h, s3) := s2.inbound p msg msg.data.length
          match s3.deliverBcast (byPort p h) (msgJob msg) (msgAddr msg) msg.data with
          | .error w => .next (s.waits w)
          | .ok s4 => .next (fwd (s4.replied h))

/-- MESSAGE_FORWARD (R372 to R374): a transit message goes to its next hop; without one a request is answered UNREACHABLE
and a reply discarded; one whose HOPS would fall below 0 is discarded. -/
def execMessageForward (port : Fin 18) (msg : Message) (s : State) : Out :=
  let p := port.val
  if !(s.port p).up || msgDst msg = s.fabricId || msgOp msg = 6 then .next s
  else
    let s1 := s.takeMsg p msg
    if msgHops msg = 0 then .next (s1.cntPort p 0x270 1)
    else
      match s1.nextHop (msgSrc msg) (msgDst msg) (msgVc msg) (msgOrdered msg) with
      | some q => .next ((s1.enqueue q (msgHopped msg)).cntPort p 0x250 1)
      | none => if msgIsRequest msg then .next (s1.nack p msg (msgQos msg % 64) 6) else .next s1

end Sys2Proof.Machine
end

