-- ==== Sys2Proof/Machine/Install.lean ====
section
/-! DEFINITION. Firmware installs through MGT_FW (R325, R417, R419, R420, R427). -/

namespace Sys2Proof.Machine

/-- The FIRMWARE entry: kind, FW_VERSION and RESULT; kind 0 and version 0 where no container verified (R427, R503). -/
def State.auditInstall (s : State) (f : Option Firmware) (result : Nat) : State :=
  let kind := match f with | some x => if x.dfw then 2 else 1 | none => 0
  let version := match f with | some x => x.version.toNat | none => 0
  s.auditFw 4 0 (natToBytes 1 kind ++ natToBytes 4 version ++ natToBytes 1 result)

/-- An install ends: the entry, RESULT, and BUSY clear. -/
def State.installEnd (s : State) (f : Option Firmware) (result : Nat) : State :=
  { s.auditInstall f result with mgt.fwBusy := false, mgt.fwResult := BitVec.ofNat 4 result, mgt.fwImage := [], mgt.fwReadFailed := false }

/-- The host address of the image: MGT_FW_ADDR. -/
def State.fwAddress (s : State) : Nat := s.reg 0x50 0 / 4096 * 4096 + 2 ^ 32 * s.reg 0x54 0
def State.fwLength (s : State) : Nat := s.reg 0x58 0

/-- START (R325): refused while BUSY, in BOOT and BRINGUP, and with a length outside 1 to 64 MiB; otherwise the image is
read. -/
def State.fwStart (s : State) : State :=
  if s.mgt.fwBusy then s.auditInstall none 1
  else if s.dev.mode matches .boot | .bringup then s.installEnd none 6
  else if s.fwLength < 1 || 2 ^ 26 < s.fwLength then s.installEnd none 5
  else if s.hostOk s.fwAddress s.fwLength then
    { s with mgt.fwBusy := true, mgt.fwImage := s.hostRead s.fwAddress s.fwLength, mgt.fwReadFailed := false }
  else { s.hostError with mgt.fwBusy := true, mgt.fwImage := [], mgt.fwReadFailed := true }

/-- A logged write of MGT_FW_CTL. -/
def State.fwCtlWrite (s : State) (v : Word) : State :=
  s.barWrite 0x5C v (fun _ => 0) fun t => if v.getLsbD 0 then t.fwStart else t

/-- FIRMWARE_INSTALL_START: START is written. -/
def execFirmwareInstallStart (v : BitVec 32) (s : State) : Out := .next (s.fwCtlWrite v)

/-- The inactive slot of the container's kind is written and becomes the active one (R420). -/
def State.storeFirmware (s : State) (f : Firmware) : State :=
  let p := s.slots
  let s1 := if f.dfw then
      (if p.dfw then { s with flash.dfwA := some f.bytes } else { s with flash.dfwB := some f.bytes })
    else (if p.mfw then { s with flash.mfwA := some f.bytes } else { s with flash.mfwB := some f.bytes })
  { s1 with
    mram.slots := TwoCopy.both (if f.dfw then { p with dfw := !p.dfw } else { p with mfw := !p.mfw }), dev.slotChanged := true }

/-- The RESULT of an install whose image has been read (R325, R420), with the container if it verifies. -/
def State.installVerdict (s : State) : Option Firmware × Nat :=
  if s.mgt.fwReadFailed then (none, 4)
  else
    match firmwareOf s.part.firmwareKey s.mgt.fwImage with
    | none => (none, 2)
    | some f => (some f, if f.version.toNat < (if f.dfw then s.floors.dfw else s.floors.mfw).toNat then 3 else 0)

/-- FIRMWARE_INSTALL_DONE: the RESULT is final; an accepted image is stored, and in LIMP the device is in BOOT
again at once, for step 2 to be repeated (R6, R419). -/
def execFirmwareInstallDone (s : State) : Out :=
  if !s.mgt.fwBusy then .next s
  else
    match s.installVerdict with
    | (some f, 0) =>
      let s1 := (s.installEnd (some f) 0).storeFirmware f
      .next (if s.dev.mode matches .limp then { s1.enter .boot 0 with dev.step := .pair } else s1)
    | (f, r) => .next (s.installEnd f r)

end Sys2Proof.Machine
end

