-- ==== Sys2Proof/Machine/Objects.lean ====
section
/-! DEFINITION. Descriptors that install or read the device's records: SET_LAST (R409), INSTALL_LICENCE (R424), SET_POLICY
(R497), QUERY_FLOOR_PLAN (R28, R29), AUDIT_READ (R505) and BLACKBOX_READ (R524). -/

namespace Sys2Proof.Machine

/-! ## The last (R409) -/

/-- One entry of a last is well formed. -/
def lastEntryOk (b : List Byte) (p : Nat) : Bool :=
  let o := 16 + 8 * p
  let e := lastEntry b p
  zeros b (o + 5) 3 && decide (e.policy.toNat < 3) && decide (e.nport.toNat < 18) &&
  (if e.policy = 0 then zeros b o 4 else [8, 4, 2, 1].contains e.width.toNat)

/-- What SET_LAST accepts. -/
def lastForm (b : List Byte) : Bool :=
  decide (b.length = 160) && decide (le b 0 4 = 0x4C415331) && decide (le b 4 2 = 1) && decide (le b 6 2 = 18) && zeros b 8 8 &&
  (upTo 18).all (lastEntryOk b)

/-- SET_LAST: an accepted last is logged with its SHA-256 and committed. -/
def execSetLast (ring : Fin 64) (idx : BitVec 32) (s : State) : Out :=
  .next (s.runDesc ring idx 7 (fun _ => true) fun t f =>
    if f.u32 0x18 ≠ 160 then t.refuseDesc f 2
    else t.withIn f fun b =>
      if !lastForm b then t.refuseDesc f 2
      else if t.auditReserve then t.refuseDesc f 0x3A
      else { t.auditRing f.ring 7 0 (sha256 b) with mram.last := TwoCopy.both (some ⟨b, (upTo 18).map (lastEntry b)⟩) }.okDesc f 0)

/-! ## Licences (R424) -/

/-- The first check of R424 that fails, or 0. -/
def State.licenceStatus (s : State) (b : List Byte) : Nat :=
  let rec_ := s.licenceRec
  let c := le b 0x10 4
  if !licenceForm b then 2
  else if !licenceVerifies s.part.licenceKey b then 8
  else if le b 8 8 ≠ s.part.serial.toNat then 0xC
  else if rec_.counter.toNat < c || (rec_.counter.toNat == c && b == rec_.bytes) then 0 else 9

/-- The LICENCE entry (R503). -/
def State.auditLicence (s : State) (ring : Nat) (b : List Byte) (status : Nat) : State :=
  s.auditRing ring 3 0 (natToBytes 4 (le b 0x10 4) ++ natToBytes 1 (le b 0x14 1) ++ natToBytes 1 status)

/-- INSTALL_LICENCE: every attempt is logged; an accepted licence that differs from the stored one is committed. -/
def execInstallLicence (ring : Fin 64) (idx : BitVec 32) (s : State) : Out :=
  .next (s.runDesc ring idx 8 (fun _ => true) fun t f =>
    if t.auditReserve then t.refuseDesc f 0x3A
    else if !f.buffersFit then (t.auditLicence f.ring [] 2).refuseDesc f 2
    else if !t.hostOk (f.u64 0x10) (f.u32 0x18) then (t.auditLicence f.ring [] 0x32).hostFailed f
    else
      let b := t.hostRead (f.u64 0x10) (f.u32 0x18)
      let st := t.licenceStatus b
      let t1 := t.auditLicence f.ring b st
      if st ≠ 0 then t1.refuseDesc f st
      else if b = t.licenceRec.bytes then t1.okDesc f 0
      else { t1 with mram.licence := TwoCopy.both ⟨BitVec.ofNat 32 (le b 0x10 4), BitVec.ofNat 8 (le b 0x14 1), b⟩ }.okDesc f 0)

/-! ## Policies (R497) -/

/-- The first check of R497 that fails, or 0. -/
def State.policyStatus (s : State) (b : List Byte) : Nat :=
  let p := s.policy
  if !policyForm b p.hasKey then 2
  else if !policyKeysOk b then 2
  else if p.hasKey && !policyVerifies p b then 8
  else if le b 8 4 ≤ p.counter.toNat then 9 else 0

/-- The POLICY entry (R503). -/
def State.auditPolicy (s : State) (ring : Nat) (b : List Byte) (status : Nat) : State :=
  s.auditRing ring 2 0 (natToBytes 4 (le b 8 4) ++ sha256 b ++ natToBytes 1 status)

/-- A policy comes into force: committed, measured in MR4, and BAR2 is unbound where it now may not be bound (R496, R498). -/
def State.adoptPolicy (s : State) (b : List Byte) : State :=
  let s1 := { s with mram.policy := TwoCopy.both (policyOf b) }.extendMr 4 (sha256 b)
  if s1.mayBind s1.mgt.bar2Job.toNat then s1 else { s1 with mgt.bar2Job := 0 }

/-- SET_POLICY. -/
def execSetPolicy (ring : Fin 64) (idx : BitVec 32) (s : State) : Out :=
  .next (s.runDesc ring idx 0xD (fun _ => true) fun t f =>
    if t.auditReserve then t.refuseDesc f 0x3A
    else if !f.buffersFit then (t.auditPolicy f.ring [] 2).refuseDesc f 2
    else if !t.hostOk (f.u64 0x10) (f.u32 0x18) then (t.auditPolicy f.ring [] 0x32).hostFailed f
    else
      let b := t.hostRead (f.u64 0x10) (f.u32 0x18)
      let st := t.policyStatus b
      let t1 := t.auditPolicy f.ring b st
      if st ≠ 0 then t1.refuseDesc f st else (t1.adoptPolicy b).okDesc f 0)

/-! ## The floor plan (R28 to R30) -/

/-- The plan a query reports and the ORIGIN it carries: the current one, or in LIMP and SHUTDOWN the stored one. -/
def State.queriedPlan (s : State) : Option (Plan × Nat) :=
  match s.dev.mode with
  | .check | .ready | .held => some (s.plan, s.plan.origin.toNat)
  | .limp | .shutdown => s.storedPlan.map fun p => (p, 4)
  | .off | .aon | .boot | .bringup => none

/-- QUERY_FLOOR_PLAN: the record of one generation, which RESULT carries. -/
def execQueryFloorPlan (ring : Fin 64) (idx : BitVec 32) (s : State) : Out :=
  .next (s.runDesc ring idx 0xC (fun _ => true) fun t f =>
    if !f.buffersFit || f.u32 0x28 < 8128 then t.refuseDesc f 2
    else
      match t.queriedPlan with
      | none => t.refuseDesc f t.notReady
      | some (p, origin) =>
        if t.hostOk (f.u64 0x20) 8128 then
          (t.hostWrite (f.u64 0x20) (p.record t.part t.dev.mode.code origin)).okDesc f p.generation.toNat
        else t.hostFailed f)

/-! ## The audit log and the black box -/

/-- The oldest retained entry (R505). -/
def State.auditOldest (s : State) : Nat := s.mram.auditHead.toNat - 16384

/-- Whole entries from an index, as many as fit in a length. -/
def State.auditEntries (s : State) (start len : Nat) : List Byte :=
  let a := max start s.auditOldest
  (upTo (min (s.mram.auditHead.toNat - a) (len / 128))).flatMap fun i =>
    let e := smGet AuditEntry.blank s.mram.audit ((a + i) % 16384)
    e.bytes ++ digestBytes e.chain

/-- AUDIT_READ. -/
def execAuditRead (ring : Fin 64) (idx : BitVec 32) (s : State) : Out :=
  .next (s.runDesc ring idx 0xF (fun _ => true) fun t f =>
    if !f.buffersFit then t.refuseDesc f 2 else t.answerOut f (t.auditEntries (f.u64 0x30) (f.u32 0x28)))

/-- A record as it is read out: one that fails in both copies is reported with TYPE 0x00 (R522). -/
def State.bbOut (s : State) (i : Nat) : List Byte :=
  match s.bbRecord i with
  | some b => b
  | none =>
    let b := natToBytes 64 (match smFind s.mram.bbA i with | some v => v.toNat | none => 0)
    b.take 4 ++ [0] ++ b.drop 5

/-- Whole records from an index, at most `n`. -/
def State.bbRecords (s : State) (start n : Nat) : List Byte := (upTo (min (s.mram.bbHead - start) n)).flatMap fun i => s.bbOut (start + i)

/-- The header of R524. -/
def State.bbHeader (s : State) (start n : Nat) : List Byte :=
  let h := s.mram.bbHead
  let count := min (h - start) n
  let flags := (if 65536 ≤ h then 1 else 0) + (if 65024 ≤ h then 2 else 0)
  natToBytes 4 0x42425831 ++ natToBytes 4 h ++ natToBytes 4 (if count = 0 then h else start) ++ natToBytes 4 count ++
  natToBytes 4 s.mram.bbDropped.toNat ++ natToBytes 4 s.mram.bbRepaired.toNat ++ natToBytes 1 flags ++ natToBytes 39 0

/-- BLACKBOX_READ. -/
def execBlackboxRead (ring : Fin 64) (idx : BitVec 32) (s : State) : Out :=
  .next (s.runDesc ring idx 0x10 (fun _ => true) fun t f =>
    let n := (f.u32 0x28 - 64) / 64
    if !f.buffersFit || f.u32 0x28 < 64 then t.refuseDesc f 2
    else t.answerOut f (t.bbHeader (f.u64 0x30) n ++ t.bbRecords (f.u64 0x30) n))

end Sys2Proof.Machine
end

