-- ==== Sys2Proof/Machine/Keys.lean ====
section
/-! DEFINITION. Key exchange (R487 to R490), IDE (R491) and attestation (R485, R486). -/

namespace Sys2Proof.Machine

/-! ## KEY_EXCHANGE: the header and the checks every operation passes (R487) -/

/-- The input buffer of a descriptor, as far as it can be read. -/
def State.inBytes (s : State) (f : InFlight) : List Byte :=
  if s.hostOk (f.u64 0x10) (f.u32 0x18) then s.hostRead (f.u64 0x10) (f.u32 0x18) else []

/-- A row serves its own OP; a buffer that names none of the three is refused by any of them. -/
def State.keyMine (s : State) (op : Nat) (f : InFlight) : Bool :=
  let b := s.inBytes f
  b.isEmpty || le b 0 1 == op || decide (3 ≤ le b 0 1)

/-- IN_LENGTH of an operation. -/
def keyLength (op : Nat) : Nat := match op with | 0 => 48 | 1 => 1616 | _ => 16

/-- The header's fields are in range and its reserved bytes 0. -/
def keyForm (b : List Byte) : Bool :=
  let op := le b 0 1
  decide (op < 3) && decide (b.length = keyLength op) && decide (le b 1 1 < 16) && zeros b 3 1 && zeros b 8 8 &&
  (if op = 0 then decide (le b 2 1 < 2) && (le b 2 1 == 0 || zeros b 4 4) else zeros b 2 1 && zeros b 4 4)

/-- The KEY entry (R503): OP, slot, PURPOSE, JOB and status, and the binding digest of a slot that became READY. -/
def State.auditKey (s : State) (ring op n : Nat) (ide : Bool) (job status : Nat) (binding : List Byte) : State :=
  s.auditRing ring 0xA job (natToBytes 1 op ++ natToBytes 1 n ++ natToBytes 1 (if ide then 1 else 0) ++ natToBytes 4 job ++
    natToBytes 1 status ++ binding)

/-- Runs a KEY_EXCHANGE of an operation on its slot and its input. -/
def State.runKey (s : State) (ring : Fin 64) (idx : Word) (op : Nat) (go : State → InFlight → List Byte → Nat → State) : State :=
  s.runDesc ring idx 9 (s.keyMine op) fun t f =>
    if !f.buffersFit then t.refuseDesc f 2
    else t.withIn f fun b =>
      if !keyForm b then t.refuseDesc f 2 else if t.auditReserve then t.refuseDesc f 0x3A else go t f b (le b 1 1)

/-- A key exchange that its slot's state, or its own checks, refuse: logged with KEY_REFUSED (R490). -/
def State.refuseKey (s : State) (f : InFlight) (op n : Nat) (ide : Bool) (job : Nat) : State :=
  (s.auditKey f.ring op n ide job 0x3B []).refuseDesc f 0x3B

/-! ## OFFER (R488) -/

/-- MR0 to MR15 in order. -/
def State.mrBytes (s : State) : List Byte := (upTo 16).flatMap fun n => digestBytes (s.mr n)

/-- Bytes 0x000 to 0x67F of an offer. -/
def State.offerBody (s : State) (n : Nat) (ide : Bool) (job q : Nat) (nonce : List Byte) (pair : Nat) : List Byte :=
  natToBytes 4 0x4F465231 ++ natToBytes 1 n ++ natToBytes 1 (if ide then 1 else 0) ++ natToBytes 2 0 ++ natToBytes 4 job ++
  natToBytes 4 q ++ natToBytes 8 s.part.serial.toNat ++ natToBytes 8 s.aon.toNat ++ nonce ++ sha256 s.mrBytes ++
  (upTo 1568).map (Config.encapsKey pair)

/-- Releases a signature into OUT with what it signs. -/
def State.release (s : State) (f : InFlight) (bs : List Byte) : State :=
  if s.hostOk (f.u64 0x20) bs.length then ((s.cntSec 0x100 1).hostWrite (f.u64 0x20) bs).okDesc f bs.length else s.hostFailed f

/-- OFFER: a fresh pair, and a signed offer of 4,948 bytes; it waits for the next level-1 tree where it must (R484). -/
def execKeyExchangeOffer (ring : Fin 64) (idx : BitVec 32) (s : State) : Out :=
  .next (s.runKey ring idx 0 fun t f b n =>
    let ide := le b 2 1 == 1
    let job := le b 4 4
    let x := (t.keySlot n).state
    if f.u32 0x28 < 4948 then t.refuseDesc f 2
    else if !(x matches .empty | .offered) || t.sigExhausted || !t.sec.entropyOk then t.refuseKey f 0 n ide job
    else if !t.treeReady then t
    else
      let q := t.sigIndex
      let (pair, t1) := ((t.auditKey f.ring 0 n ide job 0 []).spendIndex).draw
      let o := t1.offerBody n ide job q (cut b 0x10 32) pair
      let k : SecSlot := ⟨.offered, ide, BitVec.ofNat 32 job, cut b 0x10 32, t1.aon, digestBits (sha256 o), pair, 0, 0⟩
      (t1.setKeySlot n k).release f (o ++ idSignature q o))

/-! ## ACCEPT (R489) -/

/-- The text KENTIEC-JOB or KENTIEC-IDE. -/
def kentiec (ide : Bool) : List Byte := [0x4B, 0x45, 0x4E, 0x54, 0x49, 0x45, 0x43, 0x2D] ++ (if ide then [0x49, 0x44, 0x45] else [0x4A, 0x4F, 0x42])

/-- The text CONFIRM. -/
def confirmText : List Byte := [0x43, 0x4F, 0x4E, 0x46, 0x49, 0x52, 0x4D]

/-- What the key derivation gives a slot: 64 bytes for a job, 96 for IDE. -/
def State.slotKeys (s : State) (k : SecSlot) (ciphertext : List Byte) : List Byte :=
  hkdf k.nonce ((upTo 32).map (Config.sharedSecret k.pair ciphertext))
    (kentiec k.ide ++ natToBytes 8 s.part.serial.toNat ++ natToBytes 4 k.job.toNat ++ digestBytes k.offerDigest) (if k.ide then 96 else 64)

/-- The binding digest: SHA-256 of SLOT, PURPOSE, JOB and O. -/
def bindingDigest (n : Nat) (k : SecSlot) : List Byte :=
  sha256 (natToBytes 1 n ++ natToBytes 1 (if k.ide then 1 else 0) ++ natToBytes 4 k.job.toNat ++ digestBytes k.offerDigest)

/-- A slot as a confirmed exchange leaves it: the pair, the nonce and CK are gone. -/
def SecSlot.ready (k : SecSlot) (keys binding : List Byte) : SecSlot :=
  { k with
    state := .ready, nonce := [], pair := 0, binding := digestBits binding
    sessionKey := if k.ide then 0 else digestBits (keys.take 32) }

/-- The keys of an IDE slot become the key set of the stream (R491). -/
def State.installIde (s : State) (k : SecSlot) (keys : List Byte) : State :=
  if k.ide then { s with sec.ideTx := digestBits (keys.take 32), sec.ideRx := digestBits (cut keys 32 32), sec.ideSet := true } else s

/-- ACCEPT: within 60 s of the offer, CONFIRM decides between READY and EMPTY. -/
def execKeyExchangeAccept (ring : Fin 64) (idx : BitVec 32) (s : State) : Out :=
  .next (s.runKey ring idx 1 fun t f b n =>
    let k := t.keySlot n
    if !(k.state matches .offered) then t.refuseKey f 1 n k.ide k.job.toNat
    else if 2400000000 < (t.aon - k.offeredAt).toNat then (t.destroyKey n 1).refuseKey f 1 n k.ide k.job.toNat
    else
      let ct := cut b 0x30 1568
      let keys := t.slotKeys k ct
      if hmac (keys.drop (keys.length - 32)) (confirmText ++ ct) ≠ cut b 0x10 32 then
        (t.refuseKey f 1 n k.ide k.job.toNat).setKeySlot n SecSlot.empty
      else
        let d := bindingDigest n k
        let t1 := (t.auditKey f.ring 1 n k.ide k.job.toNat 0 d).setKeySlot n (k.ready keys d)
        ((t1.installIde k keys).extendMr 7 d).okDesc f 0)

/-! ## RELEASE and expiry (R490) -/

/-- RELEASE: empties a slot that is OFFERED or READY. -/
def execKeyExchangeRelease (ring : Fin 64) (idx : BitVec 32) (s : State) : Out :=
  .next (s.runKey ring idx 2 fun t f _ n =>
    let k := t.keySlot n
    if k.state matches .offered | .ready then
      ((t.auditKey f.ring 2 n k.ide k.job.toNat 0 []).destroyKey n 0).okDesc f 0
    else t.refuseKey f 2 n k.ide k.job.toNat)

/-- KEY_OFFER_EXPIRY: an offer 60 s old empties its slot. -/
def execKeyOfferExpiry (slot : Fin 16) (s : State) : Out :=
  let k := s.keySlot slot.val
  if (k.state matches .offered) && decide (2400000000 ≤ (s.aon - k.offeredAt).toNat) then .next (s.destroyKey slot.val 1) else .next s

/-! ## IDE (R491) -/

/-- IDE_K_SET_GO: the stream starts under the key set of a READY slot. -/
def execIdeKSetGo (s : State) : Out :=
  if s.linked && s.sec.ideSet then .next { s with host.ide := true } else .next s

/-- IDE_KEY_PROG: refused; the device takes no key that it has not derived. -/
def execIdeKeyProg (s : State) : Out := .next s

/-! ## Attestation (R485, R486) -/

/-- The entry of a stack in a report: the job that holds it, and how. -/
def State.reportStack (s : State) (k : Nat) : List Byte :=
  match s.jobOn k with
  | none => natToBytes 8 0
  | some j =>
    match s.job j with
    | none => natToBytes 8 0
    | some v => natToBytes 8 (j + (if v.suspended then 2 ^ 32 else 0) +
        (match v.keySlot with | some n => 2 ^ 33 + n * 2 ^ 36 | none => 0))

/-- CHAIN of the newest audit entry, or zeros. -/
def State.auditChain (s : State) : List Byte :=
  let h := s.mram.auditHead.toNat
  if h = 0 then List.replicate 32 0 else digestBytes (smGet AuditEntry.blank s.mram.audit ((h - 1) % 16384)).chain

/-- Bytes 0x000 to 0x2DF of a report. -/
def State.reportBody (s : State) (q : Nat) (nonce : List Byte) : List Byte :=
  natToBytes 4 0x41545231 ++ natToBytes 2 1 ++ natToBytes 2 0xFB4 ++ natToBytes 8 s.part.serial.toNat ++ natToBytes 8 s.aon.toNat ++
  natToBytes 4 q ++ natToBytes 1 s.dev.mode.code ++ [s.dev.cause] ++ natToBytes 1 s.variant ++
  natToBytes 1 ((if s.host.ide then 1 else 0) + (if s.sec.entropyOk then 2 else 0)) ++ nonce ++ natToBytes 4 s.dev.mfwVersion.toNat ++
  natToBytes 4 s.dev.dfwVersion.toNat ++ natToBytes 4 s.mram.generation.toNat ++ natToBytes 4 s.dev.licence.1 ++
  natToBytes 4 s.policy.counter.toNat ++ natToBytes 2 s.part.upperStepping.toNat ++ natToBytes 2 s.part.soleStepping.toNat ++
  natToBytes 2 s.part.iodStepping.toNat ++ natToBytes 6 0 ++ natToBytes 8 s.mram.auditHead.toNat ++ natToBytes 24 0 ++ s.auditChain ++
  s.mrBytes ++ (upTo 8).flatMap s.reportStack

/-- ATTEST: a signed report, with the certificate where it is asked for. -/
def execAttest (ring : Fin 64) (idx : BitVec 32) (s : State) : Out :=
  .next (s.runDesc ring idx 0xA (fun _ => true) fun t f =>
    if !f.buffersFit || f.u32 0x18 ≠ 64 then t.refuseDesc f 2
    else t.withIn f fun b =>
      let cert := le b 32 4 == 1
      if 2 ≤ le b 32 4 || !zeros b 36 28 || f.u32 0x28 < (if cert then 7720 else 4020) then t.refuseDesc f 2
      else if t.sigExhausted then t.refuseDesc f 0x3B
      else if !t.treeReady then t
      else
        let q := t.sigIndex
        let t1 := t.spendIndex
        let r := t1.reportBody q (b.take 32)
        t1.release f (r ++ idSignature q r ++ (if cert then t1.certBytes else [])))

end Sys2Proof.Machine
end

