-- ==== Sys2Proof/Machine/Thermal.lean ====
section
/-! DEFINITION. Thermal sensing and management (R455 to R473): samples, HOT and RATE, broken sensors, requests, enforcement,
thermal shutdown and the way out of SHUTDOWN; and the tread counters (R239, R240). Temperatures are in quarter degrees. -/

namespace Sys2Proof.Machine

/-! ## Dies and limits (R455, R459, R474) -/

inductive DieKind where
  | upper | sole | iod | hbm
deriving DecidableEq, Repr

def dieKind (d : Nat) : DieKind := if d < 8 then .upper else if d < 16 then .sole else if d < 18 then .iod else .hbm
/-- Sensors of a die. -/
def dieSensors (d : Nat) : Nat := match dieKind d with | .upper => 96 | .sole => 24 | .iod => 4 | .hbm => 1
/-- The stack of a die; 8 for an I/O die. -/
def dieStack (d : Nat) : Nat := match dieKind d with | .upper => d | .sole => d - 8 | .iod => 8 | .hbm => (d - 18) / 2

/-- Throttle, release and shutdown limits, the broken reading, and the rises that throttle and shut down (none for a die
without rise rules). -/
structure DieLimits where
  throttle : Int
  release : Int
  shutdown : Int
  broken : Int
  rises : Option (Int × Int)
deriving DecidableEq, Repr

def dieLimits (d : Nat) : DieLimits :=
  match dieKind d with
  | .upper | .sole => ⟨380, 360, 460, 384, some (32, 80)⟩
  | .iod => ⟨400, 380, 480, 404, none⟩
  | .hbm => ⟨340, 320, 380, 344, none⟩

/-- A reading from −40 °C to 150 °C (R456). -/
def readingValid (q : Int) : Bool := decide (-160 ≤ q) && decide (q ≤ 600)

/-! ## What is read (R456) -/

def State.sensorBroken (s : State) (d n : Nat) : Bool := s.defects.sensors.contains (96 * d + n)

/-- A sensor that is read. -/
def State.sensorRead (s : State) (d n : Nat) : Bool :=
  let k := dieStack d
  if s.dev.mode matches .off then false
  else
    match dieKind d with
    | .sole | .iod => true
    | .hbm => s.dev.stackUp.getLsbD k
    | .upper => s.dev.stackUp.getLsbD k && !s.pwr.gated.getLsbD k &&
        (52 ≤ n || !((s.tile (52 * k + n)).power matches .parked | .dark))

/-- A die whose sensors take part in the rules: a sole's only while it is powered. -/
def State.takesPart (s : State) (d : Nat) : Bool :=
  match dieKind d with
  | .sole => s.dev.stackUp.getLsbD (dieStack d)
  | .upper | .iod | .hbm => true

/-- An I/O die with three broken sensors blocks the exit (R465). -/
def State.exitBlocked (s : State) : Bool := 3 ≤ (s.brokenOn 16).length || 3 ≤ (s.brokenOn 17).length

/-! ## Hot stacks (R462) -/

def Die.isHot (x : Die) : Bool := x.hot || x.rate

/-- The stacks that are hot now. -/
def State.hotStacks (s : State) : BitVec 8 :=
  if (s.die 16).hot || (s.die 17).hot then 0xFF
  else BitVec.ofNat 8 (((upTo 8).filter fun k =>
    (s.die k).isHot || (s.die (8 + k)).isHot || (s.die (18 + 2 * k)).isHot || (s.die (19 + 2 * k)).isHot).foldl (fun m k => m + 2 ^ k) 0)

/-! ## Thermal shutdown (R469, R470) -/

/-- A trigger: the clocks stop, every job's end is decided, the key slots are zeroed and the record is committed; in SHUTDOWN,
or while a shutdown runs, it has no effect. -/
def State.thermalTrip (s : State) (trigger die sensor : Nat) (reading : Int) : State :=
  if (s.dev.mode matches .shutdown) || s.dev.shuttingDown then s
  else
    let s1 := s.endJobs (fun _ _ => true) fun v => JobEnd.plain 0x0B s.aon v.image.stackBits
    { s1.thermalRecord trigger die sensor reading with dev.shuttingDown := true, hbm.keys := [], hbm.mem := [] }

/-- SHUTDOWN_POWER_REMOVAL (R470): after the commit, CAUSE 0x06. -/
def execShutdownPowerRemoval (s : State) : Out := if s.dev.shuttingDown then .next (s.powerDown 6) else .next s

/-! ## Requests (R467) -/

/-- The power figure of a request: MODULE_POWER of the last window, or the input samples of the last 40,000 cycles. -/
def State.thermalTarget (s : State) : Nat :=
  if (s.dev.mode matches .ready) && decide (0 < s.pwr.windows) then 9 * s.pwr.average / 10
  else
    let l := (keepRecent s.aon.toNat s.pwr.recent).map Prod.snd
    9 * l.foldl (· + ·) 0 / (10 * l.length)

def State.thermalGrace (s : State) : Nat := s.reg 0x4000 200 * 40000

/-- After a sample: the window notes the hot stacks, and a request is posted if one is due. -/
def State.thermalPost (s : State) (reading : Int) : State :=
  let hot := s.hotStacks
  let s1 := { s with thm.hotInWindow := s.thm.hotInWindow ||| hot }
  if hot = 0 || s.thm.active || s.dev.shuttingDown || !(s.dev.mode matches .bringup | .check | .ready | .held) then s1
  else
    let s2 := (s1.auditThermal 0 ((maskStacks hot).headD 0) reading).cntThm 0x118 1
    { s2 with
      thm.active := true, thm.judged := false, thm.target := s1.thermalTarget
      thm.requestAt := s1.aon + BitVec.ofNat 64 s1.thermalGrace }

/-! ## Samples (R457 to R464) -/

/-- A sensor becomes broken: recorded in MRAM, the black box and the audit log (R464, R473). -/
def State.breakSensor (s : State) (d n : Nat) : State :=
  let s1 := s.setDefects { s.defects with sensors := s.defects.sensors ++ [96 * d + n] }
  let k := dieStack d
  let s2 := s1.fieldDefect 5 d s1.findReason [BitVec.ofNat 8 d, BitVec.ofNat 8 n] (if k < 8 then k else 0xFF)
  { s2.auditThermal 3 d n with thm.newBroken := true }

/-- What one sample tells: the value that counts, whether the sensor breaks at it, and the runs of R463. -/
structure SampleResult where
  value : Int
  breaks : Bool
  outRun : Nat
  sameRun : Nat
deriving DecidableEq, Repr

/-- Reads a working sensor (R463): an out-of-range sample is held at the previous reading or the broken value. -/
def Sensor.take (x : Sensor) (d : Nat) (raw : Word) (reading : Option Int) : SampleResult :=
  let bad := match reading with | some q => !readingValid q | none => true
  let out := if bad then x.outRun + 1 else 0
  let same := if (dieKind d matches .hbm) then 0 else if x.sameRun != 0 && x.raw == raw then x.sameRun + 1 else 1
  let brk := (dieLimits d).broken
  if 2 ≤ out || 64 ≤ same then ⟨brk, true, out, same⟩
  else
    match reading with
    | some q => if bad then ⟨x.reading.getD brk, false, out, same⟩ else ⟨q, false, out, same⟩
    | none => ⟨x.reading.getD brk, false, out, same⟩

/-- The rules of one sample on its die (R458, R460, R461, R469): HOT, RATE, and the shutdown triggers. -/
def State.judgeSample (s : State) (d n : Nat) (value : Int) (rise : Option Int) (third : Bool) : State :=
  let l := dieLimits d
  let x := s.die d
  let hot := decide (l.throttle ≤ value)
  let rate := match l.rises, rise with | some t, some r => decide (t.1 ≤ r) | _, _ => false
  let s1 := if hot && !x.hot then s.cntThm 0x108 1 else s
  let s2 := if rate && !x.rate then s1.cntThm 0x110 1 else s1
  let s3 := s2.setDie d { x with hot := x.hot || hot, rate := x.rate || rate, rateMet := x.rateMet || rate }
  let s4 :=
    if l.shutdown ≤ value then s3.thermalTrip 0 d n value
    else if match l.rises, rise with | some t, some r => decide (t.2 ≤ r) | _, _ => false then s3.thermalTrip 1 d n value
    else if third then s3.thermalTrip 2 d n value
    else s3
  s4.thermalPost value

/-- SENSOR_SAMPLE (R457, R458): the round's sample, or a further one of a sensor in fast sampling. -/
def execSensorSample (die : Fin 34) (sensor : Fin 96) (raw : BitVec 32) (reading : Option Int) (s : State) : Out :=
  let d := die.val
  let n := sensor.val
  let x := s.sensor d n
  let was := s.sensorBroken d n
  if dieSensors d ≤ n || !s.sensorRead d n || (x.windowMax.isSome && (!x.fast || was)) then .next s
  else
    let l := dieLimits d
    let r := if was then ⟨l.broken, false, x.outRun, x.sameRun⟩ else x.take d raw reading
    let bad := was || r.breaks
    let rise := if bad then none else x.reference.map fun q => r.value - q
    let part := s.takesPart d
    let near := part && !bad && !(dieKind d matches .hbm) &&
      (decide (l.throttle - 24 ≤ r.value) || (match rise with | some q => decide (16 ≤ q) | none => false))
    let s1 := if x.windowMax.isSome then s.cntThm 0x100 1 else s
    let s2 := s1.setSensor d n { x with
      reading := some r.value, raw := raw, sameRun := r.sameRun, outRun := r.outRun
      rise := (match rise with | some q => max x.rise (min q.toNat 255) | none => x.rise)
      fast := !bad && (x.fast || near), fastMet := x.fastMet || near
      windowMax := some (match x.windowMax with | some q => max q r.value | none => r.value) }
    let s3 := if r.breaks then s2.breakSensor d n else s2
    let third := r.breaks && decide (3 ≤ (s3.brokenOn d).length)
    .next (if part then s3.judgeSample d n r.value rise third else s3)

/-! ## Window ends (R460, R461, R468, R471) -/

/-- The sensors of a die that were sampled in the window, with their greatest samples. -/
def State.windowMaxima (s : State) (d : Nat) : List (Nat × Int) :=
  (upTo (dieSensors d)).filterMap fun n => (s.sensor d n).windowMax.map fun q => (n, q)

/-- The greatest of a list, the first where several are equal. -/
def greatest : List (Nat × Int) → Option (Nat × Int)
  | [] => none
  | a :: l => match greatest l with
    | some b => if a.2 < b.2 then some b else some a
    | none => some a

/-- A die's flags and hottest sample at a window end. -/
def State.endDie (s : State) (d : Nat) : State :=
  let x := s.die d
  let m := s.windowMaxima d
  s.setDie d { x with
    hot := x.hot && m.any (fun e => decide ((dieLimits d).release < e.2))
    rate := x.rate && x.rateMet, rateMet := false, lastHottest := (greatest m).map Prod.snd }

/-- A sensor at a window end: its reference is its last sample, unless that was an untrusted first sample. -/
def endSensor (x : Sensor) : Sensor :=
  let held := x.outRun != 0 && x.reference.isNone
  { x with
    reference := if x.windowMax.isSome && !held then x.reading else none, rise := 0, fast := x.fast && x.fastMet, fastMet := false
    windowMax := none, reading := if x.windowMax.isSome then x.reading else none }

/-- The setting of a stack. -/
def State.thermalSetting (s : State) (k : Nat) : Nat := smGet 27 s.thm.settings k

/-- One stack's step at a window end while ENFORCED is set (R468). -/
def State.stepStack (s : State) (hot : BitVec 8) (k : Nat) : State :=
  let v := s.thermalSetting k
  if hot.getLsbD k then
    let s1 := if 10 < v then s.cntThm 0x120 1 else s
    { s1 with thm.settings := smSet 27 s.thm.settings k (if 10 < v then v - 1 else v), thm.cool := smSet 0 s.thm.cool k 0 }
  else
    let c := smGet 0 s.thm.cool k + 1
    if c < 10 then { s with thm.cool := smSet 0 s.thm.cool k c }
    else
      let s1 := if v < 27 then s.cntThm 0x128 1 else s
      { s1 with thm.settings := smSet 27 s.thm.settings k (if v < 27 then v + 1 else v), thm.cool := smSet 0 s.thm.cool k 0 }

/-- Enforcement at a window end: settings step, and after ten windows with every stack at 27 and none hot the request clears. -/
def State.enforceWindow (s : State) (hot : BitVec 8) : State :=
  if !s.thm.enforced then s
  else
    let calm := hot == 0 && (upTo 8).all fun k => s.thermalSetting k == 27
    let run := if calm then s.thm.standing + 1 else 0
    let s1 := (upTo 8).foldl (fun t k => t.stepStack hot k) s
    if 10 ≤ run then
      { s1.auditThermal 2 0xFF s1.thm.hottest with
        thm.active := false, thm.enforced := false, thm.judged := false, thm.target := 0, thm.requestAt := 0, thm.standing := 0 }
    else { s1 with thm.standing := run }

/-- One step of a tread counter (R239) at the greatest reading T. -/
def Tread.step (x : Tread) (t : Int) : Tread :=
  if !x.armed then
    let lo := match x.low with | some v => min v t | none => t
    if lo + 80 ≤ t then { x with low := some lo, armed := true, high := some t } else { x with low := some lo }
  else
    let hi := match x.high with | some v => max v t | none => t
    if t ≤ hi - 80 then
      { x with high := some hi, count := BitVec.ofNat 32 (satAdd32 x.count.toNat 1), armed := false, low := some t }
    else { x with high := some hi }

/-- The tread counter of a stack at a round (R239): T over the readings of its upper and sole, of the sole alone while the upper is
gated. -/
def State.treadRound (s : State) (k : Nat) : State :=
  match greatest ((if s.pwr.gated.getLsbD k then [] else s.windowMaxima k) ++ s.windowMaxima (8 + k)) with
  | none => s
  | some (_, t) =>
    let x := smGet Tread.fresh s.thm.tread k
    let y := x.step t
    let s1 := { s with thm.tread := smSet Tread.fresh s.thm.tread k y }
    if y.count != x.count then { s1 with mram.tread := smSet Tread.fresh s1.mram.tread k y } else s1

/-- The tread counters, outside AON and SHUTDOWN; every 1,000 rounds they are committed (R240). -/
def State.treads (s : State) : State :=
  let s1 := if s.dev.mode matches .aon | .shutdown then s else (upTo 8).foldl State.treadRound s
  if s1.thm.rounds % 1000 = 0 then { s1 with mram.tread := s1.thm.tread } else s1

/-- Every sole and I/O-die sensor that is not broken read below 70 °C at every sample of the window (R471). -/
def State.cooled (s : State) : Bool :=
  (upTo 18).all fun d => d < 8 || (upTo (dieSensors d)).all fun n =>
    s.sensorBroken d n || (match (s.sensor d n).windowMax with | some q => decide (q < 280) | none => false)

/-- The way out of SHUTDOWN (R471): the exit is logged, and a cold reset runs. -/
def State.leaveShutdown (s : State) : State :=
  ({ s with thm.ack := false }.auditFw 9 0 (natToBytes 1 2 ++ [s.dev.cause] ++ natToBytes 8 s.aon.toNat)).coldReset

/-- THERMAL_WINDOW_END (R457, R468, R471): the round of 40,000 always-on cycles ends. -/
def execThermalWindowEnd (s : State) : Out :=
  if s.dev.mode matches .off then .next s
  else
    let s1 := { s with thm.rounds := s.thm.rounds + 1 }.treads
    let exit := (s1.dev.mode matches .shutdown) && s1.thm.ack && !s1.exitBlocked && s1.cooled
    let top := greatest ((upTo 34).filterMap fun d => (greatest (s1.windowMaxima d)).map fun e => (96 * d + e.1, e.2))
    let hot := s1.thm.hotInWindow
    let s2 := (upTo 34).foldl State.endDie s1
    let s3 := { s2 with thm.sensors := smMapD Sensor.reset (fun _ x => endSensor x) s2.thm.sensors }
    let s4 := match top with
      | some (i, q) => { s3 with thm.hottest := q, thm.hottestDie := i / 96, thm.hottestSensor := i % 96 }
      | none => s3
    let s5 := { s4.enforceWindow hot with thm.hotInWindow := 0, thm.hotAtEnd := s4.hotStacks }
    .next (if exit then s5.leaveShutdown else s5)

/-- THERMAL_ENFORCE_AT (R468): at ENFORCE_AT the request is enforced if a stack was hot at the last window's end, or cleared. -/
def execThermalEnforceAt (s : State) : Out :=
  if !s.thm.active || s.thm.judged || decide (s.aon.toNat < s.thm.requestAt.toNat) then .next s
  else if s.thm.hotAtEnd != 0 then
    .next { s.auditThermal 1 ((maskStacks s.thm.hotAtEnd).headD 0) s.thm.hottest with
      thm.enforced := true, thm.judged := true, thm.standing := 0, thm.cool := [] }
  else .next { s.auditThermal 2 0xFF s.thm.hottest with thm.active := false, thm.target := 0, thm.requestAt := 0 }

/-- A write of THM_ACK (R320, R471, R504): never refused; accepted in SHUTDOWN with KEY 0x5AA5 and logged as THM_ACK, and any
other write logged as REG_WRITE without effect. -/
def State.thmAckWrite (s : State) (v : Word) : State :=
  if !s.writable 0x401C then s
  else if (s.dev.mode matches .shutdown) && decide (v.toNat / 65536 = 0x5AA5) then
    { s.audit 0 0xFFFF 0x17 0 [] with thm.ack := true }
  else s.logWrite 4 0x1C v.toNat true (fun _ => 0) id

/-- THM_ACK (R471). -/
def execThmAck (v : BitVec 32) (s : State) : Out := .next (s.thmAckWrite v)

end Sys2Proof.Machine
end

