-- ==== Sys2Proof/Machine/StatusPage.lean ====
section
/-! DEFINITION. The status page (R351, R352, R451). -/

namespace Sys2Proof.Machine

/-- A slow-down as the page shows it: active, enforced, source, target and ENFORCE_AT. -/
structure SlowDown where
  active : Bool
  enforced : Bool
  source : Nat
  target : Nat
  at_ : Nat
deriving DecidableEq, Repr

/-- The slow-down shown: of two, the active one, then the lower target, then the thermal one (R451). -/
def State.slowDown (s : State) : SlowDown :=
  let t : SlowDown := ⟨s.thm.active, s.thm.enforced, 0, if s.thm.active then s.thm.target else 0, if s.thm.active then s.thm.requestAt.toNat else 0⟩
  let p : SlowDown := ⟨s.pwr.active, s.pwr.enforced, 1, if s.pwr.active then s.pwr.target else 0, if s.pwr.active then s.pwr.requestAt.toNat else 0⟩
  let some1 := fun (x : SlowDown) => x.active || x.enforced
  if !some1 p then t
  else if !some1 t then p
  else if p.active && !t.active then p
  else if t.active && !p.active then t
  else if p.target < t.target then p else t

/-- Portions still unfilled on the two HBM stacks of a compute stack (R257). -/
def State.fillCount (s : State) (k : Nat) : Nat := (s.unfilledPages (2 * k)).length + (s.unfilledPages (2 * k + 1)).length

/-- The JOBS field of a stack. -/
def State.jobWord (s : State) (k : Nat) : Nat :=
  match s.jobOn k with
  | none => 0
  | some j =>
    let susp := match s.job j with | some v => v.suspended | none => false
    j % 2 ^ 32 + (if susp then 2 ^ 32 else 0) + (if s.fillCount k = 0 then 0 else 2 ^ 33)

/-- A mask of the numbers below `n` that satisfy a test. -/
def maskOf (n : Nat) (p : Nat → Bool) : Nat := ((upTo n).filter p).foldl (fun m k => m + 2 ^ k) 0

/-- The last laps of a stack's scrubbers: 0x148, 0x150 and 0x158 of its counters (R271). -/
def State.lap (s : State) (k off : Nat) : Nat := Counters.get (smGet [] s.hbm.counters k) off

/-- The 4,096 bytes of the page. -/
def State.statusBytes (s : State) : List Byte :=
  let d := s.slowDown
  let b := fun (x : Bool) n => if x then 2 ^ n else 0
  natToBytes 4 0x53545031 ++ natToBytes 2 1 ++ natToBytes 1 s.dev.mode.code ++ [s.dev.cause] ++ natToBytes 8 s.mgt.heartbeat.toNat ++
  natToBytes 8 s.aon.toNat ++ natToBytes 4 s.mram.generation.toNat ++ natToBytes 4 s.pwr.average ++
  natToBytes 4 (b d.active 0 + b d.enforced 1 + 16 * d.source) ++ natToBytes 4 d.target ++ natToBytes 8 d.at_ ++ natToBytes 16 0 ++
  (upTo 8).flatMap (fun k => natToBytes 8 (s.jobWord k)) ++
  (upTo 8).flatMap (fun k => natToBytes 8 (maskOf 64 fun n => (s.slice (64 * k + n)).flag)) ++
  natToBytes 4 s.hbm.late.toNat ++ natToBytes 1 (maskOf 8 fun k => (s.weltStack k).due) ++ natToBytes 59 0 ++
  (upTo 16).flatMap (fun h => natToBytes 8 (s.lap (h / 2) (0x148 + 8 * (h % 2)))) ++
  (upTo 8).flatMap (fun k => natToBytes 8 (s.lap k 0x158)) ++ natToBytes 64 0 ++
  (upTo 64).flatMap (fun r => natToBytes 8 ((s.ring r).ci.toNat + 2 ^ 32 * (s.ring r).errorCode.toNat + b (s.ring r).enable 36)) ++
  natToBytes 3064 0 ++ natToBytes 8 s.mgt.heartbeat.toNat

/-- STATUS_PAGE_WRITE (R351): with ENABLE set, in every state but OFF and AON, in ascending addresses. -/
def execStatusPageWrite (s : State) : Out :=
  if !s.linked || !s.mgt.statusPage.getLsbD 0 then .next s
  else
    let s1 := { s with mgt.heartbeat := s.mgt.heartbeat + 1 }
    let (ok, s2) := State.hostPut 65 (s.mgt.statusPage.toNat / 4096 * 4096) s1.statusBytes s1
    .next (if ok then s2 else s2.hostError)

end Sys2Proof.Machine
end

