-- ==== Sys2Proof/Machine/Registers.lean ====
section
/-! DEFINITION. What the host reads at each register: the BAR0 blocks (R319, R321, R327, R329, R388, R454, R474, R507) and the
spaces of the indirect window (R157, R179, R220, R221, R248, R271, R296, R313, R323, R401), with the 64-bit counters and their
latches (R219) and the fields that a read clears (R14). -/

namespace Sys2Proof.Machine

/-! ## Helpers -/

/-- Bits of a register's fields. -/
def flagAt (x : Bool) (n : Nat) : Nat := if x then 2 ^ n else 0
def lo32 (n : Nat) : Nat := n % 2 ^ 32
def hi32 (n : Nat) : Nat := n / 2 ^ 32 % 2 ^ 32
/-- A reading in a 16-bit field. -/
def signed16 (q : Int) : Nat := (q % 65536).toNat

/-- The image of the job that holds a stack. -/
def State.stackImage (s : State) (k : Nat) : Option Image := (s.jobOn k).bind fun j => (s.job j).map Job.image

/-- The clock a tile's region is set to, in units of 100 MHz (R434): the least of the power setting, the thermal setting and the
tile's cap. -/
def State.clockSetting (s : State) (t : Nat) : Nat :=
  let c := min s.pwr.setting (s.thermalSetting (t / 52))
  let cap := (s.region (t / 52) (t % 52)).cap (t % 52)
  if cap = 0 then c else min c cap

/-- The present clock of a tile: halved while R437 halves it, 0 when the tile is not on. -/
def State.tileClock (s : State) (t : Nat) : Nat :=
  if (s.tile t).power matches .on then
    if (s.region (t / 52) (t % 52)).halved then s.clockSetting t / 2 else s.clockSetting t
  else 0

/-! ## Selections -/

def State.secSel (s : State) : Nat := s.reg 0x3000 0 % 16
def State.thmDie (s : State) : Nat := s.reg 0x4020 0 % 64
def State.thmSensor (s : State) : Nat := s.reg 0x4024 0 % 128
def State.pwrStack (s : State) : Nat := s.reg 0x5020 0 % 8
def State.pwrRegion (s : State) : Nat := s.reg 0x5024 0 % 64
def State.ringSel (s : State) : Nat := s.reg 0x1000 0 % 64
def State.sliceSel (s : State) (k : Nat) : Nat := s.reg (indKey 0 (0x1000 * (k + 1) + 8)) 0 % 64
def State.chanSel (s : State) (k : Nat) : Nat := s.reg (indKey 1 (0x1000 * (k + 1) + 0xC)) 0 % 64
def State.steerSel (s : State) (k : Nat) : Nat := s.reg (indKey 1 (0x1000 * (k + 1) + 0x88)) 0
def State.eccSel (s : State) : Nat := s.reg (indKey 2 0x18) 0
def State.masterSel (s : State) : Nat := s.reg (indKey 4 0x80) 0 % 512
def State.tileSel (s : State) : Nat := s.reg (indKey 6 0) 0 % 512
def State.rngSel (s : State) : Nat := s.reg (indKey 7 0) 0 % 512
def State.rngLaneSel (s : State) : Nat := s.reg (indKey 7 8) 0 % 128

/-! ## BAR0 -/

/-- MGT (R321, R325). -/
def State.readMgt (s : State) : Nat → Nat
  | 0x00 => 0xA7E00880
  | 0x04 => s.dev.mode.code + 256 * s.dev.cause.toNat
  | 0x08 => lo32 s.part.serial.toNat
  | 0x0C => hi32 s.part.serial.toNat
  | 0x18 => s.dev.mfwVersion.toNat
  | 0x1C => s.dev.dfwVersion.toNat
  | 0x20 => s.variant % 4
  | 0x24 => s.mram.generation.toNat
  | 0x28 => lo32 s.mgt.statusPage.toNat
  | 0x2C => hi32 s.mgt.statusPage.toNat
  | 0x30 => s.reg 0x30 0
  | 0x34 => s.reg 0x34 0
  | 0x50 => s.reg 0x50 0
  | 0x54 => s.reg 0x54 0
  | 0x58 => s.reg 0x58 0
  | 0x60 => flagAt s.mgt.fwBusy 0 + 16 * s.mgt.fwResult.toNat
  | 0x70 => s.mgt.bar2Job.toNat
  | 0x74 => s.reg 0x74 0
  | 0x78 => s.reg 0x78 0
  | 0x7C => s.mgt.bar2Drops.toNat
  | _ => 0

/-- RING_STATUS (R327). -/
def State.ringStatus (s : State) (r : Nat) : Nat :=
  let g := s.ring r
  flagAt (s.ringIdle r) 0 + flagAt g.error 1 + 4 * g.errorCode.toNat + flagAt g.writeIgnored 8

/-- RING (R327). -/
def State.readRing (s : State) (off : Nat) : Nat :=
  let g := s.ring s.ringSel
  match off with
  | 0x00 => s.ringSel
  | 0x04 => s.ringCtrlValue
  | 0x08 => lo32 g.cmdBase.toNat
  | 0x0C => hi32 g.cmdBase.toNat
  | 0x10 => lo32 g.cplBase.toNat
  | 0x14 => hi32 g.cplBase.toNat
  | 0x18 => lo32 g.db.toNat
  | 0x1C => hi32 g.db.toNat
  | 0x20 => s.ringStatus s.ringSel
  | 0x24 => g.ci.toNat
  | 0x28 => g.cpi.toNat
  | 0x2C => s.ringInFlight s.ringSel
  | 0x30 => maskOf 32 fun r => (s.ring r).enable
  | 0x34 => maskOf 32 fun r => (s.ring (32 + r)).enable
  | _ => 0

/-- CXL (R329). -/
def State.readCxl (s : State) : Nat → Nat
  | 0x00 => s.host.width.toNat + 32 * s.host.rate.toNat + flagAt s.host.up 8 + flagAt s.host.ide 9
  | 0x04 => s.mgt.linkDowns.toNat
  | 0x08 => s.mgt.flrs.toNat
  | 0x0C => s.mgt.bar0Bad.toNat
  | 0x10 => s.mgt.hostErrors.toNat
  | _ => 0

/-- The two-bit states of SEC_KEY_SLOTS. -/
def SlotState.code : SlotState → Nat
  | .empty => 0 | .offered => 1 | .ready => 2 | .bound => 3

/-- SEC_STATUS (R507). -/
def State.secStatus (s : State) : Nat :=
  flagAt s.sec.entropyOk 0 + flagAt s.sec.entropyFail 1 + flagAt s.sigExhausted 2 + flagAt s.auditReserve 3 + flagAt s.sec.auditLost 4

/-- SEC (R507). -/
def State.readSec (s : State) (off : Nat) : Nat :=
  if 4 ≤ off && off ≤ 0x20 then bytesToNat (((digestBytes (s.mr s.secSel)).drop (off - 4)).take 4)
  else
    match off with
    | 0x00 => s.secSel
    | 0x24 => s.sigIndex % 2 ^ 31
    | 0x28 => s.policy.counter.toNat
    | 0x2C => s.policy.flags.toNat
    | 0x30 => (upTo 16).foldl (fun m n => m + 4 ^ n * (s.keySlot n).state.code) 0
    | 0x34 => lo32 s.mram.auditHead.toNat
    | 0x38 => hi32 s.mram.auditHead.toNat
    | 0x3C => lo32 s.mram.auditAck.toNat
    | 0x40 => hi32 s.mram.auditAck.toNat
    | 0x44 => s.unacked
    | 0x48 => s.secStatus
    | _ => 0

/-- THM_STATUS (R474). -/
def State.thmStatus (s : State) : Nat :=
  flagAt s.thm.active 0 + flagAt s.thm.enforced 1 + flagAt s.thm.ack 2 + flagAt s.exitBlocked 3 + flagAt s.thm.newBroken 4

/-- THM_SENSOR and THM_DIE_STATUS of the selected die. -/
def State.thmSensorValue (s : State) (d n : Nat) : Nat :=
  let x := s.sensor d n
  if 34 ≤ d || dieSensors d ≤ n then 0
  else
    signed16 (x.reading.getD 0) + flagAt (s.sensorBroken d n) 16 + flagAt x.fast 17 + flagAt (!s.sensorRead d n) 18 + 2 ^ 24 * min 255 x.rise
def State.thmDieStatus (s : State) (d : Nat) : Nat :=
  let x := s.die d
  if 34 ≤ d then 0
  else signed16 (x.lastHottest.getD 0) + flagAt x.hot 16 + flagAt x.rate 17 + 2 ^ 18 * ((s.brokenOn d).length % 128)

/-- THM (R474). -/
def State.readThm (s : State) : Nat → Nat
  | 0x00 => s.reg 0x4000 200
  | 0x04 => s.thmStatus
  | 0x08 => lo32 s.thm.requestAt.toNat
  | 0x0C => hi32 s.thm.requestAt.toNat
  | 0x10 => signed16 s.thm.hottest + 2 ^ 16 * s.thm.hottestDie + 2 ^ 22 * s.thm.hottestSensor
  | 0x14 => (upTo 4).foldl (fun m k => m + 256 ^ k * s.thermalSetting k) 0
  | 0x18 => (upTo 4).foldl (fun m k => m + 256 ^ k * s.thermalSetting (4 + k)) 0
  | 0x20 => s.thmDie
  | 0x24 => s.thmSensor
  | 0x28 => s.thmSensorValue s.thmDie s.thmSensor
  | 0x2C => s.thmDieStatus s.thmDie
  | 0x30 => s.defects.sensors.length % 1024
  | 0x34 => s.mram.shutdowns.toNat
  | _ => 0

/-- PWR_STATUS (R454). -/
def State.pwrStatus (s : State) : Nat :=
  flagAt s.pwr.active 0 + flagAt s.pwr.enforced 1 + flagAt s.pwr.fast 2 + flagAt s.pwr.inputHigh 3

/-- The failed phases of a region, as MRAM records them. -/
def State.failedMask (s : State) (k r : Nat) : Nat :=
  maskOf 8 fun i => (decide (52 ≤ r) || decide (i < 5)) && s.defects.phases.contains (292 * k + (if r < 52 then 5 * r + i else 260 + 8 * (r - 52) + i))

/-- PWR_REGION_STATUS (R454). -/
def State.regionStatus (s : State) (k r : Nat) : Nat :=
  let failed := s.failedMask k r
  let g := { s.region k r with failed := BitVec.ofNat 8 failed }
  let st := match g.state with | .on => 0 | .off | .ramping => 1 | .parked => 2 | .dark => 3
  st + 16 * failed + 2 ^ 12 * (g.limit r % 64) + 2 ^ 18 * g.cap r + 2 ^ 26 * min 3 g.trips

/-- The output voltage of a region, mV (R434): by its clock; a parked tile's local store is held at 0.50 V (R446), and the
uncore regions of a gated upper at 0.55 V (R447). -/
def State.regionVoltage (s : State) (k r : Nat) : Nat :=
  if r < 52 && ((s.region k r).state matches .parked) then 500
  else if 52 ≤ r && s.pwr.gated.getLsbD k then 550
  else 550 + (Config.regionMillivolts k r (if r < 52 then s.tileClock (52 * k + r) else 0)).val

/-- PWR (R454). -/
def State.readPwr (s : State) (off : Nat) : Nat :=
  let k := s.pwrStack
  let r := s.pwrRegion
  match off with
  | 0x00 => s.pwr.millivolts % 65536
  | 0x04 => s.pwr.average % 65536
  | 0x08 => s.variant % 4 + 65536 * (s.tier / 100)
  | 0x0C => s.reg 0x500C 200
  | 0x10 => s.pwr.setting + 256 * (upTo 8).foldl (fun m n => min m (s.thermalSetting n)) 27
  | 0x14 => s.pwrStatus
  | 0x18 => lo32 s.pwr.requestAt.toNat
  | 0x1C => hi32 s.pwr.requestAt.toNat
  | 0x20 => k
  | 0x24 => r
  | 0x28 => if 56 ≤ r then 0 else s.regionStatus k r
  | 0x2C =>
    if 56 ≤ r then 0
    else min 65535 (s.region k r).milliamps + 65536 * s.regionVoltage k r
  | 0x30 =>
    min 65535 ((upTo 56).foldl (fun m n => m + (s.region k n).milliamps) 0 / 1000) + 2 ^ 16 * (14 - (s.failedModule k).length) +
      flagAt (s.pwr.gated.getLsbD k) 21
  | _ => 0

/-- FAB (R388). -/
def State.readFab (s : State) (off : Nat) : Nat :=
  let p := s.fabSel
  let x := s.port p
  if 0x100 ≤ off && 18 ≤ p then 0
  else
    match off with
    | 0x000 => s.mram.fabricId.toNat
    | 0x004 => maskOf 18 fun n => (s.port n).up
    | 0x008 => p
    | 0x00C => s.reg 0x600C 0x9C4
    | 0x010 => s.reg 0x6010 0x40
    | 0x014 => s.reg 0x6014 0
    | 0x018 => s.selEntry.hopWord
    | 0x01C => s.selEntry.mask.toNat
    | 0x100 =>
      x.width + flagAt x.up 4 + flagAt x.retraining 5 + flagAt (!s.portLicensed p) 6 + 2 ^ 8 * x.lanes.toNat + 2 ^ 16 * x.usable.toNat
    | 0x104 => x.neighbourId.toNat + 2 ^ 16 * x.neighbourPort.toNat + flagAt x.neighbourValid 31
    | 0x108 => lo32 x.neighbourSerial.toNat
    | 0x10C => hi32 x.neighbourSerial.toNat
    | 0x110 => x.epoch.toNat
    | 0x120 => s.awlCtl p
    | 0x124 => s.awlMatch p
    | 0x128 => s.awlBit p
    | 0x12C => x.awl.remaining % 65536 + flagAt x.awl.armed 16 + flagAt x.awl.refused 17
    | _ => 0

/-- The halted groups of the device: job by group. -/
def State.haltedJobs (s : State) : List Nat :=
  s.tiles.flatMap fun e => (e.2.groups.filter fun g => g.2.halted).map fun g => g.2.job.toNat

/-- DBG (R507). -/
def State.readDbg (s : State) : Nat → Nat
  | 0x00 => s.haltedJobs.length
  | 0x04 => s.haltedJobs.headD 0
  | _ => 0

/-- A BAR0 register that is neither a 64-bit counter nor MGT_IND_DATA, by offset (R319). -/
def State.readBar0 (s : State) (off : Nat) : Nat :=
  let o := off % 0x1000
  match off / 0x1000 with
  | 0 => s.readMgt o
  | 1 => s.readRing o
  | 2 => s.readCxl o
  | 3 => s.readSec o
  | 4 => s.readThm o
  | 5 => s.readPwr o
  | 6 => s.readFab o
  | 7 => s.readDbg o
  | _ => 0

/-! ## The indirect spaces -/

/-- The lines that hold a tag of a slice. -/
def State.heldLines (s : State) (k : Nat) : List Nat := smKeys (fun l e => e.present && s.plan.lineSlice l == k) s.sole.lines

/-- SOLE_SLICE_THRASH (R221). -/
def Slice.thrash (x : Slice) : Nat := flagAt x.flag 0 + 256 * x.rate + 65536 * min 15 x.cool

/-- Block of a stack of SOLE_ (R221). -/
def State.readSoleStack (s : State) (k off : Nat) : Nat :=
  let n := 64 * k + s.sliceSel k
  let ls := s.heldLines n
  match off with
  | 0x00 => maskOf 32 fun i => s.sliceOk (64 * k + i)
  | 0x04 => maskOf 32 fun i => s.sliceOk (64 * k + 32 + i)
  | 0x08 => s.sliceSel k
  | 0x10 => maskOf 32 fun i => (s.slice (64 * k + i)).flag
  | 0x14 => maskOf 32 fun i => (s.slice (64 * k + 32 + i)).flag
  | 0x18 => smGet 0 s.sole.toLong k % 2 ^ 32
  | 0x1C => smGet 0 s.sole.toShort k % 2 ^ 32
  | 0x20 => (upTo 64).foldl (fun m i => m + s.sliceEntries (64 * k + i)) 0
  | 0x80 => s.slotsTacked ls
  | 0x84 => s.sliceEntries n
  | 0x88 => (s.slice n).peak
  | 0x8C => (s.slice n).thrash
  | 0x90 => (ls.filter fun l => (s.soleLine l).valid != 0 || (s.soleLine l).isLong).length
  | 0x94 => (ls.filter fun l => !(s.soleLine l).isLong || l % 8 == 0).foldl (fun m l => m + maskCount (s.soleLine l).sectors) 0
  | _ => 0

/-- SOLE_ (R220). -/
def State.readSole (s : State) (off : Nat) : Nat :=
  match off with
  | 0x00 => s.reg (indKey 0 0) 0
  | 0x04 => s.tackUsed
  | 0x08 => s.thrashCtl
  | 0x0C => maskOf 8 fun k => (upTo 64).any fun i => (s.slice (64 * k + i)).flag
  | 0x10 => s.sole.refusals.toNat
  | _ => 0

/-- A channel that has retired (R242), or that the fuse map takes as retired (R233), and one that carries its pair's slice. -/
def State.chanRetired (s : State) (c : Nat) : Bool := (s.plan.get .welt c).isDisabled && ((s.plan.get .welt c).reason == 4 || (s.plan.get .welt c).reason == 1)
def State.chanCarrier (s : State) (c : Nat) : Bool := (s.plan.get .welt c).inService && (s.plan.get .welt c).reason == 5

/-- Block of a stack of WELT_ (R248). -/
def State.readWeltStack (s : State) (k off : Nat) : Nat :=
  let c := 64 * k + s.chanSel k
  let x := s.chan c
  match off with
  | 0x00 => (smGet Tread.fresh s.mram.tread k).count.toNat
  | 0x04 => lo32 (s.weltStack k).age
  | 0x08 => hi32 (s.weltStack k).age
  | 0x0C => s.chanSel k
  | 0x10 => maskOf 32 fun i => s.chanRetired (64 * k + i)
  | 0x14 => maskOf 32 fun i => s.chanRetired (64 * k + 32 + i)
  | 0x18 => (s.weltStack k).quiesces.toNat
  | 0x80 =>
    s.sparesUsed c false + 256 * s.sparesUsed c true + flagAt (s.chanRetired c) 16 + flagAt (s.chanCarrier c) 17 +
      flagAt x.sparesLow 18 + flagAt x.testDue 19
  | 0x84 => x.up.minHoriz.toNat + 2 ^ 8 * x.up.minVert.toNat + 2 ^ 16 * x.down.minHoriz.toNat + 2 ^ 24 * x.down.minVert.toNat
  | 0x88 => s.steerSel k
  | 0x8C => smGet 0x1FFF (s.steerMap c (s.steerSel k / 256 % 2 == 1)) (s.steerSel k % 128) % 2 ^ 13
  | _ => 0

/-- Common block of WELT_ (R248). -/
def State.readWelt (s : State) : Nat → Nat
  | 0x00 => s.weltReg 0 0x3C
  | 0x04 => s.weltReg 4 0x060C0C18
  | 0x08 => s.weltReg 8 8
  | 0x0C => maskOf 8 fun k => (s.weltStack k).due
  | 0x10 => ((upTo 512).filter s.chanRetired).length
  | _ => 0

/-- The entry that HBM_ECC_SEL shows (R271). -/
def State.eccEntry (s : State) : Option EccEntry :=
  let v := s.eccSel
  if v / 16 % 4 = 3 then none else (s.eccTable (v % 8) (v / 16 % 4))[v / 256 % 32]?

/-- Common block of HBM_ (R271). -/
def State.readHbm (s : State) : Nat → Nat
  | 0x00 => s.plan.deviceMemory
  | 0x04 => s.reg (indKey 2 4) 0x5A0
  | 0x08 => s.reg (indKey 2 8) 4
  | 0x0C => s.hbm.late.toNat
  | 0x10 => maskOf 8 fun k => s.fillCount k != 0
  | 0x14 => s.mram.hbmRows.length % 2 ^ 13 + 2 ^ 16 * (s.mram.soleWords.length % 2 ^ 13)
  | 0x18 => s.eccSel
  | 0x20 => match s.eccEntry with | some e => lo32 e.location.toNat | none => 0
  | 0x24 => match s.eccEntry with | some e => hi32 e.location.toNat | none => 0
  | 0x28 => match s.eccEntry with | some e => e.count % 65536 + 2 ^ 16 + flagAt e.recorded 17 | none => 0
  | 0x2C => match s.eccEntry with | some e => lo32 e.last.toNat | none => 0
  | 0x30 => match s.eccEntry with | some e => hi32 e.last.toNat | none => 0
  | _ => 0

def State.readHbmStack (s : State) (k : Nat) : Nat → Nat
  | 0x00 => s.fillCount k
  | 0x04 => flagAt (smHas s.hbm.keys (2 * k)) 0 + flagAt (smHas s.hbm.keys (2 * k + 1)) 1
  | _ => 0

/-- LIVE descriptors of a stack. -/
def State.seqLive (s : State) (k : Nat) : Nat := (smKeys (fun d e => e.live && d / 2 ^ 17 == k) s.seq.descs).length

/-- Block of a stack of SEQ_ (R296). -/
def State.readSeqStack (s : State) (k off : Nat) : Nat :=
  let of := fun (f : Image → Nat) => match s.stackImage k with | some im => f im | none => 0
  match off with
  | 0x00 => of fun im => im.descriptors.getD k 0
  | 0x04 => s.seqLive k
  | 0x08 => of fun im => im.kvPage + 128
  | 0x0C => of fun im => im.poolPages.getD k 0
  | 0x10 => of fun im => lo32 (im.poolBase.getD k 0)
  | 0x14 => of fun im => hi32 (im.poolBase.getD k 0)
  | 0x18 => (s.engine k).high
  | 0x1C => (s.engine k).freeCount
  | 0x20 => s.seqQueued k
  | _ => 0

def State.readSeq (s : State) : Nat → Nat
  | 0x00 => variantSeq s.variant / 8
  | 0x04 => (upTo 8).foldl (fun m k => m + s.seqLive k) 0
  | _ => 0

/-- QOS_ (R313). -/
def State.readQos (s : State) (off : Nat) : Nat :=
  let m := s.master s.masterSel
  if 0x100 ≤ off && off < 0x1C0 then s.stagedLimit ((off - 0x100) / 0x20) ((off - 0x100) % 0x20 / 4)
  else
    match off with
    | 0x04 => s.qosStatus
    | 0x08 => s.reg (indKey 4 8) 3
    | 0x10 => s.stagedTarget 4
    | 0x14 => s.stagedTarget 5
    | 0x18 => s.stagedTarget 6
    | 0x1C => s.stagedTarget 7
    | 0x80 => s.masterSel
    | _ =>
      if 508 ≤ s.masterSel then 0
      else
        match off with
        | 0x500 => smGet 0 m.latMax 4
        | 0x504 => smGet 0 m.latMax 5
        | 0x508 => smGet 0 m.latMax 6
        | 0x50C => smGet 0 m.latMax 7
        | 0x51C => (upTo 4).foldl (fun n c => n + 4 ^ c * smGet 0 m.urgency (4 + c)) 0
        | _ => 0

/-- CVU_ (R401). -/
def State.readCvu (s : State) (off : Nat) : Nat :=
  let u := s.cvuSel
  let c := s.cvu u
  if off = 0 then u
  else if 44 ≤ u then 0
  else
    match off with
    | 0x04 => s.cvuCtlValue
    | 0x28 => lo32 c.expect.toNat
    | 0x2C => hi32 c.expect.toNat
    | 0x30 => lo32 c.value.toNat
    | 0x34 => hi32 c.value.toNat
    | 0x38 => s.cvuStatus u
    | 0x3C => c.bytes
    | _ => 0

/-- Power of a tile as TILE_STATUS codes it. -/
def Power.tileCode : Power → Nat
  | .on => 0 | .ramping => 1 | .parked => 2 | .off => 3 | .dark => 3

/-- A tile holds groups or faces. -/
def Tile.holds (x : Tile) : Bool := !x.groups.isEmpty || x.face0.held || x.face1.held

/-- TILE_STATUS (R157). -/
def State.tileStatus (s : State) (t : Nat) : Nat :=
  let x := s.tile t
  let split := match s.stackImage (t / 52) with | some im => im.l1Split % 8 | none => 0
  (s.plan.get .tile t).state.toNat % 4 + 4 * x.power.tileCode + flagAt x.face0.held 4 + flagAt x.face1.held 5 + 2 ^ 8 * split +
    2 ^ 16 * s.tileClock t

/-- TILE_ (R157). -/
def State.readTile (s : State) (off : Nat) : Nat :=
  let t := s.tileSel
  let x := s.tile t
  if off = 0 then t
  else if 416 ≤ t then 0
  else
    match off with
    | 0x04 => s.tileStatus t
    | 0x08 => if x.holds then (s.jobOn (t / 52)).getD 0 else 0
    | 0x0C => maskOf 32 fun n => smHas x.groups n
    | 0x10 => maskOf 32 fun n => smHas x.groups (32 + n)
    | 0x14 => x.arrayQueue.length + 256 * x.vecQueue.length + 65536 * s.seqOutstanding t
    | _ => 0

/-- RNG_ (R179). -/
def State.readRng (s : State) (off : Nat) : Nat :=
  let t := s.rngSel
  let g := (s.tile t).rng
  let v := if g.loaded && g.lane then g.ctr t s.rngLaneSel else 0
  if off = 0 then t
  else if 416 ≤ t then 0
  else
    match off with
    | 0x04 =>
      flagAt g.loaded 0 + flagAt (g.loaded && g.lane) 1 + flagAt g.rekey 3 + flagAt g.katDone 4 + flagAt g.katPass 5
    | 0x08 => s.rngLaneSel
    | 0x10 => lo32 v
    | 0x14 => hi32 v
    | 0x18 => lo32 (v / 2 ^ 64)
    | 0x1C => hi32 (v / 2 ^ 64)
    | _ => 0

/-- A register of the indirect window that is no 64-bit counter (R323). -/
def State.readInd (s : State) (space off : Nat) : Nat :=
  let k := off / 0x1000 - 1
  let o := off % 0x1000
  let common := decide (off < 0x1000)
  if space < 4 && 0x9000 ≤ off then 0
  else
    match space with
    | 0 => if common then s.readSole o else s.readSoleStack k o
    | 1 => if common then s.readWelt o else s.readWeltStack k o
    | 2 => if common then s.readHbm o else s.readHbmStack k o
    | 3 => if common then s.readSeq o else s.readSeqStack k o
    | 4 => s.readQos off
    | 5 => s.readCvu off
    | 6 => s.readTile off
    | 7 => s.readRng off
    | _ => 0

/-! ## 64-bit counters (R219) -/

/-- The counter of a bank whose low word lies at an offset between two bounds. -/
def Counters.at_ (c : Counters) (lo hi off : Nat) : Option Nat :=
  if decide (lo ≤ off) && decide (off ≤ hi) && off % 8 == 0 then some (c.get off) else none

/-- The 64-bit counter whose low word is a BAR0 register; MGT_AON is read the same way. -/
def State.barCounter (s : State) (off : Nat) : Option Nat :=
  let o := off % 0x1000
  match off / 0x1000 with
  | 0 => if o = 0x10 then some s.aon.toNat else none
  | 3 => s.sec.counters.at_ 0x100 0x128 o
  | 4 => s.thm.counters.at_ 0x100 0x128 o
  | 5 => Counters.at_ (smGet [] s.pwr.counters s.pwrStack) 0x100 0x140 o
  | 6 => if 18 ≤ s.fabSel then none else (s.port s.fabSel).counters.at_ 0x200 0x278 o
  | 7 => s.sec.dbgCounters.at_ 0x100 0x108 o
  | _ => none

/-- The 64-bit counter whose low word is a register of the indirect window. -/
def State.indCounter (s : State) (space off : Nat) : Option Nat :=
  let k := off / 0x1000 - 1
  let o := off % 0x1000
  let stack := decide (0x1000 ≤ off) && decide (off < 0x9000)
  match space with
  | 0 => if stack then (s.slice (64 * k + s.sliceSel k)).counters.at_ 0x100 0x1B0 o else none
  | 1 =>
    if !stack then none
    else if o = 0x20 then some (s.weltStack k).drops
    else (s.chan (64 * k + s.chanSel k)).counters.at_ 0x100 0x128 o
  | 2 => if stack then Counters.at_ (smGet [] s.hbm.counters k) 0x100 0x178 o else none
  | 3 => if stack then (s.engine k).counters.at_ 0x100 0x148 o else none
  | 4 =>
    let m := s.master s.masterSel
    if 508 ≤ s.masterSel || off % 8 != 0 then none
    else if decide (0x400 ≤ off) && decide (off < 0x440) then some (smGet 0 m.granted ((off - 0x400) / 8))
    else if decide (0x440 ≤ off) && decide (off < 0x480) then some (smGet 0 m.demoted ((off - 0x440) / 8))
    else none
  | 5 =>
    if 44 ≤ s.cvuSel then none
    else if off = 0x100 then some (s.cvu s.cvuSel).compares
    else if off = 0x108 then some (s.cvu s.cvuSel).mismatches
    else none
  | 6 => if 416 ≤ s.tileSel then none else (s.tile s.tileSel).counters.at_ 0x100 0x150 off
  | 7 => if 416 ≤ s.rngSel then none else (s.tile s.rngSel).rngCounters.at_ 0x100 0x118 off
  | _ => none

/-! ## Reads -/

/-- A register as the host names it: the block or the space, and the word's offset. -/
inductive RegWord where
  | bar0 (off : Nat)
  | ind (space off : Nat)
deriving DecidableEq, Repr

def regCounter (s : State) : RegWord → Option Nat
  | .bar0 off => s.barCounter off
  | .ind space off => s.indCounter space off
def regPlain (s : State) : RegWord → Nat
  | .bar0 off => s.readBar0 off
  | .ind space off => s.readInd space off
/-- The word below, whose read latches this one. -/
def regBelow : RegWord → Option RegWord
  | .bar0 off => if off % 8 = 4 then some (.bar0 (off - 4)) else none
  | .ind space off => if off % 8 = 4 then some (.ind space (off - 4)) else none
/-- The key of a word's latch. -/
def regLatch : RegWord → Nat
  | .bar0 off => off
  | .ind space off => indKey space off
/-- The word above. -/
def regAbove : RegWord → RegWord
  | .bar0 off => .bar0 (off + 4)
  | .ind space off => .ind space (off + 4)

/-- The value a read of a register returns. -/
def State.regValue (s : State) (w : RegWord) : Nat :=
  match regCounter s w with
  | some v => lo32 v
  | none =>
    match regBelow w with
    | some b => if (regCounter s b).isSome then (smGet 0 s.latches (regLatch w)).toNat else regPlain s w
    | none => regPlain s w

/-- The fields that a read clears (R14): MGT_BAR2_DROPS, SOLE_SLICE_OUT_PEAK and QOS_M_LAT_MAX4 to 7. -/
def State.regClear (s : State) : RegWord → State
  | .bar0 off => if off = 0x7C then { s with mgt.bar2Drops := 0 } else s
  | .ind space off =>
    if decide (space = 0) && decide (0x1000 ≤ off) && decide (off < 0x9000) && off % 0x1000 == 0x88 then
      let k := off / 0x1000 - 1
      let n := 64 * k + s.sliceSel k
      s.setSlice n { s.slice n with peak := 0 }
    else if decide (space = 4) && [0x500, 0x504, 0x508, 0x50C].contains off && decide (s.masterSel < 508) then
      let m := s.master s.masterSel
      s.setMaster s.masterSel { m with latMax := smSet 0 m.latMax (4 + (off - 0x500) / 4) 0 }
    else s

/-- A read: the low word of a counter latches its high word (R219), and an RC field clears (R14). The value is what the host
gets. -/
def State.readReg (s : State) (w : RegWord) : State :=
  let v := s.regValue w
  let s1 := match regCounter s w with
    | some c => { s with latches := smSet 0 s.latches (regLatch (regAbove w)) (BitVec.ofNat 32 (hi32 c)) }
    | none => s.regClear w
  { s1 with host.lastRead := natToBytes 4 v }

/-- The register MGT_IND_DATA stands for (R323). -/
def State.indTarget (s : State) : RegWord := .ind (s.reg 0x30 0 % 16) (s.reg 0x34 0 / 4 * 4 % 2 ^ 20)

/-- A refused BAR0 access (R319). -/
def State.bar0Bad (s : State) (write : Bool) : State :=
  let s1 := { s with mgt.bar0Bad := BitVec.ofNat 32 (satAdd32 s.mgt.bar0Bad.toNat 1) }
  if write then s1 else { s1 with host.lastRead := List.replicate 4 0xFF }

/-- A host read of a register that an operand names. -/
def State.hostReadReg (s : State) (reg : RegAddr) : State :=
  if !s.linked then s
  else
    match reg with
    | .bar0 off =>
      if off.toNat % 4 != 0 then s.bar0Bad false
      else if off.toNat = 0x38 then s.readReg s.indTarget
      else s.readReg (.bar0 off.toNat)
    | .ind space off => s.readReg (.ind space.toNat (off.toNat / 4 * 4))

/-- RC_READ (R14). -/
def execRcRead (reg : RegAddr) (s : State) : Out := .next (s.hostReadReg reg)

/-- COUNTER_LATCH_READ (R219, R321). -/
def execCounterLatchRead (reg : RegAddr) (s : State) : Out := .next (s.hostReadReg reg)

/-- BAR0_BAD_ACCESS (R319). -/
def execBar0BadAccess (write : Bool) (s : State) : Out := .next (s.when s.linked fun t => t.bar0Bad write)

end Sys2Proof.Machine
end

