-- ==== Sys2Proof/Machine/RegWrite.lean ====
section
/-! DEFINITION. What the host's register writes do (R14, R320, R323, R328, and the register tables), the acknowledgement of the
audit log (R504, R507), and the rows that are one write each. -/

namespace Sys2Proof.Machine

/-! ## Forms of a write -/

/-- Bits of a value. -/
def keep (v : Word) (mask : Nat) : Word := v &&& BitVec.ofNat 32 mask

/-- A logged write that changes nothing: of a read-only register, or at an offset that no block defines. -/
def State.barNone (s : State) (off : Nat) (v : Word) : State := s.barWrite off v (fun t => t.regValue (.bar0 off)) id

/-- A logged write of an RW register that only holds its value. -/
def State.barHold (s : State) (off : Nat) (v : Word) (mask dflt : Nat) : State :=
  s.barWrite off v (fun t => t.regValue (.bar0 off)) fun t => t.setReg off dflt (keep v mask)

/-- A logged write with an effect of its own. -/
def State.barDo (s : State) (off : Nat) (v : Word) (f : State → State) : State :=
  s.barWrite off v (fun t => t.regValue (.bar0 off)) f

/-- A write that is not logged (R320). -/
def State.barQuiet (s : State) (off : Nat) (v : Word) (mask : Nat) : State :=
  if s.writable off then s.setReg off 0 (keep v mask) else s

/-- The grace times (R454, R474): 10 to 1,000. -/
def graceOf (v : Word) : Word := BitVec.ofNat 32 (max 10 (min 1000 (v.toNat % 1024)))

/-- The low or the high word of a 64-bit register is replaced. -/
def withLo (d : Dword) (v : Word) : Dword := BitVec.ofNat 64 (d.toNat / 2 ^ 32 * 2 ^ 32 + v.toNat)
def withHi (d : Dword) (v : Word) : Dword := BitVec.ofNat 64 (d.toNat % 2 ^ 32 + 2 ^ 32 * v.toNat)

/-! ## The audit log's acknowledgement -/

/-- A write of SEC_AUDIT_ACK_HI: the high word is staged. -/
def State.ackHiWrite (s : State) (v : Word) : State := if s.writable 0x3040 then { s with sec.ackHi := v } else s

/-- The index an acknowledgement with this low word names. -/
def State.ackIndex (s : State) (v : Word) : Nat := s.sec.ackHi.toNat * 2 ^ 32 + v.toNat
/-- The acknowledged index after it: the value, unless it lies below the acknowledged index or above the head. -/
def State.ackAfter (s : State) (v : Word) : Nat :=
  if s.mram.auditAck.toNat ≤ s.ackIndex v && s.ackIndex v ≤ s.mram.auditHead.toNat then s.ackIndex v else s.mram.auditAck.toNat

/-- A write of SEC_AUDIT_ACK_LO (R320, R504): the AUDIT_ACK entry, never refused, then the index, which an overwrite for that
entry may have passed; with U below 16,384 a loss episode ends. -/
def State.ackWrite (s : State) (v : Word) : State :=
  if !s.writable 0x303C then s
  else
    let n := s.ackAfter v
    let s1 := s.audit 0 0xFFFF 0x18 0 (natToBytes 8 n)
    let s2 := { s1 with mram.auditAck := BitVec.ofNat 64 (max n s1.mram.auditAck.toNat) }
    { s2 with sec.lossEpisode := s2.sec.lossEpisode && decide (16384 ≤ s2.unacked) }

/-- AUDIT_ACK_HI. -/
def execAuditAckHi (v : BitVec 32) (s : State) : Out := .next (s.ackHiWrite v)
/-- AUDIT_ACK. -/
def execAuditAck (v : BitVec 32) (s : State) : Out := .next (s.ackWrite v)

/-! ## BAR0 -/

/-- A write to a base or doorbell register of the selected ring (R328). -/
def State.ringSetup (s : State) (off : Nat) (v : Word) (f : Ring → Ring) : State :=
  s.barDo off v fun t =>
    if t.ringIdle t.ringSel then t.updRing t.ringSel f else t.updRing t.ringSel fun g => { g with writeIgnored := true }

/-- A write to a register of the selected port (R388). -/
def State.portHold (s : State) (off : Nat) (v : Word) (mask : Nat) : State :=
  s.barDo (0x6000 + off) v fun t => if t.fabSel < 18 then t.setReg (fabKey t.fabSel off) 0 (keep v mask) else t

def State.writeMgt (s : State) (off : Nat) (v : Word) : State :=
  match off with
  | 0x28 => s.barDo 0x28 v fun t => { t with mgt.statusPage := withLo t.mgt.statusPage (keep v 0xFFFFF001) }
  | 0x2C => s.barDo 0x2C v fun t => { t with mgt.statusPage := withHi t.mgt.statusPage v }
  | 0x30 => s.barQuiet 0x30 v 0xF
  | 0x34 => s.barQuiet 0x34 v 0xFFFFC
  | 0x40 => s.resetWrite v.toNat
  | 0x50 => s.barHold 0x50 v 0xFFFFF000 0
  | 0x54 => s.barHold 0x54 v 0xFFFFFFFF 0
  | 0x58 => s.barHold 0x58 v 0xFFFFFFFF 0
  | 0x5C => s.fwCtlWrite v
  | 0x70 => s.bar2JobWrite v
  | 0x74 => s.barHold 0x74 v 0xFFE00000 0
  | 0x78 => s.barHold 0x78 v 0xFFFFFFFF 0
  | _ => s.barNone off v

def State.writeRing (s : State) (off : Nat) (v : Word) : State :=
  match off with
  | 0x00 => s.barQuiet 0x1000 v 0x3F
  | 0x04 => s.ringCtrlWrite v
  | 0x08 => s.ringSetup 0x1008 v fun g => { g with cmdBase := withLo g.cmdBase (keep v 0xFFFFF000) }
  | 0x0C => s.ringSetup 0x100C v fun g => { g with cmdBase := withHi g.cmdBase v }
  | 0x10 => s.ringSetup 0x1010 v fun g => { g with cplBase := withLo g.cplBase (keep v 0xFFFFF000) }
  | 0x14 => s.ringSetup 0x1014 v fun g => { g with cplBase := withHi g.cplBase v }
  | 0x18 => s.ringSetup 0x1018 v fun g => { g with db := withLo g.db (keep v 0xFFFFFFF8) }
  | 0x1C => s.ringSetup 0x101C v fun g => { g with db := withHi g.db v }
  | 0x20 => s.barDo 0x1020 v fun t => if v.getLsbD 8 then t.updRing t.ringSel fun g => { g with writeIgnored := false } else t
  | _ => s.barNone (0x1000 + off) v

def State.writeSec (s : State) (off : Nat) (v : Word) : State :=
  match off with
  | 0x00 => s.barHold 0x3000 v 0xF 0
  | 0x3C => s.ackWrite v
  | 0x40 => s.ackHiWrite v
  | 0x48 => s.barDo 0x3048 v fun t =>
    { t with sec.entropyFail := t.sec.entropyFail && !v.getLsbD 1, sec.auditLost := t.sec.auditLost && !v.getLsbD 4 }
  | _ => s.barNone (0x3000 + off) v

def State.writeThm (s : State) (off : Nat) (v : Word) : State :=
  match off with
  | 0x00 => s.barDo 0x4000 v fun t => t.setReg 0x4000 200 (graceOf v)
  | 0x04 => s.barDo 0x4004 v fun t => { t with thm.newBroken := t.thm.newBroken && !v.getLsbD 4 }
  | 0x1C => s.thmAckWrite v
  | 0x20 => s.barHold 0x4020 v 0x3F 0
  | 0x24 => s.barHold 0x4024 v 0x7F 0
  | _ => s.barNone (0x4000 + off) v

def State.writePwr (s : State) (off : Nat) (v : Word) : State :=
  match off with
  | 0x0C => s.barDo 0x500C v fun t => t.setReg 0x500C 200 (graceOf v)
  | 0x14 => s.barDo 0x5014 v fun t => { t with pwr.inputHigh := t.pwr.inputHigh && !v.getLsbD 3 }
  | 0x20 => s.barHold 0x5020 v 7 0
  | 0x24 => s.barHold 0x5024 v 0x3F 0
  | _ => s.barNone (0x5000 + off) v

/-- FAB; a write of FAB_P_CTL that asks for something is a row of its own, with what the port then finds. -/
def State.writeFab (s : State) (off : Nat) (v : Word) : State :=
  match off with
  | 0x000 => s.fabricIdWrite v
  | 0x008 => s.barHold 0x6008 v 0x1F 0
  | 0x00C => s.barHold 0x600C v 0xFFFF 0x9C4
  | 0x010 => s.barHold 0x6010 v 0xFFFF 0x40
  | 0x014 => s.barHold 0x6014 v 0x1FF 0
  | 0x018 => s.routeHopsWrite v
  | 0x01C => s.routeBcastWrite v
  | 0x114 => if keep v 3 = 0 then s.barNone 0x6114 v else s
  | 0x120 => s.awlCommand (v.toNat % 4) v
  | 0x124 => s.portHold 0x124 v 0xFFFFFFFF
  | 0x128 => s.portHold 0x128 v 0x7FF
  | 0x12C => s.barDo 0x612C v fun t =>
    if decide (t.fabSel < 18) && v.getLsbD 17 then t.updPort t.fabSel fun x => { x with awl.refused := false } else t
  | _ => s.barNone (0x6000 + off) v

/-! ## The indirect spaces -/

/-- A logged write through the window. -/
def State.indDo (s : State) (space off : Nat) (v : Word) (f : State → State) : State :=
  s.indWrite space off v (fun t => t.regValue (.ind space off)) f
def State.indHold (s : State) (space off : Nat) (v : Word) (mask dflt : Nat) : State :=
  s.indDo space off v fun t => t.setReg (indKey space off) dflt (keep v mask)
/-- One that is not logged. -/
def State.indQuiet (s : State) (space off : Nat) (v : Word) (mask : Nat) : State :=
  s.indWriteQuiet fun t => t.setReg (indKey space off) 0 (keep v mask)

/-- The largest package tack budget (R214). -/
def State.budgetMax (s : State) : Nat := 196608 * ((upTo 512).filter s.sliceOk).length

/-- SOLE_CNT_CLEAR (R221): the selected slice's counters, and every slice's of the stack. -/
def State.clearSlices (s : State) (k : Nat) (v : Word) : State :=
  let one := fun (t : State) n => t.setSlice (64 * k + n) { t.slice (64 * k + n) with counters := [] }
  if v.getLsbD 1 then (upTo 64).foldl one s else if v.getLsbD 0 then one s (s.sliceSel k) else s

def State.writeSole (s : State) (off : Nat) (v : Word) : State :=
  if off < 0x1000 then
    match off with
    | 0 => s.indDo 0 0 v fun t => t.setReg (indKey 0 0) 0 (BitVec.ofNat 32 (min (v.toNat % 2 ^ 27) t.budgetMax))
    | 8 => s.indWriteQuiet fun t => t.setReg (indKey 0 8) 0x480 (keep v 0xFFF)
    | _ => s
  else if off < 0x9000 then
    match off % 0x1000 with
    | 8 => s.indQuiet 0 off v 0x3F
    | 0xC => s.indWriteQuiet fun t => t.clearSlices (off / 0x1000 - 1) v
    | _ => s
  else s

/-- WELT_MARGIN_CTL as a write sets it: a failing threshold is at most the weak one (R248). -/
def marginWord (v : Word) : Word :=
  let h := v.toNat % 256
  let u := v.toNat / 256 % 256
  BitVec.ofNat 32 (h + 256 * u + 65536 * min h (v.toNat / 65536 % 256) + 16777216 * min u (v.toNat / 16777216))

/-- Offsets of the WELT_ and HBM_ blocks that hold a register. -/
def weltDefined (off : Nat) : Bool :=
  if off < 0x1000 then off ≤ 0x10
  else
    let o := off % 0x1000
    off < 0x9000 && (o ≤ 0x18 || o = 0x20 || o = 0x24 || (0x80 ≤ o && o ≤ 0x8C) || (0x100 ≤ o && o < 0x130))
def hbmDefined (off : Nat) : Bool :=
  if off < 0x1000 then off ≤ 0x18 || (0x20 ≤ off && off ≤ 0x30)
  else off < 0x9000 && (off % 0x1000 ≤ 4 || (0x100 ≤ off % 0x1000 && off % 0x1000 < 0x180))

def State.writeWelt (s : State) (off : Nat) (v : Word) : State :=
  if !weltDefined off then s
  else if off < 0x1000 then
    match off with
    | 0 => s.indDo 1 0 v fun t => t.setReg (indKey 1 0) 0x3C (BitVec.ofNat 32 (min 60 (v.toNat % 64)))
    | 4 => s.indDo 1 4 v fun t => t.setReg (indKey 1 4) 0x060C0C18 (marginWord v)
    | 8 => s.indHold 1 8 v 0xFFFF 8
    | _ => s.indDo 1 off v id
  else
    match off % 0x1000 with
    | 0xC => s.indHold 1 off v 0x3F 0
    | 0x88 => s.indHold 1 off v 0x17F 0
    | _ => s.indDo 1 off v id

def State.writeHbm (s : State) (off : Nat) (v : Word) : State :=
  if !hbmDefined off then s
  else
    match off with
    | 4 => s.indHold 2 4 v 0xFFFF 0x5A0
    | 8 => s.indHold 2 8 v 0xFF 4
    | 0x18 => s.indHold 2 0x18 v 0x1F37 0
    | _ => s.indDo 2 off v id

/-- A commit: a logged write of QOS_COMMIT. -/
def State.qosCommitWrite (s : State) (v : Word) : State := s.indDo 4 0 v fun t => t.qosCommit v

def qosDefined (off : Nat) : Bool :=
  off ≤ 8 || (0x10 ≤ off && off ≤ 0x1C) || off = 0x80 || (0x100 ≤ off && off < 0x1C0) || (0x400 ≤ off && off < 0x480) ||
  (0x500 ≤ off && off ≤ 0x50C) || off = 0x51C

def State.writeQos (s : State) (off : Nat) (v : Word) : State :=
  if !qosDefined off then s
  else if 0x100 ≤ off && off < 0x1C0 then s.indHold 4 off v 0xFFFF (limitReset ((off - 0x100) / 0x20))
  else if 0x10 ≤ off && off ≤ 0x1C then s.indHold 4 off v 0xFFFF (targetReset ((off - 0x10) / 4 + 4))
  else
    match off with
    | 0 => s.qosCommitWrite v
    | 8 => s.indHold 4 8 v 7 3
    | 0x80 => s.indHold 4 0x80 v 0x1FF 0
    | _ => s.indDo 4 off v id

def State.writeCvu (s : State) (off : Nat) (v : Word) : State :=
  match off with
  | 0x00 => s.indQuiet 5 0 v 0x3F
  | 0x04 => s.indWrite 5 4 v State.cvuCtlValue (fun t => t.cvuCtl v)
  | 0x08 => s.indWriteQuiet fun t => t.cvuCmd v
  | 0x10 => s.indWriteQuiet fun t => t.cvuFoldLow v
  | 0x14 => s.indWriteQuiet fun t => t.cvuFoldHigh v
  | 0x18 => s.indWriteQuiet fun t => t.cvuData 1 v
  | 0x1C => s.indWriteQuiet fun t => t.cvuData 2 v
  | 0x20 => s.indWriteQuiet fun t => t.cvuData 4 v
  | 0x28 => s.indWriteQuiet fun t => t.cvuWrite fun c => { c with expect := withLo c.expect v }
  | 0x2C => s.indWriteQuiet fun t => t.cvuWrite fun c => { c with expect := withHi c.expect v }
  | 0x38 => s.indWriteQuiet fun t => t.cvuWrite fun c =>
    { c with orderError := c.orderError && !v.getLsbD 4, refused := c.refused && !v.getLsbD 5 }
  | _ => s

/-- TILE_CNT_CLEAR (R157). -/
def State.clearTile (s : State) (v : Word) : State :=
  if v.getLsbD 0 && decide (s.tileSel < 416) then s.updTile s.tileSel fun x => { x with counters := [] } else s

/-- A write of a register of the indirect window (R323), logged as its chapter states. -/
def State.indRegWrite (s : State) (space off : Nat) (v : Word) : State :=
  match space with
  | 0 => s.writeSole off v
  | 1 => s.writeWelt off v
  | 2 => s.writeHbm off v
  | 4 => s.writeQos off v
  | 5 => s.writeCvu off v
  | 6 => if off = 0 then s.indQuiet 6 0 v 0x1FF else if off = 0x18 then s.indWriteQuiet fun t => t.clearTile v else s
  | 7 =>
    if off = 0 then s.indQuiet 7 0 v 0x1FF
    else if off = 8 && decide (s.rngSel < 416) then s.indQuiet 7 8 v 0x7F
    else s
  | _ => s

/-- A write of MGT_IND_DATA. -/
def State.indDataWrite (s : State) (v : Word) : State :=
  match s.indTarget with
  | .ind space off => s.indRegWrite space off v
  | .bar0 _ => s

/-- A BAR0 write at an aligned offset (R319, R320). -/
def State.bar0Write (s : State) (off : Nat) (v : Word) : State :=
  let o := off % 0x1000
  if off = 0x38 then s.indDataWrite v
  else
    match off / 0x1000 with
    | 0 => s.writeMgt o v
    | 1 => s.writeRing o v
    | 3 => s.writeSec o v
    | 4 => s.writeThm o v
    | 5 => s.writePwr o v
    | 6 => s.writeFab o v
    | _ => s.barNone off v

/-- REGISTER_WRITE (R14, R320). -/
def execRegisterWrite (offset : BitVec 16) (v : BitVec 32) (s : State) : Out :=
  .next (if !s.linked then s else if offset.toNat % 4 != 0 then s.bar0Bad true else s.bar0Write offset.toNat v)

/-- INDIRECT_ACCESS (R323). -/
def execIndirectAccess (write : Option (BitVec 32)) (s : State) : Out :=
  .next (if !s.linked then s else match write with
    | none => s.readReg s.indTarget
    | some v => s.indDataWrite v)

/-- QOS_COMMIT (R314). -/
def execQosCommit (v : BitVec 32) (s : State) : Out := .next (s.qosCommitWrite v)

/-- TILE_CNT_CLEAR (R157). -/
def execTileCntClear (v : BitVec 32) (s : State) : Out := .next (s.indWriteQuiet fun t => t.clearTile v)

/-- SOLE_CNT_CLEAR_SLICE (R221): bit 0. -/
def execSoleCntClearSlice (stack : Fin 8) (s : State) : Out := .next (s.indWriteQuiet fun t => t.clearSlices stack.val 1)

/-- SOLE_CNT_CLEAR_STACK (R221): bit 1. -/
def execSoleCntClearStack (stack : Fin 8) (s : State) : Out := .next (s.indWriteQuiet fun t => t.clearSlices stack.val 2)

end Sys2Proof.Machine
end

