-- ==== Sys2Proof/Machine/Sideband.lean ====
section
/-! DEFINITION. The board sideband (R353 to R355, R525). -/

namespace Sys2Proof.Machine

/-- The sideband is live in every state but OFF (R353). -/
def State.sideband (s : State) (f : State → State) : State := if s.dev.mode matches .off then s else f s

/-- The device answers a sideband request. -/
def State.respond (s : State) (bs : List Byte) : State := { s with host.sideband := some bs }

/-- GET_STATE: MGT_STATE, CAUSE, HEARTBEAT and AON_COUNT. -/
def execGetState (s : State) : Out :=
  .next (s.sideband fun t =>
    t.respond (natToBytes 1 t.dev.mode.code ++ [t.dev.cause] ++ natToBytes 8 t.mgt.heartbeat.toNat ++ natToBytes 8 t.aon.toNat))

/-- The hottest reading of a die, in quarter degrees: the greatest last sample of its sensors; 0 where none has been read. -/
def State.dieReading (s : State) (d : Nat) : Int :=
  match (upTo 96).filterMap fun n => (s.sensor d n).reading with
  | [] => 0
  | x :: xs => xs.foldl max x

/-- GET_TELEMETRY: input voltage, mV; module input power, W; the hottest reading of each die in °C, by die code, its
fraction dropped (log entry 83). -/
def execGetTelemetry (s : State) : Out :=
  .next (s.sideband fun t =>
    t.respond (natToBytes 2 t.pwr.millivolts ++ natToBytes 2 t.pwr.average ++
      (upTo 34).flatMap fun d => natToBytes 2 (t.dieReading d / 4 % 65536).toNat))

/-- READ_BLACKBOX (R525): up to three whole records. -/
def execReadBlackbox (first : BitVec 64) (s : State) : Out := .next (s.sideband fun t => t.respond (t.bbRecords first.toNat 3))

/-- The SIDEBAND entry: 0 EPO_ARM, 1 EPO_FIRE accepted, 2 refused, and the nonce (R353, R501, R503). -/
def State.auditSideband (s : State) (eid : Byte) (what : Nat) (nonce : BitVec 16) : State :=
  s.audit 1 eid.toNat 0x16 0 (natToBytes 1 what ++ natToBytes 2 nonce.toNat)

/-- EPO_ARM (R355). -/
def execEpoArm (eid : BitVec 8) (s : State) : Out :=
  .next (s.sideband fun t =>
    let (n, t1) := t.draw
    let nonce : BitVec 16 := (Config.entropy n 1) ++ (Config.entropy n 0)
    { (t1.auditSideband eid 0 nonce).respond (natToBytes 2 nonce.toNat) with sec.epoNonce := some nonce, sec.epoAt := t.aon })

/-- An EPO_FIRE carries the latest nonce, within 40,000,000 always-on cycles of its arm. -/
def State.epoMatches (s : State) (nonce : BitVec 16) : Bool :=
  s.sec.epoNonce == some nonce && decide ((s.aon - s.sec.epoAt).toNat ≤ 40000000)

/-- What an accepted EPO_FIRE does (R6, R355, R472, R520): every job ends, the record is written, and from BOOT to LIMP power
is removed; a thermal shutdown in progress continues. -/
def State.epo (s : State) (eid : Byte) : State :=
  let s1 := (s.endJobs (fun _ _ => true) fun v => JobEnd.plain 0x0A s.aon v.image.stackBits).blackBox 3 0 0xFF 0 [eid]
  if s.dev.shuttingDown || (s.dev.mode matches .off | .aon | .shutdown) then s1 else s1.powerDown 7

/-- EPO_FIRE: any one consumes the arm; the answer is one byte, 1 accepted and 0 refused. -/
def execEpoFire (eid : BitVec 8) (nonce : BitVec 16) (s : State) : Out :=
  .next (s.sideband fun t =>
    let ok := t.epoMatches nonce
    let t1 := { (t.auditSideband eid (if ok then 1 else 2) nonce).respond [if ok then 1 else 0] with sec.epoNonce := none }
    if ok then t1.epo eid else t1)

/-- SIDEBAND_UNKNOWN_COMMAND (R354): an error response; the listed codes are rows of their own. -/
def execSidebandUnknownCommand (code : BitVec 8) (s : State) : Out :=
  .next (s.sideband fun t => if decide (1 ≤ code.toNat) && decide (code.toNat ≤ 5) then t else { t with host.sideband := none })

/-- MCTP_CONTROL (R353): the response that DSP0236 gives, whose content the spec leaves to it. -/
def execMctpControl (code : BitVec 8) (s : State) : Out :=
  .next (s.sideband fun t =>
    let (n, t1) := t.draw
    t1.respond (Config.mctpResponse n code))

end Sys2Proof.Machine
end

