-- ==== Sys2Proof/Machine/Dispatch.lean ====
section
/-! DEFINITION. Which meaning each command has: one arm per constructor, each one direct call. -/

namespace Sys2Proof.Machine

def exec (i : Instr) (s : State) : Host.Outcome State Fault Refusal :=
  match i with
  | .twelveVGood => Sys2Proof.Machine.execTwelveVGood s
  | .inputSample millivolts watts => Sys2Proof.Machine.execInputSample millivolts watts s
  | .lossOf12V => Sys2Proof.Machine.execLossOf12V s
  | .inputOvervoltage => Sys2Proof.Machine.execInputOvervoltage s
  | .inputStable => Sys2Proof.Machine.execInputStable s
  | .firmwarePairChoice => Sys2Proof.Machine.execFirmwarePairChoice s
  | .stackPowerUp stack settled => Sys2Proof.Machine.execStackPowerUp stack settled s
  | .startUpTests found => Sys2Proof.Machine.execStartUpTests found s
  | .weltColdTraining stack scans => Sys2Proof.Machine.execWeltColdTraining stack scans s
  | .hbmTraining failed refused links => Sys2Proof.Machine.execHbmTraining failed refused links s
  | .floorPlanBuild => Sys2Proof.Machine.execFloorPlanBuild s
  | .portTraining port far => Sys2Proof.Machine.execPortTraining port far s
  | .trainingAttemptTimeout port => Sys2Proof.Machine.execTrainingAttemptTimeout port s
  | .lastCompare => Sys2Proof.Machine.execLastCompare s
  | .warmReset key => Sys2Proof.Machine.execWarmReset key s
  | .computeReset key => Sys2Proof.Machine.execComputeReset key s
  | .coldReset key => Sys2Proof.Machine.execColdReset key s
  | .heldResetRelease => Sys2Proof.Machine.execHeldResetRelease s
  | .slipOn scans refused dfwMatches => Sys2Proof.Machine.execSlipOn scans refused dfwMatches s
  | .quiesceDrainEnd stack wired => Sys2Proof.Machine.execQuiesceDrainEnd stack wired s
  | .flrOrHotReset => Sys2Proof.Machine.execFlrOrHotReset s
  | .cxlLinkLoss => Sys2Proof.Machine.execCxlLinkLoss s
  | .scHeartbeatTimeout stack => Sys2Proof.Machine.execScHeartbeatTimeout stack s
  | .dcHeartbeatTimeout => Sys2Proof.Machine.execDcHeartbeatTimeout s
  | .mcLockstepMismatch => Sys2Proof.Machine.execMcLockstepMismatch s
  | .iodUncorrectable die => Sys2Proof.Machine.execIodUncorrectable die s
  | .jobEndScrub job => Sys2Proof.Machine.execJobEndScrub job s
  | .sensorSample die sensor raw reading => Sys2Proof.Machine.execSensorSample die sensor raw reading s
  | .shutdownPowerRemoval => Sys2Proof.Machine.execShutdownPowerRemoval s
  | .thermalWindowEnd => Sys2Proof.Machine.execThermalWindowEnd s
  | .thermalEnforceAt => Sys2Proof.Machine.execThermalEnforceAt s
  | .thmAck v => Sys2Proof.Machine.execThmAck v s
  | .powerWindowEnd => Sys2Proof.Machine.execPowerWindowEnd s
  | .powerEnforceAt => Sys2Proof.Machine.execPowerEnforceAt s
  | .fastLimitFatal => Sys2Proof.Machine.execFastLimitFatal s
  | .modulePhaseFailure stack phase => Sys2Proof.Machine.execModulePhaseFailure stack phase s
  | .phaseRegulationLoss stack phase => Sys2Proof.Machine.execPhaseRegulationLoss stack phase s
  | .phaseOverCurrent stack phase => Sys2Proof.Machine.execPhaseOverCurrent stack phase s
  | .dropCheckSample stack phase milliamps microvolts quarterDegrees => Sys2Proof.Machine.execDropCheckSample stack phase milliamps microvolts quarterDegrees s
  | .dropCheckFail stack phase => Sys2Proof.Machine.execDropCheckFail stack phase s
  | .regionOverCurrent stack region => Sys2Proof.Machine.execRegionOverCurrent stack region s
  | .regionUndervoltage stack region => Sys2Proof.Machine.execRegionUndervoltage stack region s
  | .regionReramp stack region trip testsBad => Sys2Proof.Machine.execRegionReramp stack region trip testsBad s
  | .boostEngage stack region => Sys2Proof.Machine.execBoostEngage stack region s
  | .boostRelease stack region => Sys2Proof.Machine.execBoostRelease stack region s
  | .clockHalving stack region => Sys2Proof.Machine.execClockHalving stack region s
  | .clockRestore stack region => Sys2Proof.Machine.execClockRestore stack region s
  | .regionRampStart stack region draws => Sys2Proof.Machine.execRegionRampStart stack region draws s
  | .quarterSlopeRamp stack region => Sys2Proof.Machine.execQuarterSlopeRamp stack region s
  | .regionRampDone stack region => Sys2Proof.Machine.execRegionRampDone stack region s
  | .tilePark tile => Sys2Proof.Machine.execTilePark tile s
  | .upperPowerGate stack => Sys2Proof.Machine.execUpperPowerGate stack s
  | .weltBeat stack ch down data waiting errors => Sys2Proof.Machine.execWeltBeat stack ch down data waiting errors s
  | .weltNak stack ch down beat => Sys2Proof.Machine.execWeltNak stack ch down beat s
  | .strobeLoss stack ch down => Sys2Proof.Machine.execStrobeLoss stack ch down s
  | .weltRepairEnd stack ch scans => Sys2Proof.Machine.execWeltRepairEnd stack ch scans s
  | .weltErrorWindowEnd stack ch down => Sys2Proof.Machine.execWeltErrorWindowEnd stack ch down s
  | .weltTestDue stack => Sys2Proof.Machine.execWeltTestDue stack s
  | .weltSelfTest stack => Sys2Proof.Machine.execWeltSelfTest stack s
  | .weltSelfTestCommit stack scans => Sys2Proof.Machine.execWeltSelfTestCommit stack scans s
  | .gets tile line need => Sys2Proof.Machine.execGets tile line need s
  | .getm tile line => Sys2Proof.Machine.execGetm tile line s
  | .putm tile line => Sys2Proof.Machine.execPutm tile line s
  | .ncrd line src need => Sys2Proof.Machine.execNcrd line src need s
  | .ncwr line src data mask => Sys2Proof.Machine.execNcwr line src data mask s
  | .red line req => Sys2Proof.Machine.execRed line req s
  | .redApply line => Sys2Proof.Machine.execRedApply line s
  | .brEpisodeClose line => Sys2Proof.Machine.execBrEpisodeClose line s
  | .fillComplete line => Sys2Proof.Machine.execFillComplete line s
  | .fillRetry line => Sys2Proof.Machine.execFillRetry line s
  | .writebackAccepted line => Sys2Proof.Machine.execWritebackAccepted line s
  | .recall tile line invalidate => Sys2Proof.Machine.execRecall tile line invalidate s
  | .recallAnswer tile line => Sys2Proof.Machine.execRecallAnswer tile line s
  | .l1Fill tile line => Sys2Proof.Machine.execL1Fill tile line s
  | .ownershipGrant tile line => Sys2Proof.Machine.execOwnershipGrant tile line s
  | .writeAcknowledge src => Sys2Proof.Machine.execWriteAcknowledge src s
  | .tack line => Sys2Proof.Machine.execTack line s
  | .untack line => Sys2Proof.Machine.execUntack line s
  | .thrashWindowEnd slice => Sys2Proof.Machine.execThrashWindowEnd slice s
  | .soleScrubRead stack upsets => Sys2Proof.Machine.execSoleScrubRead stack upsets s
  | .hbmScrubRead h channel upsets => Sys2Proof.Machine.execHbmScrubRead h channel upsets s
  | .scrubLate scrubber => Sys2Proof.Machine.execScrubLate scrubber s
  | .launchFillPortion h => Sys2Proof.Machine.execLaunchFillPortion h s
  | .groupDispatch tile tgp slot => Sys2Proof.Machine.execGroupDispatch tile tgp slot s
  | .doorbellSnoop addr data => Sys2Proof.Machine.execDoorbellSnoop addr data s
  | .doorbellPoll => Sys2Proof.Machine.execDoorbellPoll s
  | .descriptorFetch ring => Sys2Proof.Machine.execDescriptorFetch ring s
  | .completionPost ring => Sys2Proof.Machine.execCompletionPost ring s
  | .dcClockStop => Sys2Proof.Machine.execDcClockStop s
  | .statusPageWrite => Sys2Proof.Machine.execStatusPageWrite s
  | .ringEnable v => Sys2Proof.Machine.execRingEnable v s
  | .ringDisable v => Sys2Proof.Machine.execRingDisable v s
  | .nopDescriptor ring idx => Sys2Proof.Machine.execNopDescriptor ring idx s
  | .launch ring idx => Sys2Proof.Machine.execLaunch ring idx s
  | .suspend ring idx => Sys2Proof.Machine.execSuspend ring idx s
  | .resume ring idx => Sys2Proof.Machine.execResume ring idx s
  | .abort ring idx => Sys2Proof.Machine.execAbort ring idx s
  | .dmaH2d ring idx => Sys2Proof.Machine.execDmaH2d ring idx s
  | .dmaD2h ring idx => Sys2Proof.Machine.execDmaD2h ring idx s
  | .dmaD2d ring idx => Sys2Proof.Machine.execDmaD2d ring idx s
  | .dmaTack ring idx => Sys2Proof.Machine.execDmaTack ring idx s
  | .dmaUntack ring idx => Sys2Proof.Machine.execDmaUntack ring idx s
  | .seqOpOpen ring idx => Sys2Proof.Machine.execSeqOpOpen ring idx s
  | .seqOpFree ring idx => Sys2Proof.Machine.execSeqOpFree ring idx s
  | .seqOpQuery ring idx => Sys2Proof.Machine.execSeqOpQuery ring idx s
  | .setLast ring idx => Sys2Proof.Machine.execSetLast ring idx s
  | .installLicence ring idx => Sys2Proof.Machine.execInstallLicence ring idx s
  | .keyExchangeOffer ring idx => Sys2Proof.Machine.execKeyExchangeOffer ring idx s
  | .keyExchangeAccept ring idx => Sys2Proof.Machine.execKeyExchangeAccept ring idx s
  | .keyExchangeRelease ring idx => Sys2Proof.Machine.execKeyExchangeRelease ring idx s
  | .keyOfferExpiry slot => Sys2Proof.Machine.execKeyOfferExpiry slot s
  | .attest ring idx => Sys2Proof.Machine.execAttest ring idx s
  | .identityTreeReady => Sys2Proof.Machine.execIdentityTreeReady s
  | .entropyHealthTest passed => Sys2Proof.Machine.execEntropyHealthTest passed s
  | .bistWelt ring idx scans => Sys2Proof.Machine.execBistWelt ring idx scans s
  | .bistTiles ring idx => Sys2Proof.Machine.execBistTiles ring idx s
  | .bistSole ring idx => Sys2Proof.Machine.execBistSole ring idx s
  | .queryFloorPlan ring idx => Sys2Proof.Machine.execQueryFloorPlan ring idx s
  | .setPolicy ring idx => Sys2Proof.Machine.execSetPolicy ring idx s
  | .debugHalt ring idx => Sys2Proof.Machine.execDebugHalt ring idx s
  | .debugRead ring idx => Sys2Proof.Machine.execDebugRead ring idx s
  | .debugStep ring idx => Sys2Proof.Machine.execDebugStep ring idx s
  | .debugStepTimeout ring idx => Sys2Proof.Machine.execDebugStepTimeout ring idx s
  | .debugRelease ring idx => Sys2Proof.Machine.execDebugRelease ring idx s
  | .auditRead ring idx => Sys2Proof.Machine.execAuditRead ring idx s
  | .blackboxRead ring idx => Sys2Proof.Machine.execBlackboxRead ring idx s
  | .firmwareInstallStart v => Sys2Proof.Machine.execFirmwareInstallStart v s
  | .firmwareInstallDone => Sys2Proof.Machine.execFirmwareInstallDone s
  | .indirectAccess write => Sys2Proof.Machine.execIndirectAccess write s
  | .mgtBar2JobWrite v => Sys2Proof.Machine.execMgtBar2JobWrite v s
  | .bar2Read unit => Sys2Proof.Machine.execBar2Read unit s
  | .bar2Write unit data mask => Sys2Proof.Machine.execBar2Write unit data mask s
  | .bar0BadAccess write => Sys2Proof.Machine.execBar0BadAccess write s
  | .registerWrite offset v => Sys2Proof.Machine.execRegisterWrite offset v s
  | .rcRead reg => Sys2Proof.Machine.execRcRead reg s
  | .counterLatchRead reg => Sys2Proof.Machine.execCounterLatchRead reg s
  | .auditAckHi v => Sys2Proof.Machine.execAuditAckHi v s
  | .auditAck v => Sys2Proof.Machine.execAuditAck v s
  | .qosCommit v => Sys2Proof.Machine.execQosCommit v s
  | .tileCntClear v => Sys2Proof.Machine.execTileCntClear v s
  | .soleCntClearSlice stack => Sys2Proof.Machine.execSoleCntClearSlice stack s
  | .soleCntClearStack stack => Sys2Proof.Machine.execSoleCntClearStack stack s
  | .bandwidthWindowStart => Sys2Proof.Machine.execBandwidthWindowStart s
  | .injectionGrant master cls line => Sys2Proof.Machine.execInjectionGrant master cls line s
  | .arbitrationGrant point waiting => Sys2Proof.Machine.execArbitrationGrant point waiting s
  | .getState => Sys2Proof.Machine.execGetState s
  | .getTelemetry => Sys2Proof.Machine.execGetTelemetry s
  | .readBlackbox first => Sys2Proof.Machine.execReadBlackbox first s
  | .epoArm eid => Sys2Proof.Machine.execEpoArm eid s
  | .epoFire eid nonce => Sys2Proof.Machine.execEpoFire eid nonce s
  | .sidebandUnknownCommand code => Sys2Proof.Machine.execSidebandUnknownCommand code s
  | .mctpControl code => Sys2Proof.Machine.execMctpControl code s
  | .ideKSetGo => Sys2Proof.Machine.execIdeKSetGo s
  | .ideKeyProg => Sys2Proof.Machine.execIdeKeyProg s
  | .flitTransmit port vc => Sys2Proof.Machine.execFlitTransmit port vc s
  | .flitReceive port flit codewords => Sys2Proof.Machine.execFlitReceive port flit codewords s
  | .flitReplay port lseq => Sys2Proof.Machine.execFlitReplay port lseq s
  | .retrain v far => Sys2Proof.Machine.execRetrain v far s
  | .rekey v authOk => Sys2Proof.Machine.execRekey v authOk s
  | .downPortAttempt port far => Sys2Proof.Machine.execDownPortAttempt port far s
  | .linkKeyRenewal port authOk => Sys2Proof.Machine.execLinkKeyRenewal port authOk s
  | .renewalRetry port authOk => Sys2Proof.Machine.execRenewalRetry port authOk s
  | .fabricErrorWindowEnd port => Sys2Proof.Machine.execFabricErrorWindowEnd port s
  | .messageForward port msg => Sys2Proof.Machine.execMessageForward port msg s
  | .fabricRead port msg => Sys2Proof.Machine.execFabricRead port msg s
  | .fabricWrite port msg => Sys2Proof.Machine.execFabricWrite port msg s
  | .fabricRed port msg => Sys2Proof.Machine.execFabricRed port msg s
  | .fabricData port msg => Sys2Proof.Machine.execFabricData port msg s
  | .fabricAck port msg => Sys2Proof.Machine.execFabricAck port msg s
  | .fabricNack port msg => Sys2Proof.Machine.execFabricNack port msg s
  | .bcast port msg => Sys2Proof.Machine.execBcast port msg s
  | .fabricTimeout tag => Sys2Proof.Machine.execFabricTimeout tag s
  | .awlDisarm v => Sys2Proof.Machine.execAwlDisarm v s
  | .awlArmDrop v => Sys2Proof.Machine.execAwlArmDrop v s
  | .awlArmCorrupt v => Sys2Proof.Machine.execAwlArmCorrupt v s
  | .awlArmReorder v => Sys2Proof.Machine.execAwlArmReorder v s
  | .awlReorderRelease port => Sys2Proof.Machine.execAwlReorderRelease port s
  | .fabFabricIdWrite v => Sys2Proof.Machine.execFabFabricIdWrite v s
  | .fabRouteHopsWrite v => Sys2Proof.Machine.execFabRouteHopsWrite v s
  | .fabRouteBcastWrite v => Sys2Proof.Machine.execFabRouteBcastWrite v s
  | .cvuCtlWrite v => Sys2Proof.Machine.execCvuCtlWrite v s
  | .cvuReset => Sys2Proof.Machine.execCvuReset s
  | .cvuFinish => Sys2Proof.Machine.execCvuFinish s
  | .cvuFoldLo v => Sys2Proof.Machine.execCvuFoldLo v s
  | .cvuFoldHi v => Sys2Proof.Machine.execCvuFoldHi v s
  | .cvuData8 v => Sys2Proof.Machine.execCvuData8 v s
  | .cvuData16 v => Sys2Proof.Machine.execCvuData16 v s
  | .cvuData32 v => Sys2Proof.Machine.execCvuData32 v s
  | .cvuPortTest port egressOk ingressOk => Sys2Proof.Machine.execCvuPortTest port egressOk ingressOk s
  | .mma site low => Sys2Proof.Machine.execMma site low s
  | .ewmul site low => Sys2Proof.Machine.execEwmul site low s
  | .ewadd site low => Sys2Proof.Machine.execEwadd site low s
  | .arrayExecute tile => Sys2Proof.Machine.execArrayExecute tile s
  | .arrayOpComplete tile => Sys2Proof.Machine.execArrayOpComplete tile s
  | .add site low => Sys2Proof.Machine.execAdd site low s
  | .sub site low => Sys2Proof.Machine.execSub site low s
  | .mul site low => Sys2Proof.Machine.execMul site low s
  | .mulhi site low => Sys2Proof.Machine.execMulhi site low s
  | .mulhu site low => Sys2Proof.Machine.execMulhu site low s
  | .andI site low => Sys2Proof.Machine.execAndI site low s
  | .orI site low => Sys2Proof.Machine.execOrI site low s
  | .xorI site low => Sys2Proof.Machine.execXorI site low s
  | .shl site low => Sys2Proof.Machine.execShl site low s
  | .shr site low => Sys2Proof.Machine.execShr site low s
  | .shra site low => Sys2Proof.Machine.execShra site low s
  | .minI site low => Sys2Proof.Machine.execMinI site low s
  | .maxI site low => Sys2Proof.Machine.execMaxI site low s
  | .minu site low => Sys2Proof.Machine.execMinu site low s
  | .maxu site low => Sys2Proof.Machine.execMaxu site low s
  | .setI site low => Sys2Proof.Machine.execSetI site low s
  | .sel site low => Sys2Proof.Machine.execSel site low s
  | .popc site low => Sys2Proof.Machine.execPopc site low s
  | .clz site low => Sys2Proof.Machine.execClz site low s
  | .fadd site low => Sys2Proof.Machine.execFadd site low s
  | .fsub site low => Sys2Proof.Machine.execFsub site low s
  | .fmul site low => Sys2Proof.Machine.execFmul site low s
  | .ffma site low => Sys2Proof.Machine.execFfma site low s
  | .fmin site low => Sys2Proof.Machine.execFmin site low s
  | .fmax site low => Sys2Proof.Machine.execFmax site low s
  | .fabs site low => Sys2Proof.Machine.execFabs site low s
  | .fneg site low => Sys2Proof.Machine.execFneg site low s
  | .fset site low => Sys2Proof.Machine.execFset site low s
  | .cvt site low => Sys2Proof.Machine.execCvt site low s
  | .movi site low => Sys2Proof.Machine.execMovi site low s
  | .movs site low => Sys2Proof.Machine.execMovs site low s
  | .ldl site low => Sys2Proof.Machine.execLdl site low s
  | .stl site low => Sys2Proof.Machine.execStl site low s
  | .ldg site low => Sys2Proof.Machine.execLdg site low s
  | .stg site low => Sys2Proof.Machine.execStg site low s
  | .aadd site low => Sys2Proof.Machine.execAadd site low s
  | .amin site low => Sys2Proof.Machine.execAmin site low s
  | .amax site low => Sys2Proof.Machine.execAmax site low s
  | .aminu site low => Sys2Proof.Machine.execAminu site low s
  | .amaxu site low => Sys2Proof.Machine.execAmaxu site low s
  | .aand site low => Sys2Proof.Machine.execAand site low s
  | .aor site low => Sys2Proof.Machine.execAor site low s
  | .axor site low => Sys2Proof.Machine.execAxor site low s
  | .afadd site low => Sys2Proof.Machine.execAfadd site low s
  | .awadd site low => Sys2Proof.Machine.execAwadd site low s
  | .acas site low => Sys2Proof.Machine.execAcas site low s
  | .aexch site low => Sys2Proof.Machine.execAexch site low s
  | .deviceAtomicReply tag => Sys2Proof.Machine.execDeviceAtomicReply tag s
  | .fence site low => Sys2Proof.Machine.execFence site low s
  | .bar site low => Sys2Proof.Machine.execBar site low s
  | .waita site low => Sys2Proof.Machine.execWaita site low s
  | .waitv site low => Sys2Proof.Machine.execWaitv site low s
  | .nop site low => Sys2Proof.Machine.execNop site low s
  | .bra site low => Sys2Proof.Machine.execBra site low s
  | .brz site low => Sys2Proof.Machine.execBrz site low s
  | .brnz site low => Sys2Proof.Machine.execBrnz site low s
  | .brs site low => Sys2Proof.Machine.execBrs site low s
  | .call site low => Sys2Proof.Machine.execCall site low s
  | .jmp site low => Sys2Proof.Machine.execJmp site low s
  | .exitT site low => Sys2Proof.Machine.execExitT site low s
  | .trap site low => Sys2Proof.Machine.execTrap site low s
  | .seqOpen site low => Sys2Proof.Machine.execSeqOpen site low s
  | .seqAppend site low => Sys2Proof.Machine.execSeqAppend site low s
  | .seqGather site low => Sys2Proof.Machine.execSeqGather site low s
  | .seqFree site low => Sys2Proof.Machine.execSeqFree site low s
  | .seqQuery site low => Sys2Proof.Machine.execSeqQuery site low s
  | .seqResult tag => Sys2Proof.Machine.execSeqResult tag s
  | .rngv site low => Sys2Proof.Machine.execRngv site low s
  | .vsetvl site low => Sys2Proof.Machine.execVsetvl site low s
  | .vadd site low => Sys2Proof.Machine.execVadd site low s
  | .vsub site low => Sys2Proof.Machine.execVsub site low s
  | .vmul site low => Sys2Proof.Machine.execVmul site low s
  | .vfma site low => Sys2Proof.Machine.execVfma site low s
  | .vmin site low => Sys2Proof.Machine.execVmin site low s
  | .vmax site low => Sys2Proof.Machine.execVmax site low s
  | .vabs site low => Sys2Proof.Machine.execVabs site low s
  | .vneg site low => Sys2Proof.Machine.execVneg site low s
  | .vand site low => Sys2Proof.Machine.execVand site low s
  | .vor site low => Sys2Proof.Machine.execVor site low s
  | .vxor site low => Sys2Proof.Machine.execVxor site low s
  | .vshl site low => Sys2Proof.Machine.execVshl site low s
  | .vshr site low => Sys2Proof.Machine.execVshr site low s
  | .vcmpeq site low => Sys2Proof.Machine.execVcmpeq site low s
  | .vcmplt site low => Sys2Proof.Machine.execVcmplt site low s
  | .vcmple site low => Sys2Proof.Machine.execVcmple site low s
  | .vcmpgt site low => Sys2Proof.Machine.execVcmpgt site low s
  | .vsel site low => Sys2Proof.Machine.execVsel site low s
  | .vexp2 site low => Sys2Proof.Machine.execVexp2 site low s
  | .vrcp site low => Sys2Proof.Machine.execVrcp site low s
  | .vrsqrt site low => Sys2Proof.Machine.execVrsqrt site low s
  | .vcvt site low => Sys2Proof.Machine.execVcvt site low s
  | .vld site low => Sys2Proof.Machine.execVld site low s
  | .vst site low => Sys2Proof.Machine.execVst site low s
  | .vlds site low => Sys2Proof.Machine.execVlds site low s
  | .vsts site low => Sys2Proof.Machine.execVsts site low s
  | .vgather site low => Sys2Proof.Machine.execVgather site low s
  | .vscatter site low => Sys2Proof.Machine.execVscatter site low s
  | .vscani site low => Sys2Proof.Machine.execVscani site low s
  | .vscanx site low => Sys2Proof.Machine.execVscanx site low s
  | .vred site low => Sys2Proof.Machine.execVred site low s
  | .vcompress site low => Sys2Proof.Machine.execVcompress site low s
  | .vsum site low => Sys2Proof.Machine.execVsum site low s
  | .vwscani site low => Sys2Proof.Machine.execVwscani site low s
  | .vwscanx site low => Sys2Proof.Machine.execVwscanx site low s
  | .vwred site low => Sys2Proof.Machine.execVwred site low s
  | .vwadd site low => Sys2Proof.Machine.execVwadd site low s
  | .vwrealign site low => Sys2Proof.Machine.execVwrealign site low s
  | .cxlLinkUp width rate => Sys2Proof.Machine.execCxlLinkUp width rate s
  | .vectorExecute tile => Sys2Proof.Machine.execVectorExecute tile s
  | .vectorResultVisible tile => Sys2Proof.Machine.execVectorResultVisible tile s
  | .bistComplete ring idx found => Sys2Proof.Machine.execBistComplete ring idx found s
  | .portSignalLoss port => Sys2Proof.Machine.execPortSignalLoss port s
  | .completionRingSnoop ring line => Sys2Proof.Machine.execCompletionRingSnoop ring line s
  | .hbmRefresh h channel pseudo bank => Sys2Proof.Machine.execHbmRefresh h channel pseudo bank s

end Sys2Proof.Machine
end

