-- ==== Sys2Proof/Machine/Tick.lean ====
section
/-! DEFINITION. What one always-on cycle does of itself (R5): the block's step when no command waits. -/

namespace Sys2Proof.Machine

/-- Core cycles of a tile in one always-on cycle, in quarters (R5, R136): 2.5 for each 100 MHz of its clock while it is on, half
as many while the clock is halved (R437). -/
def State.tileQuarters (s : State) (t : Nat) : Nat :=
  if (s.region (t / 52) (t % 52)).halved then 5 * s.clockSetting t else 10 * s.clockSetting t

/-- The CYCLE counts of the tiles that are on. -/
def State.tickTiles (s : State) : State :=
  let run := fun t (x : Tile) => if x.power matches .on then { x with quarterCycles := x.quarterCycles + s.tileQuarters t } else x
  { s with tiles := smMapD Tile.reset run s.tiles }

/-- The test ages of the welts that have trained (R235). -/
def State.tickWelts (s : State) : State :=
  ((upTo 8).filter fun k => s.dev.weltTrained.getLsbD k).foldl
    (fun t k => t.setWeltStack k { t.weltStack k with age := (t.weltStack k).age + 1 }) s

/-- The ages of the scrub laps (R267). -/
def State.tickLaps (s : State) : State :=
  if s.dev.hbmTrained then
    ((upTo 8).filter fun k => s.dev.stackUp.getLsbD k).foldl (fun t k => ((t.cntHbm k 0x160 1).cntHbm k 0x168 1).cntHbm k 0x170 1) s
  else s

/-- One always-on cycle: nothing in OFF; in AON it ends step 1. -/
def State.tick (s : State) : State :=
  if s.dev.mode matches .off then s
  else
    let s1 := { ((s.tickTiles).tickWelts).tickLaps with aon := s.aon + 1 }
    if s.dev.mode matches .aon then s1.endAon else s1

end Sys2Proof.Machine
end

