-- ==== Sys2Proof/Safety.lean ====
section
/-! DEFINITION. The vocabulary of the claims: steps and runs, invariants, the condition under which an instruction of a
thread-group processor issues, and what it may change. -/

namespace Sys2Proof.Machine

/-! ## Runs and invariants -/

/-- A step that goes on. -/
def Goes (s t : State) : Prop := step s = .next t

/-- States that steps lead to from a state. -/
inductive Reach (s : State) : State → Prop where
  | here : Reach s s
  | more {t u : State} : Reach s t → Goes t u → Reach s u

/-- The byte memories of the host and of the HBM stacks are in their canonical form. -/
def State.memoriesWf (s : State) : Bool := s.host.mem.wf && s.hbm.mem.wf

/-- What every command keeps of a state: what is fused into the part, the queue, the always-on counter, and the canonical
form of the memories. -/
def Kept (c s : State) : Prop := s.part = c.part ∧ s.pending = c.pending ∧ s.aon = c.aon ∧ s.memoriesWf = true

/-! ## Instructions of the thread-group processors -/

/-- An instruction word issues at a site: the named thread's set is runnable, its PC lies in the code section, the word
is well formed for its operation (R124 to R130), and no word of the tile holds an error (R261). -/
def Issues (s : State) (site : Site) (w : Nat) (h : Shape) (i : Issue) : Prop :=
  s.issueAt site.tile.val site.tgp.val site.slot.val site.lane.val w (h.regs w) = some i ∧
    i.job.pcOk i.pc = true ∧ h.ok w i.job.image.nR = true ∧ (s.tile site.tile.val).flips = []

/-- Nothing changes but one group, which becomes `g`, and the tile's count of instructions. -/
def GroupOnly (s t : State) (i : Issue) (g : Group) : Prop :=
  t = { s with tiles := t.tiles } ∧ (∀ n, n ≠ i.t → t.tile n = s.tile n) ∧
    t.tile i.t = { s.tile i.t with
      groups := smPut (s.tile i.t).groups i.key g, counters := (s.tile i.t).counters.add 0x100 1 }

/-- In a group, register `rd` of the threads of the issuing set takes the values `f`; every other register of every thread
keeps its value. -/
def Writes (i : Issue) (g : Group) (rd : Nat) (f : Nat → Word) : Prop :=
  ∀ l r, l < 32 → g.reg l r = if l ∈ i.lanes ∧ r = rd then f l else i.grp.reg l r

/-- The threads of the issuing set go to `pc`; the others stay. -/
def MovesTo (i : Issue) (g : Group) (pc : Nat → Nat) : Prop :=
  ∀ l, g.pcOf l = if l ∈ i.lanes then pc l else i.grp.pcOf l

/-- The threads of the issuing set move past the instruction. -/
def Passes (i : Issue) (g : Group) : Prop := MovesTo i g fun _ => (i.pc + 8) % 2 ^ 32

/-- A group without its registers and PCs: what an instruction that writes only those leaves as it was. -/
def Group.bare (g : Group) : Group := { g with regs := [], pc := [] }

end Sys2Proof.Machine
end

