-- ==== Sys2Proof/Certificates/Slice0/Obligations.lean ====
section
/-! DEFINITION. The statements for the provers, with the tables of commands that they range over. -/

open Sys2Proof Sys2Proof.Machine

/-! ## Steps, reset and the whole machine -/

/-- A step with commands waiting runs the one at the front on the state with the queue's rest. Readings of the model's own in
it: log entry 6. -/
def Obligations.StepRunsFrontCommand : Prop :=
  ∀ (c : Instr) (rest : List Instr) (s : State), step { s with pending := c :: rest } = exec c { s with pending := rest }

/-- A step with no command waiting lets one always-on cycle pass (a choice of the model, log entry 1): nothing happens in
OFF; otherwise the always-on counter rises by one, and outside AON only the tiles' cycle counts, the welts' test ages and the
ages of the scrub laps move with it: those of the tiles that are on, of the stacks whose welt has trained, and of the powered
stacks once HBM has trained. Readings of the model's own in it: log entries 1, 55. -/
def Obligations.IdleStepPassesOneCycle : Prop :=
  ∀ s : State, s.pending = [] →
    (s.dev.mode = .off → step s = .next s) ∧
    (s.dev.mode ≠ .off → s.dev.mode ≠ .aon → ∃ t, step s = .next t ∧
      t = { s with aon := s.aon + 1, tiles := t.tiles, welt.units := t.welt.units, hbm.counters := t.hbm.counters } ∧
      (∀ n, (s.tile n).power = .on → t.tile n = { s.tile n with quarterCycles := (s.tile n).quarterCycles + s.tileQuarters n }) ∧
      (∀ k < 8, t.weltStack k = { s.weltStack k with
        age := (s.weltStack k).age + if s.dev.weltTrained.getLsbD k then 1 else 0 }) ∧
      (∀ k < 8, ∀ off, Counters.get (smGet [] t.hbm.counters k) off =
        if s.dev.hbmTrained = true ∧ s.dev.stackUp.getLsbD k = true ∧ (off = 0x160 ∨ off = 0x168 ∨ off = 0x170) then
          satAdd64 (Counters.get (smGet [] s.hbm.counters k) off) 1
        else Counters.get (smGet [] s.hbm.counters k) off))

namespace Sys2Proof.Machine

/-- Reset values of BAR0 registers, by offset. -/
def barResets : List (Nat × Nat) :=
  [(0x0000, 0xA7E00880), (0x0004, 0), (0x0020, 0), (0x0024, 0), (0x0028, 0), (0x002C, 0), (0x0030, 0), (0x0034, 0), (0x0050, 0),
   (0x0054, 0), (0x0058, 0), (0x0060, 0), (0x0070, 0), (0x0074, 0), (0x0078, 0), (0x007C, 0), (0x1000, 0), (0x1008, 0),
   (0x1020, 1), (0x1024, 0), (0x1028, 0), (0x1030, 0), (0x1034, 0), (0x2004, 0), (0x2008, 0), (0x200C, 0), (0x3000, 0),
   (0x4000, 200), (0x4020, 0), (0x4024, 0), (0x500C, 200), (0x5020, 0), (0x5024, 0), (0x6008, 0), (0x600C, 0x9C4), (0x6010, 0x40),
   (0x6014, 0)]

/-- Reset values of registers of the indirect spaces, by space and offset. -/
def indResets : List (Nat × Nat × Nat) :=
  [(0, 0, 0), (0, 8, 0x480), (1, 0, 0x3C), (1, 4, 0x060C0C18), (1, 8, 8), (2, 4, 0x5A0), (2, 8, 4), (4, 8, 3), (4, 0x10, 4096),
   (4, 0x14, 2048), (4, 0x18, 1024), (4, 0x1C, 512), (4, 0x100, 768), (4, 0x120, 768), (4, 0x140, 384), (4, 0x160, 444),
   (4, 0x180, 283), (4, 0x1A0, 96)]

/-- After reset the device is OFF with nothing waiting, no job, no group and no ring enabled; the policy in force is the
factory policy with flags 0x6C, no fabric ID is assigned, the audit log is empty, and every register holds its reset
value. -/
def ResetState : Prop :=
  State.reset.dev.mode = .off ∧ State.reset.pending = [] ∧ State.reset.jobs = [] ∧ (∀ t, State.reset.tile t = Tile.reset) ∧
    (∀ r, (State.reset.ring r).enable = false) ∧ State.reset.policy.flags = 0x6C ∧ State.reset.mram.fabricId = 0xFFFF ∧
    State.reset.mram.auditHead = 0 ∧ State.reset.mram.bbHead = 0 ∧
    (∀ e ∈ barResets, State.reset.readBar0 e.1 = e.2) ∧ (∀ e ∈ indResets, State.reset.readInd e.1 e.2.1 = e.2.2)

/-- The byte memories are in their canonical form after reset. -/
def ResetMemoriesCanonical : Prop := State.reset.memoriesWf = true

end Sys2Proof.Machine

/-- ResetState and ResetMemoriesCanonical, together. Readings of the model's own in it: log entries 1, 6, 10, 11, 12, 13. -/
def Obligations.StateAfterReset : Prop := ResetState ∧ ResetMemoriesCanonical

/-- Every step that goes on keeps the byte memories in their canonical form and what is fused into the part; it takes exactly
the front command from the queue; and only a step with an empty queue moves the always-on counter, by one, and not in OFF.
Readings of the model's own in it: log entries 1, 6, 12, 13. -/
def Obligations.EveryStepKeepsTheMachineSound : Prop :=
  ∀ s t : State, s.memoriesWf = true → step s = .next t →
    t.memoriesWf = true ∧ t.part = s.part ∧ t.pending = s.pending.tail ∧
      t.aon = if s.pending = [] ∧ s.dev.mode ≠ .off then s.aon + 1 else s.aon

/-- No command is refused, in any state; and a command that is well formed never ends in a fault. Readings of the model's own
in it: log entries 4, 5. -/
def Obligations.NoCommandIsRefused : Prop :=
  ∀ (c : Instr) (s : State), (∀ r, exec c s ≠ .refused r) ∧ (c.wf = true → ∃ t, exec c s = .next t)

/-! ## Scalar instructions -/

namespace Sys2Proof.Machine

/-- A scalar instruction: its constructor, its class and OP (R129, R133, R134, R136), its operand shape, and the value it
writes to RD of a thread. -/
structure ScalarRow where
  instr : Site → BitVec 52 → Instr
  cls : Nat
  op : Nat
  shape : Nat → Shape
  value : Issue → Nat → Word

/-- An IALU operation of RA and the second source, which is RB, or IMM in Form I. -/
def ialuRow (instr : Site → BitVec 52 → Instr) (op : Nat) (f : Word → Word → Word) : ScalarRow :=
  ⟨instr, 0, op, fun w => ialuShape w 1, fun i l => f (i.grp.reg l (insRA i.word))
    (if insI i.word then BitVec.ofNat 32 (insIMM i.word) else i.grp.reg l (insRB i.word))⟩

/-- The results of R133 and of MOVI (R136), in the arithmetic of 32-bit words. -/
noncomputable def integerRows : List ScalarRow := [
  ialuRow .add 0x00 fun a b => a + b,
  ialuRow .sub 0x01 fun a b => a - b,
  ialuRow .mul 0x02 fun a b => a * b,
  ialuRow .mulhi 0x03 fun a b => ((a.signExtend 64 * b.signExtend 64) >>> 32).setWidth 32,
  ialuRow .mulhu 0x04 fun a b => ((a.setWidth 64 * b.setWidth 64) >>> 32).setWidth 32,
  ialuRow .andI 0x05 fun a b => a &&& b,
  ialuRow .orI 0x06 fun a b => a ||| b,
  ialuRow .xorI 0x07 fun a b => a ^^^ b,
  ialuRow .shl 0x08 fun a b => a <<< (b.toNat % 32),
  ialuRow .shr 0x09 fun a b => a >>> (b.toNat % 32),
  ialuRow .shra 0x0A fun a b => a.sshiftRight (b.toNat % 32),
  ialuRow .minI 0x0B fun a b => if a.toInt ≤ b.toInt then a else b,
  ialuRow .maxI 0x0C fun a b => if a.toInt ≤ b.toInt then b else a,
  ialuRow .minu 0x0D fun a b => if a ≤ b then a else b,
  ialuRow .maxu 0x0E fun a b => if a ≤ b then b else a,
  ⟨.sel, 0, 0x10, fun w => ⟨1, 1, 1, 1, true, false, insMOD w == 0, 0, false, false⟩, fun i l =>
    if i.grp.reg l (insRC i.word) = 0 then i.grp.reg l (insRB i.word) else i.grp.reg l (insRA i.word)⟩,
  ⟨.popc, 0, 0x11, unaryShape, fun i l =>
    BitVec.ofNat 32 ((List.range 32).countP fun k => (i.grp.reg l (insRA i.word)).getLsbD k)⟩,
  ⟨.clz, 0, 0x12, unaryShape, fun i l =>
    BitVec.ofNat 32 ((List.range 32).countP fun k => (i.grp.reg l (insRA i.word)).toNat < 2 ^ k)⟩,
  ⟨.movi, 3, 0, fun w => ⟨1, 0, 0, 0, false, true, insMOD w == 0, 0, false, true⟩, fun i _ => BitVec.ofNat 32 (insIMM i.word)⟩]

/-- The comparison of SET by MOD (R133). -/
def setHolds (md : Nat) (a b : Word) : Bool :=
  match md with
  | 0 => a == b
  | 1 => a != b
  | 2 => a.slt b
  | 3 => a.sle b
  | 4 => a.ult b
  | _ => a.ule b

/-- SET (R133) writes 1 or 0. -/
noncomputable def setRow : ScalarRow :=
  ⟨.setI, 0, 0x0F, fun w => ialuShape w 6, fun i l =>
    if setHolds (insMOD i.word) (i.grp.reg l (insRA i.word))
      (if insI i.word then BitVec.ofNat 32 (insIMM i.word) else i.grp.reg l (insRB i.word)) then 1 else 0⟩

end Sys2Proof.Machine

/-- Every integer instruction completes wherever it issues: each thread of the set gets the result in RD and moves past the
instruction; nothing else of the group, the tile or the device changes, but the tile's count of instructions. Readings of the
model's own in it: log entries 24, 25, 170. -/
def Obligations.IntegerInstructionResults : Prop :=
  ∀ e ∈ integerRows ++ [setRow], ∀ (site : Site) (low : BitVec 52) (s : State) (i : Issue),
    Issues s site (insWord e.cls e.op low) (e.shape (insWord e.cls e.op low)) i →
    ∃ t g, exec (e.instr site low) s = .next t ∧ GroupOnly s t i g ∧
      Writes i g (insRD (insWord e.cls e.op low)) (e.value i) ∧ Passes i g ∧
      g.bare = i.grp.bare

namespace Sys2Proof.Machine

/-- A binary32 instruction: the constructor, its OP, its shape, and the result and exceptions of a thread (R65, R134). -/
structure FloatRow where
  instr : Site → BitVec 52 → Instr
  op : Nat
  shape : Nat → Shape
  value : Issue → Nat → Nat × Exc

/-- An operation that rounds, in Form R only since it needs RND (R130): of RA and RB. -/
def roundRow (instr : Site → BitVec 52 → Instr) (op : Nat) (f : Nat → Nat → Nat → Nat × Exc) : FloatRow :=
  ⟨instr, op, fun w => ⟨1, 1, 1, 0, true, false, insMOD w == 0, 1, false, false⟩, fun i l =>
    f (insRND i.word) (i.grp.reg l (insRA i.word)).toNat (i.grp.reg l (insRB i.word)).toNat⟩

/-- An operation that does not round: of RA, and RB or IMM. -/
def chooseRow (instr : Site → BitVec 52 → Instr) (op : Nat) (f : Nat → Nat → Nat) : FloatRow :=
  ⟨instr, op, fun w => ⟨1, 1, 1, 0, true, true, insMOD w == 0, 0, false, true⟩, fun i l =>
    (f (i.grp.reg l (insRA i.word)).toNat
      (if insI i.word then BitVec.ofNat 32 (insIMM i.word) else i.grp.reg l (insRB i.word)).toNat, 0)⟩

noncomputable def floatRows : List FloatRow := [
  roundRow .fadd 0 fun r a b => fpAdd 0 r a b,
  roundRow .fsub 1 fun r a b => fpSub 0 r a b,
  roundRow .fmul 2 fun r a b => fpMul 0 r a b,
  ⟨.ffma, 3, fun w => ⟨1, 1, 1, 1, true, false, insMOD w == 0, 1, false, false⟩, fun i l =>
    fpFma 0 (insRND i.word) (i.grp.reg l (insRA i.word)).toNat (i.grp.reg l (insRB i.word)).toNat
      (i.grp.reg l (insRC i.word)).toNat⟩,
  chooseRow .fmin 4 fun a b => fpMinMax 0 false a b,
  chooseRow .fmax 5 fun a b => fpMinMax 0 true a b,
  ⟨.fabs, 6, unaryShape, fun i l => ((i.grp.reg l (insRA i.word) &&& 0x7FFFFFFF).toNat, 0)⟩,
  ⟨.fneg, 7, unaryShape, fun i l => ((i.grp.reg l (insRA i.word) ^^^ 0x80000000).toNat, 0)⟩,
  ⟨.fset, 8, fun w => ⟨1, 1, 1, 0, true, true, decide (insMOD w < 4), 0, false, true⟩, fun i l =>
    (if fsetCompare (insMOD i.word) (i.grp.reg l (insRA i.word)).toNat
      (if insI i.word then BitVec.ofNat 32 (insIMM i.word) else i.grp.reg l (insRB i.word)).toNat then 1 else 0, 0)⟩]

end Sys2Proof.Machine

/-- Every binary32 instruction completes wherever it issues: RD gets the result, and the exceptions of the set's threads are
ORed into the group's CSTAT and into no other place; FABS and FNEG change only the sign bit. Readings of the model's own in
it: log entries 24, 25, 170. -/
def Obligations.FloatInstructionResults : Prop :=
  ∀ e ∈ floatRows, ∀ (site : Site) (low : BitVec 52) (s : State) (i : Issue),
    Issues s site (insWord 1 e.op low) (e.shape (insWord 1 e.op low)) i →
    ∃ t g, exec (e.instr site low) s = .next t ∧ GroupOnly s t i g ∧
      Writes i g (insRD (insWord 1 e.op low)) (fun l => BitVec.ofNat 32 (e.value i l).1) ∧ Passes i g ∧
      (∀ k, g.cstat.getLsbD k = (i.grp.cstat.getLsbD k || i.lanes.any fun l => (e.value i l).2.getLsbD k)) ∧
      { g.bare with cstat := 0 } = { i.grp.bare with cstat := 0 }

namespace Sys2Proof.Machine

/-- A thread's result of CVT and its exceptions, where the rounding is not stochastic (R60 to R65, R135). -/
def cvtValue (i : Issue) (l : Nat) : Nat × Exc :=
  convert (cvtDst i.word) (insRND i.word) 0 (cvtSat i.word) 0
    (decodeElem (cvtSrc i.word) ((i.grp.reg l (insRA i.word)).toNat % 2 ^ fmtBits (cvtSrc i.word)))

end Sys2Proof.Machine

/-- CVT completes wherever it issues. Under RNE and RTZ each thread's RD gets the converted value, widened, and the
exceptions reach the group's CSTAT; under SR4, where no lane's range is at its end, the tile's random-bit unit moves on and
its count of shared draws rises by the draws that served the threads of the set. Readings of the model's own in it: log
entries 24, 25, 29, 36, 170. -/
def Obligations.ConversionResults : Prop :=
  ∀ (site : Site) (low : BitVec 52) (s : State) (i : Issue),
    Issues s site (insWord 2 0 low) (cvtShape (insWord 2 0 low)) i →
    (insRND (insWord 2 0 low) ≠ 2 → ∃ t g, exec (.cvt site low) s = .next t ∧ GroupOnly s t i g ∧
      Writes i g (insRD (insWord 2 0 low)) (fun l => BitVec.ofNat 32 (widen (cvtDst i.word) (cvtValue i l).1)) ∧ Passes i g ∧
      (∀ k, g.cstat.getLsbD k = (i.grp.cstat.getLsbD k || i.lanes.any fun l => (cvtValue i l).2.getLsbD k)) ∧
      { g.bare with cstat := 0 } = { i.grp.bare with cstat := 0 }) ∧
    (insRND (insWord 2 0 low) = 2 → ∀ g r,
      cvtLanes i (insWord 2 0 low) i.lanes (i.grp.advance i.pc i.lanes) (s.tile i.t).rng = some (g, r) →
      ∃ t, exec (.cvt site low) s = .next t ∧ t = { s with tiles := t.tiles } ∧ (∀ n, n ≠ i.t → t.tile n = s.tile n) ∧
        t.tile i.t = { s.tile i.t with
          groups := smPut (s.tile i.t).groups i.key g, counters := (s.tile i.t).counters.add 0x100 1, rng := r
          rngCounters := (s.tile i.t).rngCounters.add 0x108 ((s.tile i.t).rng.drawsTo r i.t 1 0 i.lanes.length) } ∧ Passes i g)

namespace Sys2Proof.Machine

/-- The shape of MOVS (R136). -/
def movsShape (w : Nat) : Shape :=
  ⟨1, 0, 0, 0, false, true, insMOD w == 0 && decide (insIMM w < 256) && decide (insIMM w % 256 < 0x1C), 0, false, true⟩

end Sys2Proof.Machine

/-- MOVS completes where the reads of SSUM, VACC and CSTAT need not wait: every thread's RD gets the special register;
reading CSTAT clears it, reading AFLAGS clears it, and nothing else is cleared. Readings of the model's own in it: log
entries 24, 25. -/
def Obligations.SpecialRegisterRead : Prop :=
  ∀ (site : Site) (low : BitVec 52) (s : State) (i : Issue) (v : Nat → Nat),
    Issues s site (insWord 3 1 low) (movsShape (insWord 3 1 low)) i →
    (s.tile i.t).vecPending i.key (decide (0x0D ≤ insIMM i.word ∧ insIMM i.word ≤ 0x10))
      (decide (0x11 ≤ insIMM i.word ∧ insIMM i.word ≤ 0x15)) (decide (insIMM i.word = 0x16)) = false →
    (∀ l ∈ i.lanes, special i (s.tile i.t) (insIMM i.word) l = some (v l)) →
    ∃ t g, exec (.movs site low) s = .next t ∧ GroupOnly s t i g ∧
      Writes i g (insRD i.word) (fun l => BitVec.ofNat 32 (v l)) ∧ Passes i g ∧
      g.cstat = (if insIMM i.word = 0x16 then 0 else i.grp.cstat) ∧
      g.aflags = (if insIMM i.word = 0x17 then 0 else i.grp.aflags) ∧
      { g.bare with cstat := 0, aflags := 0 } = { i.grp.bare with cstat := 0, aflags := 0 }

namespace Sys2Proof.Machine

/-- A branch (R137): its constructor, OP and shape, what it waits for, which threads take it, and where they go. -/
structure BranchRow where
  instr : Site → BitVec 52 → Instr
  op : Nat
  shape : Nat → Shape
  waits : State → Issue → Bool
  taken : Issue → Nat → Bool
  target : Issue → Nat → Nat

noncomputable def branchRows : List BranchRow :=
  let rel := fun (i : Issue) (_ : Nat) => branchTarget i.pc i.word
  [⟨.bra, 1, fun w => immShape w 0 0 1, fun _ _ => false, fun _ _ => true, rel⟩,
   ⟨.brz, 2, fun w => immShape w 0 1 1, fun _ _ => false, fun i l => i.grp.reg l (insRA i.word) == 0, rel⟩,
   ⟨.brnz, 3, fun w => immShape w 0 1 1, fun _ _ => false, fun i l => i.grp.reg l (insRA i.word) != 0, rel⟩,
   ⟨.brs, 4, fun w => immShape w 0 0 6, fun s i => (s.tile i.t).vecPending i.key true false false,
    fun i _ => match insMOD i.word with
      | 0 => i.grp.ssum.getLsbD 0
      | 1 => !i.grp.ssum.getLsbD 0
      | 2 => i.grp.ssum.getLsbD 1
      | 3 => !i.grp.ssum.getLsbD 1
      | 4 => i.grp.ssum.getLsbD 2
      | _ => !i.grp.ssum.getLsbD 2, rel⟩,
   ⟨.jmp, 6, fun w => regShape w 1, fun _ _ => false, fun _ _ => true, fun i l => (i.grp.reg l (insRA i.word)).toNat⟩]

/-- Every branch completes wherever it issues: a thread that takes it goes to the target, one that does not moves past it,
each by its own condition; a target outside the code section, or misaligned, is the job-fatal fault 0x25. -/
def BranchEffects : Prop :=
  ∀ e ∈ branchRows, ∀ (site : Site) (low : BitVec 52) (s : State) (i : Issue),
    Issues s site (insWord 8 e.op low) (e.shape (insWord 8 e.op low)) i → e.waits s i = false →
    ((∀ l ∈ i.lanes, e.taken i l = true → i.job.pcOk (e.target i l) = true) →
      ∃ t g, exec (e.instr site low) s = .next t ∧ GroupOnly s t i g ∧
        MovesTo i g (fun l => if e.taken i l then e.target i l else (i.pc + 8) % 2 ^ 32) ∧
        (∀ l r, g.reg l r = i.grp.reg l r) ∧ g.bare = i.grp.bare) ∧
    (∀ l ∈ i.lanes, e.taken i l = true → i.job.pcOk (e.target i l) = false →
      exec (e.instr site low) s = .next ((s.cntTile i.t 0x100 1).insFault i 0x25 0))

/-- CALL writes PC + 8 to RD and branches. -/
def CallEffect : Prop :=
  ∀ (site : Site) (low : BitVec 52) (s : State) (i : Issue),
    Issues s site (insWord 8 5 low) (immShape (insWord 8 5 low) 1 0 1) i →
    i.job.pcOk (branchTarget i.pc i.word) = true →
    ∃ t g, exec (.call site low) s = .next t ∧ GroupOnly s t i g ∧
      Writes i g (insRD i.word) (fun _ => BitVec.ofNat 32 (i.pc + 8)) ∧ MovesTo i g (fun _ => branchTarget i.pc i.word) ∧
      g.bare = i.grp.bare

end Sys2Proof.Machine

/-- BranchEffects and CallEffect, together. Readings of the model's own in it: log entries 24, 25, 26, 28. -/
def Obligations.BranchAndCallEffects : Prop := BranchEffects ∧ CallEffect

namespace Sys2Proof.Machine

/-- NOP passes; WAITA passes once the group's outstanding array operations are at most IMM; WAITV passes once no vector
instruction of the group is outstanding; a FENCE passes for the threads whose earlier accesses it need wait for no longer.
No register changes. Until then WAITA, WAITV and FENCE leave the whole state as it was. -/
def WaitInstructions : Prop :=
  ∀ (site : Site) (low : BitVec 52) (s : State) (i : Issue),
    let passes := fun (c : Instr) (ok : Nat → Bool) =>
      (ok site.lane.val = true → ∃ t g, exec c s = .next t ∧ GroupOnly s t i g ∧
        MovesTo i g (fun l => if ok l then (i.pc + 8) % 2 ^ 32 else i.grp.pcOf l) ∧
        (∀ l r, g.reg l r = i.grp.reg l r) ∧ g.bare = i.grp.bare) ∧
      (ok site.lane.val = false → exec c s = .next s)
    (Issues s site (insWord 8 0 low) (regShape (insWord 8 0 low) 0) i → passes (.nop site low) fun _ => true) ∧
    (Issues s site (insWord 7 2 low) (syncShape (insMOD (insWord 7 2 low) == 0) true) i →
      passes (.waita site low) fun _ => decide (i.grp.aout ≤ insIMM i.word)) ∧
    (Issues s site (insWord 7 3 low) (syncShape (insMOD (insWord 7 3 low) == 0) false) i →
      passes (.waitv site low) fun _ => decide (i.grp.vout = 0)) ∧
    (Issues s site (insWord 7 0 low)
        (syncShape (decide (insMOD (insWord 7 0 low) % 8 < 6) && decide (insMOD (insWord 7 0 low) / 8 < 3)) false) i →
      passes (.fence site low) (s.fenceDone i.t i.key i.grp (insMOD i.word % 8)))

/-- BAR: the threads of the set wait; when every thread that has not exited waits, all the waiting threads move past their
BAR and none waits any longer. -/
def GroupBarrier : Prop :=
  ∀ (site : Site) (low : BitVec 52) (s : State) (i : Issue),
    Issues s site (insWord 7 1 low) (syncShape (insMOD (insWord 7 1 low) == 0) false) i →
    let waiting := fun l => i.grp.atBarrier.getLsbD l || decide (l ∈ i.lanes)
    ∃ t g, exec (.bar site low) s = .next t ∧ GroupOnly s t i g ∧ (∀ l r, g.reg l r = i.grp.reg l r) ∧
      { g.bare with atBarrier := 0 } = { i.grp.bare with atBarrier := 0 } ∧
      ((∀ l < 32, i.grp.live.getLsbD l = true → waiting l = true) →
        g.atBarrier = 0 ∧ ∀ l < 32, g.pcOf l = if waiting l then (i.grp.pcOf l + 8) % 2 ^ 32 else i.grp.pcOf l) ∧
      ((∃ l < 32, i.grp.live.getLsbD l = true ∧ waiting l = false) →
        (∀ l < 32, g.atBarrier.getLsbD l = waiting l) ∧ ∀ l, g.pcOf l = i.grp.pcOf l)

/-- EXIT of some but not all live threads takes them out of the group's live threads. EXIT of the last ones ends the group:
its slot is free, the faces it held are released, and the group's other accesses of the tile are dropped, while what it has
in the vector queue stays there with its registers; the groups that have exited rise by one, and where this was the last group of the launch the job ends with OK. -/
def ExitEndsThreadsAndGroups : Prop :=
  ∀ (site : Site) (low : BitVec 52) (s : State) (i : Issue),
    Issues s site (insWord 8 7 low) (regShape (insWord 8 7 low) 0) i →
    ((∃ l < 32, i.grp.live.getLsbD l = true ∧ l ∉ i.lanes) →
      ∃ t g, exec (.exitT site low) s = .next t ∧ GroupOnly s t i g ∧
        (∀ l < 32, g.live.getLsbD l = (i.grp.live.getLsbD l && !decide (l ∈ i.lanes))) ∧ ∀ l r, g.reg l r = i.grp.reg l r) ∧
    ((∀ l < 32, i.grp.live.getLsbD l = true → l ∈ i.lanes) →
      ∃ t v, exec (.exitT site low) s = .next t ∧ t.groupAt i.t i.p i.slot = none ∧
        (t.tile i.t).face0 = (s.tile i.t).face0.releaseBy i.key ∧ (t.tile i.t).face1 = (s.tile i.t).face1.releaseBy i.key ∧
        (∀ n, n ≠ i.t → t.tile n = s.tile n) ∧ (t.tile i.t).share = (s.tile i.t).share ∧
        (t.tile i.t).vecQueue = (s.tile i.t).vecQueue ∧
        (((s.tile i.t).vecQueue.any fun v => v.slot == i.key && v.group == i.grp.id) = true →
          (i.key, i.grp) ∈ (t.tile i.t).leaving) ∧
        t.job i.jobId = some v ∧ v.exited = i.job.exited + 1 ∧
        v.ended = (if i.job.image.groups ≤ i.job.nextGroup ∧ t.resident i.jobId = false then
          some (JobEnd.plain 0 s.aon i.job.image.stackBits) else i.job.ended))

/-- A job's end by a fault of an instruction (R511, R516): status JOB_FAULT, the detail code, and where it happened; the
tile's count of faults rises. Nothing else changes. -/
def FaultEnds (s t : State) (i : Issue) (code : Nat) (info : List Byte) : Prop :=
  t = { s with tiles := t.tiles, jobs := t.jobs } ∧ (∀ n, n ≠ i.t → t.tile n = s.tile n) ∧
    t.tile i.t = { s.tile i.t with counters := ((s.tile i.t).counters.add 0x100 1).add 0x150 1 } ∧
    (∀ j, j ≠ i.jobId → t.job j = s.job j) ∧
    t.job i.jobId = some { i.job with ended := some {
      status := 3, detail := BitVec.ofNat 8 code, aonCount := s.aon, tile := BitVec.ofNat 32 i.t, group := i.grp.id
      lanes := laneMask i.lanes, pc := BitVec.ofNat 32 i.pc, cls := 1, code := BitVec.ofNat 8 code
      affected := i.job.image.stackBits, info := BitVec.ofNat 256 (bytesToNat info), bbIndex := 0xFFFFFFFF, silent := false } }

/-- TRAP ends the job with JOB_FAULT and detail code 0x27, IMM[15:0] in the fault record. -/
def TrapEndsTheJob : Prop :=
  ∀ (site : Site) (low : BitVec 52) (s : State) (i : Issue),
    Issues s site (insWord 8 8 low) ⟨0, 0, 0, 0, false, true,
      insMOD (insWord 8 8 low) == 0 && decide (insIMM (insWord 8 8 low) < 65536), 0, false, true⟩ i →
    ∃ t, exec (.trap site low) s = .next t ∧ FaultEnds s t i 0x27 (natToBytes 2 (insIMM i.word % 65536))

end Sys2Proof.Machine

/-- WaitInstructions and GroupBarrier and ExitEndsThreadsAndGroups and TrapEndsTheJob, together. Readings of the model's own
in it: log entries 4, 24, 25, 26, 37. -/
def Obligations.WaitsBarriersAndEnds : Prop := WaitInstructions ∧ GroupBarrier ∧ ExitEndsThreadsAndGroups ∧ TrapEndsTheJob

/-! ## Local store and device memory -/

namespace Sys2Proof.Machine

/-- What a load of `size` bytes writes to register RD + k: the bytes, zero- or sign-extended (R139). -/
def loadedWord (m : Memory) (a size : Nat) (sx : Bool) (k : Nat) : Word :=
  if size = 16 then BitVec.ofNat 32 (m.readNat (a + 4 * k) 4)
  else if sx && decide (size < 4) then (BitVec.ofNat (8 * size) (m.readNat a size)).signExtend 32
  else BitVec.ofNat 32 (m.readNat a size)

/-- A lane's local access need not wait (R105, R142). -/
def localReady (s : State) (i : Issue) (size l : Nat) : Bool :=
  !s.acquiring i.t i.key l && !(s.tile i.t).vecOverlap i.job.image i.key (i.localAddr l) size

/-- LDL completes for every thread of the set whose access need not wait, the named thread among them: RD (RD to RD + 3 for
16 bytes) gets the bytes at RA + OFF of the share, and only those registers change. -/
def LocalLoad : Prop :=
  ∀ (site : Site) (low : BitVec 52) (s : State) (i : Issue),
    let n := memSize (insMOD i.word)
    Issues s site (insWord 4 0 low) (loadShape (insWord 4 0 low) 1 8) i →
    (∀ l ∈ i.lanes, i.localAddr l % n = 0 ∧ i.localAddr l + n ≤ i.job.image.share) → localReady s i n site.lane.val = true →
    ∃ t g, exec (.ldl site low) s = .next t ∧ GroupOnly s t i g ∧ g.bare = i.grp.bare ∧
      MovesTo i g (fun l => if localReady s i n l then (i.pc + 8) % 2 ^ 32 else i.grp.pcOf l) ∧
      ∀ l r, l < 32 → g.reg l r =
        if l ∈ i.lanes ∧ localReady s i n l = true ∧ insRD i.word ≤ r ∧ r < insRD i.word + memRegs n then
          loadedWord (s.tile i.t).share (i.localAddr l) n (decide (insMOD i.word / 4 = 1)) (r - insRD i.word)
        else i.grp.reg l r

/-- STL completes for every thread of the set whose access need not wait, the named thread among them: the bytes at RA + OFF
take the value of RB (RB to RB + 3 for 16 bytes), the highest thread's where threads name one address; every byte of the
share that no thread stores to keeps its value, and no register changes. -/
def LocalStore : Prop :=
  ∀ (site : Site) (low : BitVec 52) (s : State) (i : Issue),
    let n := memSize (insMOD i.word)
    let ls := i.lanes.filter (localReady s i n)
    Issues s site (insWord 4 1 low) (storeShape (insWord 4 1 low) 1 4) i →
    (∀ l ∈ i.lanes, i.localAddr l % n = 0 ∧ i.localAddr l + n ≤ i.job.image.share) → localReady s i n site.lane.val = true →
    ∃ t g m, exec (.stl site low) s = .next t ∧ t = { s with tiles := t.tiles } ∧ (∀ k, k ≠ i.t → t.tile k = s.tile k) ∧
      t.tile i.t = { s.tile i.t with
        groups := smPut (s.tile i.t).groups i.key g, counters := (s.tile i.t).counters.add 0x100 1, share := m } ∧
      g.bare = i.grp.bare ∧ (∀ l r, g.reg l r = i.grp.reg l r) ∧
      MovesTo i g (fun l => if localReady s i n l then (i.pc + 8) % 2 ^ 32 else i.grp.pcOf l) ∧
      (∀ l ∈ ls, (∀ k ∈ ls, l < k → i.localAddr k ≠ i.localAddr l) → m.readNat (i.localAddr l) n = i.storeValue l n) ∧
      (∀ a, (∀ l ∈ ls, a < i.localAddr l ∨ i.localAddr l + n ≤ a) → m.read a = (s.tile i.t).share.read a)

end Sys2Proof.Machine

/-- LocalLoad and LocalStore, together. Readings of the model's own in it: log entries 24, 25, 38, 168, 170. -/
def Obligations.LocalLoadsAndStores : Prop := LocalLoad ∧ LocalStore

namespace Sys2Proof.Machine

/-- A misaligned local access, or one beyond the share, of any thread of the set is the job-fatal fault 0x26, with the
instruction and the address of the lowest such thread in the record; no part of any thread's access takes effect. -/
def LocalAccessFault : Prop :=
  ∀ (site : Site) (low : BitVec 52) (s : State) (i : Issue) (c : Nat × (Nat → Shape) × (Site → BitVec 52 → Instr)),
    c ∈ [(0, (fun w => loadShape w 1 8), Instr.ldl), (1, (fun w => storeShape w 1 4), Instr.stl)] →
    Issues s site (insWord 4 c.1 low) (c.2.1 (insWord 4 c.1 low)) i →
    let bad := fun l => !(decide (i.localAddr l % memSize (insMOD i.word) = 0) &&
      decide (i.localAddr l + memSize (insMOD i.word) ≤ i.job.image.share))
    ∀ l ∈ i.lanes, bad l = true → (∀ k ∈ i.lanes, k < l → bad k = false) →
      ∃ t, exec (c.2.2 site low) s = .next t ∧
        FaultEnds s t i 0x26 (natToBytes 8 i.word ++ natToBytes 4 (i.localAddr l))

/-- What a thread's store to an address carries: the value of the highest thread of the set that names the address (R140). -/
def prevails (i : Issue) (l n : Nat) : Nat :=
  i.storeValue ((i.lanes.filter fun k => i.deviceAddr k == i.deviceAddr l).getLastD l) n

/-- LDG and STG whose threads all name ranges they may reach issue thread by thread, in ascending order: each thread that need
not wait moves past the instruction and makes its access, to this device's memory or to a peer's; of threads that store to one
address the highest one's value is what each carries (R139, R140, R376, R382). -/
def DeviceAccessByThread : Prop :=
  ∀ (site : Site) (low : BitVec 52) (s : State) (i : Issue),
    let n := memSize (insMOD i.word)
    let hint := insMOD i.word / 8
    (Issues s site (insWord 5 0 low) (loadShape (insWord 5 0 low) 2 24) i → ∀ tg : Nat → Target,
      (∀ l ∈ i.lanes, s.laneTarget i n false false (hint != 1) l = .ok (tg l)) → s.laneFree i false site.lane.val (tg site.lane.val) = true →
      exec (.ldg site low) s = .next ((i.lanes.filter fun l => s.laneFree i false l (tg l)).foldl
        (fun t l => match (tg l).peer with
          | none => t.loadLine i site l (tg l).addr n hint (decide (insMOD i.word / 4 % 2 = 1))
          | some d => t.peerLoad i l d (tg l).addr n (decide (insMOD i.word / 4 % 2 = 1)) (hint != 1))
        ((s.cntTile i.t 0x100 1).updGroup i.t i.key fun g =>
          g.advance i.pc (i.lanes.filter fun l => s.laneFree i false l (tg l))))) ∧
    (Issues s site (insWord 5 1 low) (storeShape (insWord 5 1 low) 2 24) i → ∀ tg : Nat → Target,
      (∀ l ∈ i.lanes, s.laneTarget i n true true (hint != 1) l = .ok (tg l)) → s.laneFree i true site.lane.val (tg site.lane.val) = true →
      exec (.stg site low) s = .next ((i.lanes.filter fun l => s.laneFree i true l (tg l)).foldl
        (fun t l => match (tg l).peer with
          | none => t.storeLine i site l (tg l).addr n (prevails i l n) hint
          | some d =>
            if d % 256 = 0xFF then t.bcastStore i site.tile d (tg l).addr n (prevails i l n)
            else t.peerSend i d 1 (tg l).addr 0 0 (natToBytes n (prevails i l n)) (hint != 1)
              (t.peerAccess i d (tg l).addr 0 0 false [l] (hint != 1) false) [l])
        ((s.cntTile i.t 0x100 1).updGroup i.t i.key fun g =>
          g.advance i.pc (i.lanes.filter fun l => s.laneFree i true l (tg l)))))

/-- A request on a line waits at an injection port or travels to its home slice. -/
def OnItsWay (s : State) (l : Nat) (r : Request) : Prop :=
  (∃ x ∈ s.qos.inject, x.line.toNat = l ∧ x.req = r) ∨ ∃ n h, NetMsg.request n ⟨r, h⟩ ∈ s.sole.net ∧ n.toNat = l

/-- An issuing group's request on a line waits at its tile's injection port, in the group's class; one that is on its way
already is not sent twice. -/
def Sends (s t : State) (i : Issue) (l : Nat) (r : Request) : Prop :=
  (OnItsWay s l r → t.qos.inject = s.qos.inject) ∧
    (¬ OnItsWay s l r → t.qos.inject = s.qos.inject ++ [⟨i.t, i.grp.cls, r.charge, BitVec.ofNat 32 l, r⟩])

/-- One thread's access to this device's memory, on a tile without a flipped bit. A load that hits the L1 changes only the
thread's destination registers and the hit counter; a load that misses is recorded, its registers await the result, and the
bytes are asked of the line's home slice; with hint 0b10 they are asked for without caching. A store into a line that the L1
owns changes only that line's bytes and its dirty mask; one into another line waits for ownership, which the first such store
asks for; with hint 0b10 it goes to the home slice and awaits an acknowledgement. -/
def DeviceAccessOfAThread : Prop :=
  ∀ (s : State) (i : Issue) (site : Site) (l a size v : Nat) (sx : Bool) (pl : Place) (g : Group),
    s.plan.place i.job.image a = some pl → pl.line < 2 ^ 32 → smFind (s.tile i.t).groups i.key = some g →
    (s.tile i.t).flips = [] →
    let c := smGet (⟨0, 0, 0, false, ⟨0, 0, false, 0, 0⟩⟩ : L1Line) (s.tile i.t).l1 pl.line
    let mask := byteRange (pl.o % 256) size
    let regs := (upTo (memRegs size)).map (insRD i.word + ·)
    let sender : Sender := .thread { site with lane := Fin.ofNat 32 l }
    (∀ hint, hint ≠ 2 → mask &&& ~~~c.valid = 0 → ∃ t, s.loadLine i site l a size hint sx = t ∧ t = { s with tiles := t.tiles } ∧
      (∀ k, k ≠ i.t → t.tile k = s.tile k) ∧
      t.tile i.t = { s.tile i.t with
        groups := smPut (s.tile i.t).groups i.key (g.landLoad l (insRD i.word) size (lineField c.data (pl.o % 256) size) sx)
        counters := (s.tile i.t).counters.add 0x130 1 }) ∧
    (∀ hint, hint ≠ 2 → mask &&& ~~~c.valid ≠ 0 → ∃ t, s.loadLine i site l a size hint sx = t ∧
      t = { s with tiles := t.tiles, sole.net := t.sole.net, qos.inject := t.qos.inject } ∧ (∀ k, k ≠ i.t → t.tile k = s.tile k) ∧
      t.tile i.t = { s.tile i.t with
        groups := smPut (s.tile i.t).groups i.key (g.claim [l] regs), counters := (s.tile i.t).counters.add 0x138 1
        loads := (s.tile i.t).loads ++ [⟨i.key, l, insRD i.word, BitVec.ofNat 32 pl.line, pl.o % 256, size, sx, false⟩] } ∧
      (∃ need, OnItsWay t pl.line (.gets site.tile need) ∧ mask &&& ~~~need = 0) ∧
      ((∀ need, ¬ OnItsWay s pl.line (.gets site.tile need)) → t.sole.net = s.sole.net ∧
        Sends s t i pl.line (.gets site.tile mask))) ∧
    (∃ t, s.loadLine i site l a size 2 sx = t ∧ t = { s with tiles := t.tiles, qos.inject := t.qos.inject } ∧
      (∀ k, k ≠ i.t → t.tile k = s.tile k) ∧
      t.tile i.t = { s.tile i.t with
        groups := smPut (s.tile i.t).groups i.key (g.claim [l] regs)
        loads := (s.tile i.t).loads ++ [⟨i.key, l, insRD i.word, BitVec.ofNat 32 pl.line, pl.o % 256, size, sx, true⟩] } ∧
      Sends s t i pl.line (.ncrd sender mask)) ∧
    (∀ hint, hint ≠ 2 → c.owned = true → ∃ t x, s.storeLine i site l a size v hint = t ∧ t = { s with tiles := t.tiles } ∧
      (∀ k, k ≠ i.t → t.tile k = s.tile k) ∧
      t.tile i.t = { s.tile i.t with l1 := smPut (s.tile i.t).l1 pl.line x, counters := (s.tile i.t).counters.add 0x130 1 } ∧
      x = ⟨byteMerge c.data (lineOf (pl.o % 256) size v) mask, c.valid ||| mask, c.dirty ||| mask, true, c.hdr⟩) ∧
    (∀ hint, hint ≠ 2 → c.owned = false → ∃ t, s.storeLine i site l a size v hint = t ∧
      t = { s with tiles := t.tiles, qos.inject := t.qos.inject } ∧ (∀ k, k ≠ i.t → t.tile k = s.tile k) ∧
      t.tile i.t = { s.tile i.t with
        counters := (s.tile i.t).counters.add 0x138 1
        stores := (s.tile i.t).stores ++
          [⟨i.key, i.grp.id, l, BitVec.ofNat 32 pl.line, lineOf (pl.o % 256) size v, mask⟩] } ∧
      ((∃ q ∈ (s.tile i.t).stores, q.line.toNat = pl.line) → t.qos.inject = s.qos.inject) ∧
      ((∀ q ∈ (s.tile i.t).stores, q.line.toNat ≠ pl.line) → Sends s t i pl.line (.getm site.tile))) ∧
    (∃ t, s.storeLine i site l a size v 2 = t ∧ t = { s with tiles := t.tiles, qos.inject := t.qos.inject } ∧
      (∀ k, k ≠ i.t → t.tile k = s.tile k) ∧
      t.tile i.t = { s.tile i.t with
        groups := smPut (s.tile i.t).groups i.key { g with acks := smSet 0 g.acks l (smGet 0 g.acks l + 1) } } ∧
      Sends s t i pl.line (.ncwr sender (lineOf (pl.o % 256) size v) mask))

end Sys2Proof.Machine

/-- DeviceAccessByThread and DeviceAccessOfAThread, together. Readings of the model's own in it: log entries 24, 25, 39, 40,
41, 43, 171, 177, 189. -/
def Obligations.DeviceAccesses : Prop := DeviceAccessByThread ∧ DeviceAccessOfAThread

namespace Sys2Proof.Machine

/-- A device access of a thread outside the job's footprint or misaligned (0x26), a write into a pool (0x30), and a peer
access without an assigned fabric ID (0x37) are job-fatal faults of LDG and STG, with the lowest such thread's code, and no
thread's access takes effect. -/
def DeviceAccessFault : Prop :=
  ∀ (site : Site) (low : BitVec 52) (s : State) (i : Issue) (l : Nat) (e : Wrong),
    let n := memSize (insMOD i.word)
    let info := fun (e : Wrong) => if 0x33 ≤ e.code then natToBytes 2 e.dest else natToBytes 8 i.word ++ natToBytes 4 e.addr
    l ∈ i.lanes →
    (Issues s site (insWord 5 0 low) (loadShape (insWord 5 0 low) 2 24) i →
      s.laneTarget i n false false (insMOD i.word / 8 != 1) l = .error e →
      (∀ k ∈ i.lanes, k < l → ∃ g, s.laneTarget i n false false (insMOD i.word / 8 != 1) k = .ok g) →
      ∃ t, exec (.ldg site low) s = .next t ∧ FaultEnds s t i e.code (info e)) ∧
    (Issues s site (insWord 5 1 low) (storeShape (insWord 5 1 low) 2 24) i →
      s.laneTarget i n true true (insMOD i.word / 8 != 1) l = .error e →
      (∀ k ∈ i.lanes, k < l → ∃ g, s.laneTarget i n true true (insMOD i.word / 8 != 1) k = .ok g) →
      ∃ t, exec (.stg site low) s = .next t ∧ FaultEnds s t i e.code (info e))

end Sys2Proof.Machine

/-- LocalAccessFault and DeviceAccessFault, together. Readings of the model's own in it: log entries 24, 25, 26. -/
def Obligations.AccessFaults : Prop := LocalAccessFault ∧ DeviceAccessFault

/-! ## Atomics -/

namespace Sys2Proof.Machine

/-- The atomic instructions (R142). -/
noncomputable def atomicRows : List (AtomicOp × (Site → BitVec 52 → Instr)) :=
  [(.aadd, .aadd), (.amin, .amin), (.amax, .amax), (.aminu, .aminu), (.amaxu, .amaxu), (.aand, .aand), (.aor, .aor),
   (.axor, .axor), (.afadd, .afadd), (.awadd, .awadd), (.acas, .acas), (.aexch, .aexch)]

/-- The value at an address after the operations of some threads on it, one after the other (R143). -/
def atomFold (i : Issue) (op : AtomicOp) (fmt : Nat) (ls : List Nat) (v : Nat) : Nat :=
  ls.foldl (fun v l => (atomStep op fmt v (i.atomOperand op l)).1 % 256 ^ redSize op fmt) v

/-- A lane's local atomic need not wait (R105, R142). -/
def atomReady (s : State) (i : Issue) (op : AtomicOp) (l : Nat) : Bool :=
  localReady s i (redSize op (atomFmt op (insMOD i.word))) l &&
    (insMOD i.word / 4 % 2 == 0 || s.fenceDone i.t i.key i.grp 2 l)

end Sys2Proof.Machine

/-- Every atomic completes on the local store: the threads of the set apply their operands in ascending order, each gets the
old value it met, memory outside the operands keeps its value, and the exceptions go to CSTAT. Readings of the model's own in
it: log entries 24, 25, 38, 168, 170. -/
def Obligations.LocalAtomics : Prop :=
  ∀ e ∈ atomicRows, ∀ (site : Site) (low : BitVec 52) (s : State) (i : Issue),
    let w := insWord 6 (atomCode e.1) low
    let fmt := atomFmt e.1 (insMOD w)
    let n := redSize e.1 fmt
    let ls := i.lanes.filter (atomReady s i e.1)
    let m0 := (s.tile i.t).share
    let before := fun l => atomFold i e.1 fmt (ls.filter fun k => k < l && i.localAddr k == i.localAddr l)
      (m0.readNat (i.localAddr l) n)
    Issues s site w (atomShape e.1 w) i → insMOD w % 2 = 0 →
    (∀ l ∈ i.lanes, i.localAddr l % n = 0 ∧ i.localAddr l + n ≤ i.job.image.share) → atomReady s i e.1 site.lane.val = true →
    ∃ t g m busy, exec (e.2 site low) s = .next t ∧ t = { s with tiles := t.tiles } ∧ (∀ k, k ≠ i.t → t.tile k = s.tile k) ∧
      t.tile i.t = { s.tile i.t with
        groups := smPut (s.tile i.t).groups i.key g, share := m
        counters := ((s.tile i.t).counters.add 0x100 1).add 0x140 busy } ∧
      MovesTo i g (fun l => if atomReady s i e.1 l then (i.pc + 8) % 2 ^ 32 else i.grp.pcOf l) ∧
      (∀ l r, l < 32 → g.reg l r =
        if l ∈ ls ∧ insRD w ≤ r ∧ r < insRD w + (if e.1 = .awadd then 4 else 1) then
          BitVec.ofNat 32 (before l / 2 ^ (32 * (r - insRD w)))
        else i.grp.reg l r) ∧
      (∀ k, g.cstat.getLsbD k =
        (i.grp.cstat.getLsbD k || ls.any fun l => (atomStep e.1 fmt (before l) (i.atomOperand e.1 l)).2.getLsbD k)) ∧
      { g.bare with cstat := 0 } = { i.grp.bare with cstat := 0 } ∧
      (∀ l ∈ ls, m.readNat (i.localAddr l) n =
        atomFold i e.1 fmt (ls.filter fun k => i.localAddr k == i.localAddr l) (m0.readNat (i.localAddr l) n)) ∧
      (∀ a, (∀ l ∈ ls, a < i.localAddr l ∨ i.localAddr l + n ≤ a) → m.read a = m0.read a)

namespace Sys2Proof.Machine

/-- Every atomic completes on this device's memory: the threads that name one address go to its home slice as one request,
in ascending order, which waits at the tile's injection port in the group's class, each thread awaiting its old value and an
acknowledgement (R143). -/
def DeviceAtomics : Prop :=
  ∀ e ∈ atomicRows, ∀ (site : Site) (low : BitVec 52) (s : State) (i : Issue) (a : Nat) (pl : Place),
    let w := insWord 6 (atomCode e.1) low
    let fmt := atomFmt e.1 (insMOD w)
    Issues s site w (atomShape e.1 w) i → insMOD w % 2 = 1 → s.plan.place i.job.image a = some pl →
    (∀ l ∈ i.lanes, s.laneTarget i (redSize e.1 fmt) true false true l = .ok ⟨none, a⟩) →
    (∀ l ∈ i.lanes, (s.laneFree i true l ⟨none, a⟩ && (insMOD w / 4 % 2 == 0 || s.fenceDone i.t i.key i.grp 4 l)) = true) →
    ∃ t g r, exec (e.2 site low) s = .next t ∧ t = { s with tiles := t.tiles, sole := t.sole, qos.inject := t.qos.inject } ∧
      (∀ k, k ≠ i.t → t.tile k = s.tile k) ∧
      t.tile i.t = { s.tile i.t with
        groups := smPut (s.tile i.t).groups i.key g, counters := (s.tile i.t).counters.add 0x100 1 } ∧
      Passes i g ∧ (∀ l q, g.reg l q = i.grp.reg l q) ∧
      g.busy = i.grp.busy ++ (i.lanes.map fun l => (upTo (if e.1 = .awadd then 4 else 1)).map fun k => 32 * (insRD w + k) + l).flatten ∧
      (∀ l ∈ i.lanes, smGet 0 g.acks l = smGet 0 i.grp.acks l + 1) ∧
      r.op = e.1 ∧ r.fmt = BitVec.ofNat 4 fmt ∧ r.tag = s.sole.nextTag ∧
      r.operands = (i.lanes.map fun l =>
        (⟨Fin.ofNat 32 l, Fin.ofNat 256 (pl.o % 256), BitVec.ofNat 128 (i.atomOperand e.1 l)⟩ : RedOperand)) ∧
      t.qos.inject = s.qos.inject ++ [⟨i.t, i.grp.cls, (Request.red r).charge, BitVec.ofNat 32 pl.line, .red r⟩] ∧
      t.sole = { s.sole with
        nextTag := s.sole.nextTag + 1
        atomics := s.sole.atomics ++ [⟨s.sole.nextTag, i.t, i.key, i.grp.id, insRD w, if e.1 = .awadd then 4 else 1, i.lanes,
          decide (insMOD w / 2 % 2 = 1)⟩] }

/-- DEVICE_ATOMIC_REPLY: the old values reach the threads' registers, which no longer await them, and the acknowledgements
they awaited fall by one; the exceptions go to the group's CSTAT; the request is complete at its master (R307). -/
def DeviceAtomicReplies : Prop :=
  ∀ (s : State) (tag : Nat) (q : RedReply) (d : DeviceAtomic) (g : Group),
    let x := q.exc
    let olds := q.olds
    s.sole.replies.find? (fun r => r.tag == tag) = some q → s.sole.atomics.find? (fun a => a.tag == tag) = some d →
    smFind (s.tile d.tile).groups d.slot = some g → g.id = d.group → (d.words = 1 ∨ d.words = 4) →
    (∀ o ∈ olds, o.1 < 32) → (olds.map Prod.fst).Nodup →
    ∃ t h, exec (.deviceAtomicReply tag) s = .next t ∧
      t = { s with tiles := t.tiles, sole := t.sole, qos := (s.replied q.hdr).qos } ∧
      t.sole = { s.sole with
        replies := s.sole.replies.filter (fun r => r.tag != tag), atomics := s.sole.atomics.filter (fun a => a.tag != tag) } ∧
      (∀ k, k ≠ d.tile → t.tile k = s.tile k) ∧
      t.tile d.tile = { s.tile d.tile with groups := smPut (s.tile d.tile).groups d.slot h } ∧
      h.cstat = g.cstat ||| x ∧ h.pc = g.pc ∧
      (∀ o ∈ olds, (∀ k < d.words, h.reg o.1 (d.rd + k) = BitVec.ofNat 32 (o.2.toNat / 2 ^ (32 * k)) ∧ h.isBusy o.1 (d.rd + k) = false) ∧
        smGet 0 h.acks o.1 = smGet 0 g.acks o.1 - 1) ∧
      (∀ l r, l < 32 → (l ∉ olds.map Prod.fst ∨ r < d.rd ∨ d.rd + d.words ≤ r) → h.reg l r = g.reg l r)

end Sys2Proof.Machine

/-- DeviceAtomics and DeviceAtomicReplies, together. Readings of the model's own in it: log entries 24, 25, 38, 42, 177. -/
def Obligations.DeviceAtomicsAndReplies : Prop := DeviceAtomics ∧ DeviceAtomicReplies

/-! ## The cube array -/

namespace Sys2Proof.Machine

/-- The descriptor that an ENGINE instruction names, in the tile's share (R76). -/
def aodAddr (i : Issue) : Nat := toBits 32 ((i.scalar (insRA i.word)).toNat + signed 16 (insOFF i.word))

def aodAt (s : State) (i : Issue) : BitVec 640 := BitVec.ofNat 640 ((s.tile i.t).share.readNat (aodAddr i) 80)

end Sys2Proof.Machine

/-- MMA, EWMUL and EWADD: a descriptor that is aligned, in the share, of that operation, and passes the field and range
checks is accepted while the queue has room, the group has fewer than 32 operations outstanding and none of its vector writes
overlaps the descriptor: it enters the queue as read, the group's outstanding operations rise by one and the threads move
past the instruction. A misplaced descriptor or an operand outside the share is the fault 0x21, a bad field or a reserved
operation 0x20; while the instruction must wait nothing changes. Readings of the model's own in it: log entries 24, 25, 26,
35. -/
def Obligations.ArrayOperationAccepted : Prop :=
  ∀ e ∈ [((0 : Nat), Instr.mma), (1, Instr.ewmul), (2, Instr.ewadd)],
    ∀ (site : Site) (low : BitVec 52) (s : State) (i : Issue),
    let w := insWord 9 0 low
    let a := aodAddr i
    let o := Aod.decode (aodAt s i)
    Issues s site w ⟨0, 1, 0, 0, true, false, insMOD w == 0, 0, true, false⟩ i →
    let waits := 32 ≤ (s.tile i.t).arrayQueue.length ∨ 32 ≤ i.grp.aout ∨
      (s.tile i.t).vecOverlap i.job.image i.key (aodAddr i) 80 = true
    (waits → exec (e.2 site low) s = .next s) ∧
    (¬ waits →
      ((a % 16 ≠ 0 ∨ i.job.image.share < a + 80) →
        ∃ t, exec (e.2 site low) s = .next t ∧ FaultEnds s t i 0x21 (natToBytes 8 w ++ natToBytes 4 a)) ∧
      (a % 16 = 0 → a + 80 ≤ i.job.image.share → (o.opc = e.1 ∨ 2 < o.opc) → o.fieldsOk = false →
        ∃ t, exec (e.2 site low) s = .next t ∧ FaultEnds s t i 0x20 (natToBytes 8 w ++ natToBytes 4 a)) ∧
      (a % 16 = 0 → a + 80 ≤ i.job.image.share → o.opc = e.1 → o.fieldsOk = true → o.rangesOk i.job.image.share = false →
        ∃ t, exec (e.2 site low) s = .next t ∧ FaultEnds s t i 0x21 (natToBytes 8 w ++ natToBytes 4 a)) ∧
      (a % 16 = 0 → a + 80 ≤ i.job.image.share → o.opc = e.1 → o.fieldsOk = true → o.rangesOk i.job.image.share = true →
        ∃ t g, exec (e.2 site low) s = .next t ∧ t = { s with tiles := t.tiles } ∧ (∀ k, k ≠ i.t → t.tile k = s.tile k) ∧
          t.tile i.t = { s.tile i.t with
            groups := smPut (s.tile i.t).groups i.key g, counters := (s.tile i.t).counters.add 0x100 1
            arrayQueue := (s.tile i.t).arrayQueue ++ [⟨i.key, i.grp.id, aodAt s i, BitVec.ofNat 64 w, BitVec.ofNat 32 i.pc,
              laneMask i.lanes, i.grp.vout, a⟩] } ∧
          Passes i g ∧ (∀ l r, g.reg l r = i.grp.reg l r) ∧ g.aout = i.grp.aout + 1 ∧
          { g.bare with aout := 0 } = { i.grp.bare with aout := 0 }))

namespace Sys2Proof.Machine

/-- The head of a tile's array queue may run: its job is present, no interlock holds it (R82, R105), and no word of the tile
holds an error (R96). -/
def ArrayRuns (s : State) (tile : Nat) (j : Nat) (op : ArrayOp) (rest : List ArrayOp) : Prop :=
  (s.tile tile).arrayQueue = op :: rest ∧ s.tileJob tile = some j ∧ s.present j = true ∧ (s.tile tile).arrayHeld op = false ∧
    (s.tile tile).flips = []

/-- ARRAY_EXECUTE of a product that holds its face: each accumulator becomes its starting value plus the products of its row
of A and its row of B at the pass anchor; the group holds the face; the share does not change. For a group that has ended the
face stays free (R73). -/
def ArrayProductHeld : Prop :=
  ∀ (s : State) (tile : Fin 416) (j : Nat) (op : ArrayOp) (rest : List ArrayOp),
    let x := s.tile tile.val
    let o := Aod.decode op.aod
    let f := x.face o.face
    ArrayRuns s tile.val j op rest → f.refuses o op.slot op.group = false → o.opc = 0 → o.stat = 0 → o.hold = true → o.n ≤ 64 →
    (x.owns op.slot op.group = false → exec (.arrayExecute tile) s = .next (s.setTile tile.val { (x.setFace o.face Face.free) with
      arrayQueue := rest, arrayDone := x.arrayDone ++ [⟨op.slot, op.group, [], 0, 0, 0⟩] })) ∧
    (x.owns op.slot op.group = true → ∃ t h, exec (.arrayExecute tile) s = .next t ∧ t = { s with tiles := t.tiles } ∧ (∀ k, k ≠ tile.val → t.tile k = s.tile k) ∧
      t.tile tile.val = { (x.setFace o.face h) with arrayQueue := rest, arrayDone := x.arrayDone ++ [⟨op.slot, op.group, [], 0, 0, 0⟩] } ∧
      h.held = true ∧ h.owner = op.group ∧ h.ownerSlot = op.slot ∧
      h.anchor = (o.startFace x.share f (o.anchorSel x.share (upTo o.m) (upTo o.n))).1 ∧
      ∀ p q, p < o.m → q < o.n →
        h.get p q = wideSum (smGet Wide.zero (o.startFace x.share f (o.anchorSel x.share (upTo o.m) (upTo o.n))).2 (64 * p + q))
          (dotProducts h.anchor (o.aRow x.share p) (o.bRow x.share q)))

/-- ARRAY_EXECUTE of an operation that drains: the results, through the converter, await their visibility; until then the
share does not change, and the face it used is free. A face that another group holds, or KEEP of a face the group does not
hold, is the fault 0x22. -/
def ArrayOperationDrains : Prop :=
  ∀ (s : State) (tile : Fin 416) (j : Nat) (op : ArrayOp) (rest : List ArrayOp) (d : Drain),
    let x := s.tile tile.val
    let o := Aod.decode op.aod
    let f := x.face o.face
    ArrayRuns s tile.val j op rest →
    (f.refuses o op.slot op.group = false → o.hold = false →
      o.drainRows x.share tile.val 0 (o.results x.share
        (if o.elementwise || o.stat != 0 then (0, []) else o.runFace x.share f)) ⟨x.rng, 0, 0, 0, []⟩ = some d →
      ∃ t, exec (.arrayExecute tile) s = .next t ∧ t = { s with tiles := t.tiles } ∧ (∀ k, k ≠ tile.val → t.tile k = s.tile k) ∧
        t.tile tile.val = { (if o.elementwise then x else x.setFace o.face Face.free) with
          arrayQueue := rest, arrayDone := x.arrayDone ++ [⟨op.slot, op.group, d.writes, d.flags, d.exc, 0⟩], rng := d.rng
          rngCounters := x.rngCounters.add 0x100 d.taken }) ∧
    (f.refuses o op.slot op.group = true → ∃ t v, exec (.arrayExecute tile) s = .next t ∧ t.job j = some v ∧
      (∃ e, v.ended = some e ∧ e.status = 3 ∧ e.detail = 0x22) ∧ (t.tile tile.val).share = x.share)

/-- ARRAY_OP_COMPLETE: the oldest operation's results become visible in the share, its flags are ORed into AFLAGS and its
exceptions into CSTAT of its group, and the group's outstanding operations fall by one; a word written holds no error. -/
def ArrayResultsVisible : Prop :=
  ∀ (s : State) (tile : Fin 416) (j : Nat) (e : ArrayDone) (rest : List ArrayDone) (g : Group),
    let x := s.tile tile.val
    x.arrayDone = e :: rest → s.tileJob tile.val = some j → s.present j = true → smFind x.groups e.slot = some g →
    g.id = e.group →
    ∃ t h m, exec (.arrayOpComplete tile) s = .next t ∧ t = { s with tiles := t.tiles } ∧
      (∀ k, k ≠ tile.val → t.tile k = s.tile k) ∧
      t.tile tile.val = { x with
        arrayDone := rest, share := m, counters := x.counters.add 0x120 1, groups := smPut x.groups e.slot h
        flips := x.flips.filter fun f => !e.writes.any fun w => inShare w.1 1 f.1 } ∧
      h = { g with cstat := g.cstat ||| e.exceptions, aflags := g.aflags ||| e.flags, aout := g.aout - 1 } ∧
      (∀ a, (∀ p ∈ e.writes, p.1 ≠ a) → m.read a = x.share.read a) ∧
      (∀ (k : Nat) (p : Nat × Byte), e.writes[k]? = some p →
        (∀ (n : Nat) (q : Nat × Byte), k < n → e.writes[n]? = some q → q.1 ≠ p.1) → m.read p.1 = p.2)

end Sys2Proof.Machine

/-- ArrayProductHeld and ArrayOperationDrains and ArrayResultsVisible, together. Readings of the model's own in it: log
entries 4, 22, 29, 35, 157, 158, 170. -/
def Obligations.ArrayOperationRuns : Prop := ArrayProductHeld ∧ ArrayOperationDrains ∧ ArrayResultsVisible

/-! ## The vector engine -/

namespace Sys2Proof.Machine

/-- The vector instructions and their VOPs (R109). -/
noncomputable def vectorOps : List (Nat × (Site → BitVec 50 → Instr)) :=
  [(0x00, .vsetvl), (0x01, .vadd), (0x02, .vsub), (0x03, .vmul), (0x04, .vfma), (0x05, .vmin), (0x06, .vmax), (0x07, .vabs),
   (0x08, .vneg), (0x09, .vand), (0x0A, .vor), (0x0B, .vxor), (0x0C, .vshl), (0x0D, .vshr), (0x0E, .vcmpeq), (0x0F, .vcmplt),
   (0x10, .vcmple), (0x11, .vcmpgt), (0x12, .vsel), (0x13, .vexp2), (0x14, .vrcp), (0x15, .vrsqrt), (0x20, .vcvt), (0x21, .vld),
   (0x22, .vst), (0x23, .vlds), (0x24, .vsts), (0x25, .vgather), (0x26, .vscatter), (0x30, .vscani), (0x31, .vscanx),
   (0x32, .vred), (0x33, .vcompress), (0x34, .vsum), (0x38, .vwscani), (0x39, .vwscanx), (0x3A, .vwred), (0x3B, .vwadd),
   (0x3C, .vwrealign)]

/-- An engine instruction enters the vector queue, with the lowest thread's four registers from `first` on. -/
def EntersVecQueue (s t : State) (i : Issue) (w first : Nat) (g : Group) : Prop :=
  t = { s with tiles := t.tiles } ∧ (∀ k, k ≠ i.t → t.tile k = s.tile k) ∧
    t.tile i.t = { s.tile i.t with
      groups := smPut (s.tile i.t).groups i.key g, counters := (s.tile i.t).counters.add 0x100 1
      vecQueue := (s.tile i.t).vecQueue ++ [⟨i.key, i.grp.id, BitVec.ofNat 64 w,
        [i.scalar first, i.scalar (first + 1), i.scalar (first + 2), i.scalar (first + 3)], BitVec.ofNat 32 i.pc,
        laneMask i.lanes⟩] } ∧
    Passes i g ∧ (∀ l r, g.reg l r = i.grp.reg l r) ∧ g.vout = i.grp.vout + 1

end Sys2Proof.Machine

/-- Every vector instruction, and RNGV, that is well formed for the kernel is accepted while the queue has room and no word
of the tile holds an error: it enters the queue in program order and the threads move past it; VSETVL's XS awaits its result.
A bad field is the fault 0x23 (0x29 for RNGV), and with the queue full nothing changes. Readings of the model's own in it:
log entries 24, 25, 26, 27. -/
def Obligations.VectorInstructionAccepted : Prop :=
  (∀ e ∈ vectorOps, ∀ (site : Site) (low : BitVec 50) (s : State) (i : Issue) (h : VShape),
    let w := 0x10 * 2 ^ 58 + e.1 * 2 ^ 50 + low.toNat
    vShape e.1 w = some h →
    s.issueAt site.tile.val site.tgp.val site.slot.val site.lane.val w (h.regs w) = some i → i.job.pcOk i.pc = true →
    (h.ok w i.job.image.nV = false → ∃ t, exec (e.2 site low) s = .next t ∧ FaultEnds s t i 0x23 (natToBytes 8 w ++ natToBytes 4 0)) ∧
    (h.ok w i.job.image.nV = true → (∀ r ∈ h.regs w, r < i.job.image.nR) → (s.tile i.t).flips = [] →
      (32 ≤ (s.tile i.t).vecQueue.length → exec (e.2 site low) s = .next s) ∧
      ((s.tile i.t).vecQueue.length < 32 → ∃ t g, exec (e.2 site low) s = .next t ∧ EntersVecQueue s t i w (vfXs w) g ∧
        g.busy = i.grp.busy ++ (if e.1 = 0 then i.lanes.map fun l => 32 * vfXs w + l else [])))) ∧
  (∀ (site : Site) (low : BitVec 52) (s : State) (i : Issue),
    let w := insWord 0x0B 0 low
    let x := rngXS w
    s.issueAt site.tile.val site.tgp.val site.slot.val site.lane.val w [x, x + 1, x + 2, x + 3] = some i → i.job.pcOk i.pc = true →
    ((w % 2 ^ 40 ≠ 0 ∨ i.job.image.nV ≤ rngVD w ∨ 127 < x + 3) →
      ∃ t, exec (.rngv site low) s = .next t ∧ FaultEnds s t i 0x29 (natToBytes 8 w ++ natToBytes 4 0)) ∧
    (w % 2 ^ 40 = 0 → rngVD w < i.job.image.nV → x + 3 ≤ 127 → x + 3 < i.job.image.nR →
      ((s.tile i.t).rng.lane = true ∨ i.scalar (x + 3) ≠ 0xFFFFFFFF) → (s.tile i.t).vecQueue.length < 32 → (s.tile i.t).flips = [] →
      ∃ t g, exec (.rngv site low) s = .next t ∧ EntersVecQueue s t i w x g))

namespace Sys2Proof.Machine

/-- What the engine starts an instruction with: the tile's share and the values forwarded from the instruction before. -/
def engineStart (s : State) (tile : Nat) (im : Image) (op : VecOp) (g : Group) : VRun :=
  ⟨tile, (s.tile tile).share, im.share, im.lsBase (op.slot / 16) (op.slot % 16), g.engVl, g.engVacc, g.engVaccTag, (s.tile tile).rng, 0,
    none, false, none, 0, 0⟩

/-- VECTOR_EXECUTE, on a tile without a flipped bit: the instruction at the head of the queue runs on the engine's values, also
for a group that has ended meanwhile; its destination registers are in the share, its draws taken, and VL, SSUM, VACC and its
exceptions await their visibility. A fault of the run ends the job with the fault's code and leaves the share as it was. -/
def VectorInstructionRuns : Prop :=
  ∀ (s : State) (tile : Fin 416) (j : Nat) (v : Job) (op : VecOp) (rest : List VecOp) (g : Group),
    let x := s.tile tile.val
    let w := op.word.toNat
    let r := engineStart s tile.val v.image op g
    let out := if w / 2 ^ 58 = 0x0B then r.rngv w op.xs else r.run (vfVop w) w op.xs
    let his := fun (slot : Nat) (id : Word) => slot == op.slot && id == op.group
    x.vecQueue = op :: rest → s.tileJob tile.val = some j → s.job j = some v → v.ended = none → x.flips = [] →
    x.vecGroup op = some g →
    (∀ u, out = .ok u → ∃ t d, exec (.vectorExecute tile) s = .next t ∧ t = { s with tiles := t.tiles } ∧
      (∀ k, k ≠ tile.val → t.tile k = s.tile k) ∧
      t.tile tile.val = { x with
        share := u.share, rng := u.rng, rngCounters := x.rngCounters.add 0x108 u.taken
        counters := x.counters.add 0x128 (max 1 u.busy), vecQueue := rest, vecDone := x.vecDone ++ [d]
        groups := (t.tile tile.val).groups, leaving := (t.tile tile.val).leaving } ∧
      (let g1 := { g with engVl := u.vl, engVacc := u.vacc, engVaccTag := u.tag }
       (x.owns op.slot op.group = true →
          (t.tile tile.val).groups = smPut x.groups op.slot g1 ∧ (t.tile tile.val).leaving = x.leaving) ∧
       (x.owns op.slot op.group = false → (t.tile tile.val).groups = x.groups ∧
          (t.tile tile.val).leaving = if rest.any fun q => his q.slot q.group
            then x.leaving.map fun e => if his e.1 e.2.id then (e.1, g1) else e
            else x.leaving.filter fun e => !his e.1 e.2.id)) ∧
      d.slot = op.slot ∧ d.group = op.group ∧ d.vl = u.newVl ∧ d.ssum = u.ssum ∧
      d.vacc = (if u.wroteVacc then some (u.vacc, u.tag) else none) ∧
      (d.exc = none ∨ d.exc = some u.exc) ∧ (w / 2 ^ 58 = 0x10 → writesCstat w = true → d.exc = some u.exc)) ∧
    (∀ e, out = .error e → ∃ t u f, exec (.vectorExecute tile) s = .next t ∧ t.job j = some u ∧ u.ended = some f ∧
      f.status = 3 ∧ f.detail = BitVec.ofNat 8 e.1 ∧ (t.tile tile.val).share = x.share)

end Sys2Proof.Machine

/-- An element-wise instruction of one-, two- or four-byte elements puts the result of each element k below VL in element k
of VD and leaves every byte of the share outside those elements as it was. Readings of the model's own in it: log entries 33,
161, 162. -/
def Obligations.ElementWiseResults : Prop :=
  ∀ (r : VRun) (vop w : Nat) (xs : List Word),
    let f := vfFmt w
    let a := fun k => getElem r.share f (r.reg (vfVA w)) k
    let b := fun k => if vfBs w then (xs.headD 0).toNat % 2 ^ fmtBits f else getElem r.share f (r.reg (vfVB w)) k
    let c := fun k => getElem r.share f (r.reg (vfVC w)) k
    fmtBits f % 8 = 0 → 0 < fmtBits f → (1 ≤ vop ∧ vop ≤ 0x0D) →
    ∃ u, r.run vop w xs = .ok u ∧ u.vl = r.vl ∧ u.vacc = r.vacc ∧ u.ssum = r.ssum ∧ u.rng = r.rng ∧
      (∀ k < r.vl, getElem u.share f (r.reg (vfVD w)) k = (if vop ≤ 8 then
        (vArithOp vop f (vfRnd w) (a k) (if vop ≤ 6 then b k else a k) (if vop = 4 then c k else a k)).1
        else vBitOp vop f (a k) (b k)) % 2 ^ fmtBits f) ∧
      ∀ p, (p < r.reg (vfVD w) ∨ r.reg (vfVD w) + r.vl * (fmtBits f / 8) ≤ p) → u.share.read p = r.share.read p

namespace Sys2Proof.Machine

/-- VECTOR_RESULT_VISIBLE: the oldest instruction that has run becomes visible to its group: VL, SSUM and VACC where it wrote
them, its exceptions in CSTAT; the outstanding instructions fall by one, and array operations issued after it wait for one instruction fewer. -/
def VectorResultsVisible : Prop :=
  ∀ (s : State) (tile : Fin 416) (j : Nat) (d : VecDone) (rest : List VecDone) (g : Group),
    let x := s.tile tile.val
    x.vecDone = d :: rest → s.tileJob tile.val = some j → s.present j = true → smFind x.groups d.slot = some g → g.id = d.group →
    ∃ t h, exec (.vectorResultVisible tile) s = .next t ∧ t = { s with tiles := t.tiles } ∧
      (∀ k, k ≠ tile.val → t.tile k = s.tile k) ∧
      t.tile tile.val = { x with
        vecDone := rest, groups := smPut x.groups d.slot h
        arrayQueue := x.arrayQueue.map fun o =>
          if o.slot = d.slot ∧ o.group = d.group then { o with afterVec := o.afterVec - 1 } else o } ∧
      h.vout = g.vout - 1 ∧ h.vl = d.vl.getD g.vl ∧ h.ssum = d.ssum.getD g.ssum ∧ h.pc = g.pc ∧
      h.cstat = g.cstat ||| d.exc.getD 0 ∧
      (d.vacc = none → h.vacc = g.vacc ∧ h.vaccTag = g.vaccTag) ∧
      (∀ p, d.vacc = some p → h.vacc = p.1 ∧ h.vaccTag = p.2) ∧
      (d.xs = none → ∀ l r, h.reg l r = g.reg l r) ∧
      (∀ r m, d.xs = some (r, m) → ∀ l q, l < 32 →
        h.reg l q = if m.getLsbD l ∧ q = r then BitVec.ofNat 32 (d.vl.getD 0) else g.reg l q)

end Sys2Proof.Machine

/-- VectorInstructionRuns and VectorResultsVisible, together. Readings of the model's own in it: log entries 4, 27, 32, 33,
159, 160, 161, 170. -/
def Obligations.VectorRunsAndResults : Prop := VectorInstructionRuns ∧ VectorResultsVisible

/-! ## Every instruction of a thread-group processor -/

namespace Sys2Proof.Machine

/-- A named thread that is not runnable, whose group is halted, whose job does not run, or whose tile is not powered issues
nothing: the state does not change. -/
def NoIssueNoEffect : Prop :=
  (∀ e ∈ integerRows ++ [setRow], ∀ (site : Site) (low : BitVec 52) (s : State),
    s.issueAt site.tile.val site.tgp.val site.slot.val site.lane.val (insWord e.cls e.op low)
      ((e.shape (insWord e.cls e.op low)).regs (insWord e.cls e.op low)) = none → exec (e.instr site low) s = .next s) ∧
  (∀ e ∈ floatRows, ∀ (site : Site) (low : BitVec 52) (s : State),
    s.issueAt site.tile.val site.tgp.val site.slot.val site.lane.val (insWord 1 e.op low)
      ((e.shape (insWord 1 e.op low)).regs (insWord 1 e.op low)) = none → exec (e.instr site low) s = .next s) ∧
  (∀ e ∈ branchRows, ∀ (site : Site) (low : BitVec 52) (s : State),
    s.issueAt site.tile.val site.tgp.val site.slot.val site.lane.val (insWord 8 e.op low)
      ((e.shape (insWord 8 e.op low)).regs (insWord 8 e.op low)) = none → exec (e.instr site low) s = .next s) ∧
  (∀ e ∈ atomicRows, ∀ (site : Site) (low : BitVec 52) (s : State),
    s.issueAt site.tile.val site.tgp.val site.slot.val site.lane.val (insWord 6 (atomCode e.1) low)
      ((atomShape e.1 (insWord 6 (atomCode e.1) low)).regs (insWord 6 (atomCode e.1) low)) = none →
    exec (e.2 site low) s = .next s)

/-- An instruction that is not well formed for its operation, or that is fetched outside the code section, is the job-fatal
fault 0x25 (R129), and has no other effect. -/
def IllFormedInstructionFaults : Prop :=
  (∀ e ∈ integerRows ++ [setRow], ∀ (site : Site) (low : BitVec 52) (s : State) (i : Issue),
    let w := insWord e.cls e.op low
    s.issueAt site.tile.val site.tgp.val site.slot.val site.lane.val w ((e.shape w).regs w) = some i →
    (i.job.pcOk i.pc = false ∨ (e.shape w).ok w i.job.image.nR = false) →
    ∃ t, exec (e.instr site low) s = .next t ∧ FaultEnds s t i 0x25 (natToBytes 8 w ++ natToBytes 4 0)) ∧
  (∀ e ∈ floatRows, ∀ (site : Site) (low : BitVec 52) (s : State) (i : Issue),
    let w := insWord 1 e.op low
    s.issueAt site.tile.val site.tgp.val site.slot.val site.lane.val w ((e.shape w).regs w) = some i →
    (i.job.pcOk i.pc = false ∨ (e.shape w).ok w i.job.image.nR = false) →
    ∃ t, exec (e.instr site low) s = .next t ∧ FaultEnds s t i 0x25 (natToBytes 8 w ++ natToBytes 4 0)) ∧
  (∀ e ∈ branchRows, ∀ (site : Site) (low : BitVec 52) (s : State) (i : Issue),
    let w := insWord 8 e.op low
    s.issueAt site.tile.val site.tgp.val site.slot.val site.lane.val w ((e.shape w).regs w) = some i →
    (i.job.pcOk i.pc = false ∨ (e.shape w).ok w i.job.image.nR = false) →
    ∃ t, exec (e.instr site low) s = .next t ∧ FaultEnds s t i 0x25 (natToBytes 8 w ++ natToBytes 4 0)) ∧
  (∀ e ∈ atomicRows, ∀ (site : Site) (low : BitVec 52) (s : State) (i : Issue),
    let w := insWord 6 (atomCode e.1) low
    s.issueAt site.tile.val site.tgp.val site.slot.val site.lane.val w ((atomShape e.1 w).regs w) = some i →
    (i.job.pcOk i.pc = false ∨ (atomShape e.1 w).ok w i.job.image.nR = false) →
    ∃ t, exec (e.2 site low) s = .next t ∧ FaultEnds s t i 0x25 (natToBytes 8 w ++ natToBytes 4 0))

end Sys2Proof.Machine

/-- NoIssueNoEffect and IllFormedInstructionFaults, together. Readings of the model's own in it: log entries 4, 24, 25, 26.
-/
def Obligations.InstructionsNotIssued : Prop := NoIssueNoEffect ∧ IllFormedInstructionFaults

/-! ## Host access to registers -/

namespace Sys2Proof.Machine

/-- A host register write reaches its register, and is logged: the link is up, IDE is active where the policy requires it, and
the audit reserve is not in force (R319, R320, R496, R504). -/
def HostMayWrite (s : State) : Prop := s.linked = true ∧ s.ideBlocks = false ∧ s.unacked < 15360

/-- One audit entry is appended: at the head, the index rises by one, and every other entry stays (R501, R502). -/
def OneEntry (s t : State) (event job origin oid : Nat) (payload : List Byte) : Prop :=
  t.mram.auditHead = s.mram.auditHead + 1 ∧
    (∃ e, smFind t.mram.audit (s.mram.auditHead.toNat % 16384) = some e ∧ e.index = s.mram.auditHead ∧ e.aonCount = s.aon ∧
      e.event = BitVec.ofNat 16 event ∧ e.job = BitVec.ofNat 32 job ∧ e.origin = BitVec.ofNat 8 origin ∧
      e.originId = BitVec.ofNat 16 oid ∧ e.payload = BitVec.ofNat 512 (bytesToNat payload)) ∧
    ∀ k, k ≠ s.mram.auditHead.toNat % 16384 → smFind t.mram.audit k = smFind s.mram.audit k

/-- BAR0 registers that hold what is written to them: offset, writable bits, reset value. -/
def holdRegisters : List (Nat × Nat × Nat) :=
  [(0x50, 0xFFFFF000, 0), (0x54, 0xFFFFFFFF, 0), (0x58, 0xFFFFFFFF, 0), (0x74, 0xFFE00000, 0), (0x78, 0xFFFFFFFF, 0),
   (0x3000, 0xF, 0), (0x4020, 0x3F, 0), (0x4024, 0x7F, 0), (0x5020, 7, 0), (0x5024, 0x3F, 0), (0x6008, 0x1F, 0),
   (0x600C, 0xFFFF, 0x9C4), (0x6010, 0xFFFF, 0x40), (0x6014, 0x1FF, 0)]

/-- Registers of the indirect window that hold what is written to them: space, offset, writable bits, reset value. -/
def windowRegisters : List (Nat × Nat × Nat × Nat) :=
  [(1, 8, 0xFFFF, 8), (2, 4, 0xFFFF, 0x5A0), (2, 8, 0xFF, 4), (2, 0x18, 0x1F37, 0), (4, 8, 7, 3), (4, 0x80, 0x1FF, 0)]

end Sys2Proof.Machine

/-- REGISTER_WRITE and a write through the indirect window: a register that holds what is written keeps its writable bits and
reads them back, every other register stays, and one REG_WRITE entry is logged; a read-only register is logged and stays.
Under the audit reserve the write is refused and only counted; without the IDE that the policy requires, or with the link
down, nothing happens; a misaligned offset only counts in CXL_BAR0_BAD. Readings of the model's own in it: log entries 87,
88, 89, 91, 134. -/
def Obligations.HostRegisterWrites : Prop :=
  (∀ e ∈ holdRegisters, ∀ (v : Word) (s : State), HostMayWrite s → ∃ t, exec (.registerWrite (BitVec.ofNat 16 e.1) v) s = .next t ∧
    t = { s with regs := t.regs, mram.audit := t.mram.audit, mram.auditHead := t.mram.auditHead } ∧
    t.reg e.1 e.2.2 = (v &&& BitVec.ofNat 32 e.2.1).toNat ∧ (∀ d k, k ≠ e.1 → smGet d t.regs k = smGet d s.regs k) ∧
    OneEntry s t 1 0 0 0xFFFF (regWritePayload (e.1 / 0x1000) (e.1 % 0x1000) v.toNat (t.regValue (.bar0 e.1)))) ∧
  (∀ e ∈ windowRegisters, ∀ (v : Word) (s : State), HostMayWrite s → s.indTarget = .ind e.1 e.2.1 →
    ∃ t, exec (.indirectAccess (some v)) s = .next t ∧
      t = { s with regs := t.regs, mram.audit := t.mram.audit, mram.auditHead := t.mram.auditHead } ∧
      t.reg (indKey e.1 e.2.1) e.2.2.2 = (v &&& BitVec.ofNat 32 e.2.2.1).toNat ∧
      (∀ d k, k ≠ indKey e.1 e.2.1 → smGet d t.regs k = smGet d s.regs k) ∧
      OneEntry s t 1 0 0 0xFFFF (regWritePayload (0x100 + e.1) e.2.1 v.toNat (t.regValue (.ind e.1 e.2.1)))) ∧
  (∀ off ∈ [0x00, 0x04, 0x08, 0x0C, 0x10, 0x14, 0x18, 0x1C, 0x20, 0x24, 0x7C], ∀ (v : Word) (s : State), HostMayWrite s →
    ∃ t, exec (.registerWrite (BitVec.ofNat 16 off) v) s = .next t ∧
      t = { s with mram.audit := t.mram.audit, mram.auditHead := t.mram.auditHead } ∧
      OneEntry s t 1 0 0 0xFFFF (regWritePayload 0 off v.toNat (s.regValue (.bar0 off)))) ∧
  (∀ e ∈ holdRegisters, ∀ (v : Word) (s : State),
    (s.linked = true → s.ideBlocks = false → 15360 ≤ s.unacked →
      exec (.registerWrite (BitVec.ofNat 16 e.1) v) s = .next (s.cntSec 0x128 1)) ∧
    (s.linked = true → s.ideBlocks = true → exec (.registerWrite (BitVec.ofNat 16 e.1) v) s = .next s)) ∧
  (∀ (off : BitVec 16) (v : Word) (s : State), s.linked = false → exec (.registerWrite off v) s = .next s) ∧
  (∀ (off : BitVec 16) (v : Word) (s : State), s.linked = true → off.toNat % 4 ≠ 0 →
    exec (.registerWrite off v) s = .next { s with mgt.bar0Bad := BitVec.ofNat 32 (min (s.mgt.bar0Bad.toNat + 1) (2 ^ 32 - 1)) })

/-- RC_READ returns MGT_BAR2_DROPS, SOLE_SLICE_OUT_PEAK and QOS_M_LAT_MAX and clears them, and nothing else; a counter read
returns its low word and latches the high word, which the next read of the word above returns; a read through the indirect
window returns the register that the window names; BAR0_BAD_ACCESS counts, and a refused read returns all ones. Readings of
the model's own in it: log entries 14, 65, 86. -/
def Obligations.HostRegisterReads : Prop :=
  (∀ s : State, s.linked = true → exec (.rcRead (.bar0 0x7C)) s = .next { s with
    mgt.bar2Drops := 0, host.lastRead := natToBytes 4 s.mgt.bar2Drops.toNat }) ∧
  (∀ (s : State) (k : Nat), k < 8 → s.linked = true → ∃ t,
    exec (.rcRead (.ind 0 (BitVec.ofNat 20 (0x1000 * (k + 1) + 0x88)))) s = .next t ∧
    t = { s with sole.slices := t.sole.slices, host.lastRead := t.host.lastRead } ∧
    t.host.lastRead = natToBytes 4 (s.readInd 0 (0x1000 * (k + 1) + 0x88)) ∧
    (∀ n, t.slice n = if n = 64 * k + s.sliceSel k then { s.slice n with peak := 0 } else s.slice n)) ∧
  (∀ (s : State) (c : Nat), c < 4 → s.linked = true → s.masterSel < 508 → ∃ t,
    exec (.rcRead (.ind 4 (BitVec.ofNat 20 (0x500 + 4 * c)))) s = .next t ∧
    t = { s with qos.masters := t.qos.masters, host.lastRead := t.host.lastRead } ∧
    t.host.lastRead = natToBytes 4 (s.readInd 4 (0x500 + 4 * c)) ∧ smGet 0 (t.master s.masterSel).latMax (4 + c) = 0 ∧
    (∀ n, n ≠ s.masterSel → t.master n = s.master n)) ∧
  (∀ (s : State) (off : BitVec 16) (v : Nat), s.linked = true → off.toNat % 8 = 0 → regCounter s (.bar0 off.toNat) = some v →
    ∃ t, exec (.counterLatchRead (.bar0 off)) s = .next t ∧ t = { s with latches := t.latches, host.lastRead := t.host.lastRead } ∧
      t.host.lastRead = natToBytes 4 (v % 2 ^ 32) ∧ t.regValue (.bar0 (off.toNat + 4)) = v / 2 ^ 32 % 2 ^ 32) ∧
  (∀ (s : State) (space off : Nat), s.linked = true → s.indTarget = .ind space off → regCounter s (.ind space off) = none →
    s.regClear (.ind space off) = s →
    exec (.indirectAccess none) s = .next { s with host.lastRead := natToBytes 4 (s.regValue (.ind space off)) }) ∧
  (∀ (s : State) (write : Bool), s.linked = true → exec (.bar0BadAccess write) s = .next { s with
    mgt.bar0Bad := BitVec.ofNat 32 (min (s.mgt.bar0Bad.toNat + 1) (2 ^ 32 - 1))
    host.lastRead := if write then s.host.lastRead else List.replicate 4 0xFF })

namespace Sys2Proof.Machine

/-- The audit log's acknowledgement: the staged high word and the written low word give the index; an index between the
acknowledged one and the head becomes the acknowledged index, any other changes nothing but the log; the AUDIT_ACK entry is
appended in either case, even under the reserve, and a loss episode ends. -/
def AuditAcknowledgement : Prop :=
  (∀ (v : Word) (s : State), s.linked = true → exec (.auditAckHi v) s = .next { s with sec.ackHi := v }) ∧
  (∀ (v : Word) (s : State), s.linked = true → s.mram.auditAck.toNat ≤ s.mram.auditHead.toNat → s.mram.auditHead.toNat < 2 ^ 63 →
    s.unacked < 16384 →
    let n := s.sec.ackHi.toNat * 2 ^ 32 + v.toNat
    let after := if s.mram.auditAck.toNat ≤ n ∧ n ≤ s.mram.auditHead.toNat then n else s.mram.auditAck.toNat
    ∃ t, exec (.auditAck v) s = .next t ∧
      t = { s with mram.audit := t.mram.audit, mram.auditHead := t.mram.auditHead, mram.auditAck := t.mram.auditAck
                   sec.lossEpisode := t.sec.lossEpisode } ∧
      t.mram.auditAck.toNat = after ∧ OneEntry s t 0x18 0 0 0xFFFF (natToBytes 8 after) ∧
      (t.unacked < 16384 → t.sec.lossEpisode = false))

/-- The counter clears: TILE_CNT_CLEAR zeroes the counters of the selected tile, SOLE_CNT_CLEAR those of the selected slice or
of every slice of the stack; nothing else changes. -/
def CounterClears : Prop :=
  (∀ (v : Word) (s : State), s.linked = true → s.ideBlocks = false → v.getLsbD 0 = true → s.tileSel < 416 →
    ∃ t, exec (.tileCntClear v) s = .next t ∧ t = { s with tiles := t.tiles } ∧
      ∀ n, t.tile n = if n = s.tileSel then { s.tile n with counters := [] } else s.tile n) ∧
  (∀ (k : Fin 8) (s : State), s.linked = true → s.ideBlocks = false → ∃ t, exec (.soleCntClearSlice k) s = .next t ∧
    t = { s with sole.slices := t.sole.slices } ∧
    ∀ n, t.slice n = if n = 64 * k.val + s.sliceSel k.val then { s.slice n with counters := [] } else s.slice n) ∧
  (∀ (k : Fin 8) (s : State), s.linked = true → s.ideBlocks = false → ∃ t, exec (.soleCntClearStack k) s = .next t ∧
    t = { s with sole.slices := t.sole.slices } ∧
    ∀ n, t.slice n = if n / 64 = k.val then { s.slice n with counters := [] } else s.slice n)

end Sys2Proof.Machine

/-- AuditAcknowledgement and CounterClears, together. Readings of the model's own in it: log entries 4, 95, 134. -/
def Obligations.AcknowledgementAndClears : Prop := AuditAcknowledgement ∧ CounterClears

/-! ## Bandwidth regulation -/

/-- QOS_COMMIT: the staged limits and targets pend where no kind's limits exceed its ceiling; otherwise the first such kind
is shown as refused and what is pending stays. At the next window start the pending values are in force and every master's
charges are zero. A grant takes the oldest request for a line that waits at a master's injection port in a class, charges its
bytes to that class, marks its packet DEMOTED where the charge exceeds the limit, counts it as granted or demoted, and sends
the packet into the network under its header; with none waiting nothing changes. An arbitration point serves, of the packets
of its virtual network that wait at it, the one that the tiers and the protection rules choose, and remembers it. Readings of
the model's own in it: log entries 4, 66, 67, 177, 178, 179, 180. -/
def Obligations.BandwidthRegulation : Prop :=
  (∀ (v : Word) (s : State), HostMayWrite s → v.getLsbD 0 = true → ∃ t, exec (.qosCommit v) s = .next t ∧
    t = { s with qos.pending := t.qos.pending, qos.refused := t.qos.refused, qos.kind := t.qos.kind
                 mram.audit := t.mram.audit, mram.auditHead := t.mram.auditHead } ∧
    OneEntry s t 1 0 0 0xFFFF (regWritePayload 0x104 0 v.toNat (t.regValue (.ind 4 0))) ∧
    ((∀ k < 6, ((upTo 8).map (s.stagedLimit k)).foldl (· + ·) 0 ≤ limitCeiling k) → t.qos.refused = false ∧ t.qos.kind = 0 ∧
      ∃ ls ts, t.qos.pending = some (ls, ts) ∧ (∀ k < 6, ∀ c < 8, ls.getD (8 * k + c) 0 = s.stagedLimit k c) ∧
        ∀ c < 4, ts.getD c 0 = s.stagedTarget (4 + c)) ∧
    (∀ k < 6, limitCeiling k < ((upTo 8).map (s.stagedLimit k)).foldl (· + ·) 0 →
      (∀ n < k, ((upTo 8).map (s.stagedLimit n)).foldl (· + ·) 0 ≤ limitCeiling n) →
      t.qos.refused = true ∧ t.qos.kind = k ∧ t.qos.pending = s.qos.pending)) ∧
  (∀ s : State, s.dev.mode = .ready → ∃ t, exec .bandwidthWindowStart s = .next t ∧ t = { s with qos := t.qos } ∧
    t.qos.pending = none ∧ (∀ m c, smGet 0 (t.master m).used c = 0) ∧
    (s.qos.pending = none → t.qos.limits = s.qos.limits ∧ t.qos.targets = s.qos.targets) ∧
    (∀ ls ts, s.qos.pending = some (ls, ts) → (∀ k < 6, ∀ c < 8, t.limit k c = 256 * ls.getD (8 * k + c) 0) ∧
      ∀ c < 4, t.target (4 + c) = max 1 (ts.getD c 0))) ∧
  (∀ (m : Fin 508) (c : Fin 8) (before after : List Inject) (x : Inject) (s : State), s.dev.mode = .ready →
    s.qos.inject = before ++ x :: after → x.master = m.val → x.cls = BitVec.ofFin c →
    (∀ y ∈ before, y.master ≠ m.val ∨ y.cls ≠ BitVec.ofFin c ∨ y.line ≠ x.line) →
    ∃ t h, exec (.injectionGrant m c x.line) s = .next t ∧
      t = { s with qos.masters := t.qos.masters, qos.nextTag := t.qos.nextTag, qos.inject := before ++ after
                   sole.net := s.sole.net ++ [.request x.line ⟨x.req, h⟩] } ∧
      (∀ n, n ≠ m.val → t.master n = s.master n) ∧
      (∀ d, smGet 0 (t.master m.val).used d = smGet 0 (s.master m.val).used d + if d = c.val then x.bytes else 0) ∧
      (let past := decide (s.limit (masterKind m.val) c.val < smGet 0 (s.master m.val).used c.val + x.bytes)
      h.master = m.val ∧ h.cls = BitVec.ofFin c ∧ h.demoted = past ∧ (c.val < 4 → h.urgency = 0) ∧
      (past = true → (t.master m.val).granted = (s.master m.val).granted ∧
        smGet 0 (t.master m.val).demoted c.val = satAdd64 (smGet 0 (s.master m.val).demoted c.val) x.bytes) ∧
      (past = false → (t.master m.val).demoted = (s.master m.val).demoted ∧
        smGet 0 (t.master m.val).granted c.val = satAdd64 (smGet 0 (s.master m.val).granted c.val) x.bytes))) ∧
  (∀ (m : Fin 508) (c : Fin 8) (l : BitVec 32) (s : State),
    (∀ y ∈ s.qos.inject, y.master ≠ m.val ∨ y.cls ≠ BitVec.ofFin c ∨ y.line ≠ l) →
    exec (.injectionGrant m c l) s = .next s) ∧
  (∀ (point : BitVec 32) (waiting : List Nat) (p : Packet NetMsg) (s : State),
    let point0 := smGet ArbPoint.reset s.qos.points point.toNat
    let here := (s.packets waiting).filter fun q => q.msg.isReply == point.getLsbD 0
    point0.choose here = some p →
    ∃ t, exec (.arbitrationGrant point waiting) s = .next t ∧
      t = { s with qos.points := t.qos.points, qos.chosen := some p.msg } ∧ p ∈ here ∧ p.msg ∈ s.sole.net ∧
      (∀ n, n ≠ point.toNat → smGet ArbPoint.reset t.qos.points n = smGet ArbPoint.reset s.qos.points n) ∧
      (let u := smGet ArbPoint.reset t.qos.points point.toNat
       u.sinceC = (if p.tier = 3 ∨ (∀ q ∈ here, q.tier ≠ 3) then 0 else point0.sinceC + 1) ∧
       u.lastMaster = if p.tier = 3 then p.hdr.master else point0.lastMaster) ∧
      ((∃ q ∈ here, q.tier = 0) → p.tier = 0) ∧
      ((∀ q ∈ here, q.tier ≠ 0) → (∃ q ∈ here, q.tier = 3) → 63 ≤ point0.sinceC → p.tier = 3))

/-! ## Descriptors: fetching, checks, completions -/

namespace Sys2Proof.Machine

/-- A descriptor is in flight, comes to its turn and has not started (R335). -/
def Waits (s : State) (ring : Fin 64) (idx : Word) (f : InFlight) : Prop :=
  s.findDesc ring.val idx = some f ∧ s.linked = true ∧ s.dev.mode ≠ .boot ∧ f.started = false ∧ s.mayStart f = true

/-- A descriptor of an opcode comes to start and passes the first checks of R342 and R496. -/
def Starts (s : State) (ring : Fin 64) (idx : Word) (op : Nat) (f : InFlight) : Prop :=
  Waits s ring idx f ∧ f.opcode = op ∧ s.descCheck f = none

/-- A descriptor in flight is completed, and nothing else happens: it is no longer in flight, and one completion with the
given STATUS, DETAIL and RESULT waits behind those of its ring; NOT_PERMITTED, KEY_REFUSED and AUDIT_FULL are counted (R336, R343,
R507). -/
def Answered (s t : State) (f : InFlight) (status detail result : Nat) : Prop :=
  t = { s with inflight := t.inflight, rings := t.rings, sec.counters := t.sec.counters } ∧
    t.inflight = s.inflight.filter (fun g => !(g.ring == f.ring && g.idx == f.idx)) ∧
    t.ring f.ring = { s.ring f.ring with waiting := (s.ring f.ring).waiting ++
      [⟨f.idx.toNat % (s.ring f.ring).size, BitVec.ofNat 8 status, BitVec.ofNat 32 (f.u32 4), BitVec.ofNat 32 f.jobId,
        BitVec.ofNat 8 f.opcode, BitVec.ofNat 8 detail, BitVec.ofNat 64 result⟩] } ∧
    (∀ r, r ≠ f.ring → t.ring r = s.ring r) ∧
    ∀ off, Counters.get t.sec.counters off =
      if (status = 0x01 ∧ off = 0x120) ∨ (status = 0x3B ∧ off = 0x108) ∨ (status = 0x3A ∧ off = 0x128) then
        satAdd64 (Counters.get s.sec.counters off) 1
      else Counters.get s.sec.counters off

/-- The descriptor rows but KEY_EXCHANGE's: the command, its opcode, and the operation, code or kind at byte 0x10. -/
noncomputable def descriptorRows (scans : List StackScan) : List ((Fin 64 → Word → Instr) × Nat × Option Nat) :=
  [(.nopDescriptor, 0, none), (.launch, 1, none), (.suspend, 2, none), (.resume, 3, none), (.abort, 4, none),
   (.dmaH2d, 5, some 0), (.dmaD2h, 5, some 1), (.dmaD2d, 5, some 2), (.dmaTack, 5, some 3), (.dmaUntack, 5, some 4),
   (.seqOpOpen, 6, some 0), (.seqOpFree, 6, some 3), (.seqOpQuery, 6, some 4), (.setLast, 7, none), (.installLicence, 8, none),
   (.attest, 0xA, none), (fun r i => .bistWelt r i scans, 0xB, some 0), (.bistTiles, 0xB, some 1), (.bistSole, 0xB, some 2),
   (.queryFloorPlan, 0xC, none), (.setPolicy, 0xD, none), (.debugHalt, 0xE, some 1), (.debugRead, 0xE, some 2),
   (.debugStep, 0xE, some 3), (.debugRelease, 0xE, some 4), (.auditRead, 0xF, none), (.blackboxRead, 0x10, none)]

end Sys2Proof.Machine

/-- The checks every descriptor passes first (R335, R340 to R342, R496): a descriptor that may not start waits; one that
fails a check is completed with that check's status, in the order of the checks, and nothing else happens. Readings of the
model's own in it: log entries 4, 68, 69. -/
def Obligations.DescriptorFirstChecks : Prop :=
  (∀ (scans : List StackScan), ∀ e ∈ descriptorRows scans, ∀ (ring : Fin 64) (idx : Word) (f : InFlight) (s : State) (st : Nat),
    Waits s ring idx f → f.opcode = e.2.1 → (∀ n, e.2.2 = some n → f.u8 0x10 = n) → s.descCheck f = some st →
    ∃ t, exec (e.1 ring idx) s = .next t ∧ Answered s t f st 0 0) ∧
  (∀ (scans : List StackScan), ∀ e ∈ descriptorRows scans, ∀ (ring : Fin 64) (idx : Word) (f : InFlight) (s : State),
    s.findDesc ring.val idx = some f → f.started = false → s.mayStart f = false → exec (e.1 ring idx) s = .next s) ∧
  (∀ (f : InFlight) (s : State),
    (0x11 ≤ f.opcode ∨ 2 ≤ f.flags ∨ descField f.bytes 2 2 ≠ 0 ∨ f.u32 0xC ≠ 0 → s.descCheck f = some 0x02) ∧
    (descForm f = true →
      (s.dev.mode = .held → f.opcode ∈ [1, 2, 3, 4, 5, 6, 0xB, 0xE] → s.descCheck f = some 0x0D) ∧
      ((s.dev.mode = .check → f.opcode ∈ [1, 2, 3, 4, 5, 6, 0xB, 0xE] → s.descCheck f = some 0x05) ∧
        (s.dev.mode = .limp ∨ s.dev.mode = .shutdown → f.opcode ∈ [1, 2, 3, 4, 5, 6, 9, 0xB, 0xD, 0xE] → s.descCheck f = some 0x05) ∧
        (s.dev.mode = .bringup → f.opcode ∉ [0, 0xF, 0x10] → s.descCheck f = some 0x05)) ∧
      (s.dev.mode = .ready →
        (f.opcode ∉ [1, 2, 3, 4, 5, 6, 0xE] → f.jobId ≠ 0 → s.descCheck f = some 0x02) ∧
        (f.opcode = 1 → f.jobId = 0 ∨ (s.job f.jobId).isSome = true → s.descCheck f = some 0x02) ∧
        (f.opcode ∈ [2, 3, 4, 5, 6, 0xE] → s.present f.jobId = false → s.descCheck f = some 0x31) ∧
        (f.opcode ∈ [2, 3, 4, 5, 6, 0xE] → s.present f.jobId = true → s.ideBlocks = true → s.descCheck f = some 0x01))))

namespace Sys2Proof.Machine

/-- What a read of a ring's doorbell slot leaves of the ring (R332, R334): PI and CCI of an enabled ring, which an overrun
stops; of a disabled ring that still owes completions, CCI. -/
def slotRead (s : State) (r : Nat) : Ring :=
  let g := s.ring r
  let v := bytesToNat (s.hostRead g.slotAt 8)
  let pi : Word := BitVec.ofNat 32 v
  let cci : Word := BitVec.ofNat 32 (v / 2 ^ 32)
  if g.enable then
    if g.size < (pi - cci).toNat ∨ g.size < (pi - g.ci).toNat then
      { g with pi := pi, cci := cci, enable := false, error := true, errorCode := 1 }
    else { g with pi := pi, cci := cci }
  else if s.ringInFlight r = 0 then g else { g with cci := cci }

/-- Every doorbell slot that the device reads of the selected rings can be read. -/
def SlotsReadable (s : State) (p : Nat → Prop) : Prop :=
  ∀ r < 64, p r → (s.ring r).enable = true ∨ s.ringInFlight r ≠ 0 → s.hostOk (s.ring r).slotAt 8 = true

/-- Setting up rings (R328, R331, R333): an idle ring whose size is at least 16 and whose slot no other enabled ring names is enabled, with
its indices 0 and its slot read, RING_ERROR 2 and the host error counted where that fails; otherwise RING_ERROR 3; a busy ring takes no change. Disabling stops the ring and leaves what
it owes. One REG_WRITE entry is logged. -/
def RingSetUp : Prop :=
  (∀ (v : Word) (s : State), s.linked = true → s.unacked < 15360 → v.getLsbD 0 = true →
    let r := s.reg 0x1000 0 % 64
    let g : Ring := { s.ring r with log2 := BitVec.ofNat 4 (v.toNat / 16) }
    let ok := s.ringIdle r = true ∧ 4 ≤ g.log2.toNat ∧ s.slotTaken r = false
    let fresh : Ring := { g with enable := true, error := false, errorCode := 0, ci := 0, cpi := 0, pi := 0, cci := 0 }
    ∃ t, exec (.ringEnable v) s = .next t ∧
      t = { s with rings := t.rings, mram.audit := t.mram.audit, mram.auditHead := t.mram.auditHead, mgt.hostErrors := t.mgt.hostErrors } ∧
      (∀ n, n ≠ r → t.ring n = s.ring n) ∧ OneEntry s t 1 0 0 0xFFFF (regWritePayload 1 4 v.toNat t.ringCtrlValue) ∧
      (s.ringIdle r = false → t.ring r = { s.ring r with writeIgnored := true }) ∧
      (s.ringIdle r = true → g.log2.toNat < 4 ∨ s.slotTaken r = true → t.ring r = { g with error := true, errorCode := 3 }) ∧
      (ok → s.hostOk g.slotAt 8 = true → t.ring r = slotRead { s with rings := [(r, fresh)] } r) ∧
      (ok → s.hostOk g.slotAt 8 = false → t.ring r = { fresh with enable := false, error := true, errorCode := 2 } ∧
        t.mgt.hostErrors.toNat = min (s.mgt.hostErrors.toNat + 1) (2 ^ 32 - 1)) ∧
      (¬ok ∨ s.hostOk g.slotAt 8 = true → t.mgt.hostErrors = s.mgt.hostErrors)) ∧
  (∀ (v : Word) (s : State), s.linked = true → s.unacked < 15360 → v.getLsbD 0 = false →
    let r := s.reg 0x1000 0 % 64
    let size : BitVec 4 := BitVec.ofNat 4 (v.toNat / 16)
    ∃ t, exec (.ringDisable v) s = .next t ∧ t = { s with rings := t.rings, mram.audit := t.mram.audit, mram.auditHead := t.mram.auditHead } ∧
      (∀ n, n ≠ r → t.ring n = s.ring n) ∧ OneEntry s t 1 0 0 0xFFFF (regWritePayload 1 4 v.toNat t.ringCtrlValue) ∧
      (s.ringIdle r = true → t.ring r = { s.ring r with enable := false, log2 := size }) ∧
      (s.ringIdle r = false → t.ring r = { s.ring r with
        enable := false, writeIgnored := (s.ring r).writeIgnored || size != (s.ring r).log2 }))

/-- A ring has fetched less than its PI names. -/
def Unfetched (s : State) (r : Nat) : Prop := (s.ring r).enable = true ∧ (s.ring r).pi ≠ (s.ring r).ci

/-- It is a ring's turn: the first with descriptors to fetch, ascending from the one after the last served (R335). -/
def HasTurn (s : State) (r : Nat) : Prop :=
  ∃ k < 64, (s.mgt.turn + k) % 64 = r ∧ Unfetched s r ∧ ∀ i < k, ¬ Unfetched s ((s.mgt.turn + i) % 64)

/-- Doorbells and fetching (R334, R335, R337, R338): a host store of a doorbell line lands in host memory, and the rings of
that line have their slots read again; DOORBELL_POLL reads every slot in use; DESCRIPTOR_FETCH takes, at a ring's turn, up to 64
descriptors in order of their indices, within the 4,096 of the device, and the turn passes on; out of turn it takes none; a
reserved opcode is completed at once; and the dispatch complex's clock stops only in READY with nothing in flight, every
completion posted, and no job. -/
def DoorbellsAndFetch : Prop :=
  (∀ (addr : BitVec 64) (data : BitVec 512) (s : State), s.linked = true →
    let a := addr.toNat / 64 * 64
    let u := s.hostWrite a (natToBytes 64 data.toNat)
    SlotsReadable s (fun r => (s.ring r).line = a) →
    ∃ t, exec (.doorbellSnoop addr data) s = .next t ∧ t = { u with rings := t.rings, dcClock := t.dcClock } ∧
      (∀ r < 64, t.ring r = if (s.ring r).line = a then slotRead u r else s.ring r) ∧
      (t.dcClock = true ↔ s.dcClock = true ∨ ∃ r < 64, (s.ring r).line = a ∧ ((s.ring r).enable = true ∨ s.ringInFlight r ≠ 0))) ∧
  (∀ s : State, s.linked = true → SlotsReadable s (fun _ => True) → ∃ t, exec .doorbellPoll s = .next t ∧
    t = { s with rings := t.rings } ∧ ∀ r < 64, t.ring r = slotRead s r) ∧
  (∀ (ring : Fin 64) (s : State), s.linked = true → s.dev.mode ≠ .boot → HasTurn s ring.val →
    let g := s.ring ring.val
    let n := min 64 (min (g.pi - g.ci).toNat (4096 - s.allInFlight))
    let at_ := fun i => g.cmdBase.toNat + 64 * ((g.ci + BitVec.ofNat 32 i).toNat % g.size)
    let fetched := (upTo n).map fun i => (⟨ring.val, g.ci + BitVec.ofNat 32 i, BitVec.ofNat 512 (bytesToNat (s.hostRead (at_ i) 64)), false⟩ : InFlight)
    (∀ i < n, s.hostOk (at_ i) 64 = true) → (∀ f ∈ s.inflight ++ fetched, f.ring = ring.val → f.opcode < 0x11) →
    ∃ t, exec (.descriptorFetch ring) s = .next t ∧ t = { s with
        inflight := s.inflight ++ fetched, rings := t.rings, dcClock := t.dcClock
        mgt.turn := if n = 0 then s.mgt.turn else (ring.val + 1) % 64 } ∧
      t.ring ring.val = { g with ci := g.ci + BitVec.ofNat 32 n } ∧ (∀ r, r ≠ ring.val → t.ring r = s.ring r) ∧
      (t.dcClock = true ↔ s.dcClock = true ∨ n ≠ 0)) ∧
  (∀ (ring : Fin 64) (s : State), ¬ HasTurn s ring.val → (∀ f ∈ s.inflight, f.ring = ring.val → f.opcode < 0x11) →
    exec (.descriptorFetch ring) s = .next s) ∧
  (∀ (ring : Fin 64) (f : InFlight) (s : State), s.linked = true → s.dev.mode ≠ .boot → (s.ring ring.val).enable = false →
    s.inflight = [f] → f.ring = ring.val → 0x11 ≤ f.opcode → ∃ t, exec (.descriptorFetch ring) s = .next t ∧ Answered s t f 0x02 0 0) ∧
  (∀ s : State, s.dev.mode = .ready → s.inflight = [] → (∀ e ∈ s.rings, e.2.waiting = []) → (∀ e ∈ s.jobs, e.2.ended.isSome = true) →
    exec .dcClockStop s = .next { s with dcClock := false }) ∧
  (∀ s : State, (s.inflight ≠ [] ∨ ∃ e ∈ s.rings, e.2.waiting ≠ []) → exec .dcClockStop s = .next s)

end Sys2Proof.Machine

/-- RingSetUp and DoorbellsAndFetch, together. Readings of the model's own in it: log entries 4, 68, 69, 72, 73, 213. -/
def Obligations.RingsAndDoorbells : Prop := RingSetUp ∧ DoorbellsAndFetch

/-- Completions (R332, R336, R343, R345, R346): NOP completes with OK; the oldest completion of a ring is written to its
entry in room that CCI leaves, with the phase of its pass, and the device owns the entry's line; posting a LAUNCH's
completion frees the job's stacks, and waits until the ABORTED completions of the job's descriptors on other rings are
posted; a host access takes the line back; without room nothing is posted. Readings of the model's own in it: log entries 4,
71, 74, 75. -/
def Obligations.CompletionPosting : Prop :=
  (∀ (ring : Fin 64) (idx : Word) (f : InFlight) (s : State), Starts s ring idx 0 f →
    ∃ t, exec (.nopDescriptor ring idx) s = .next t ∧ Answered s t f 0 0 0) ∧
  (∀ (ring : Fin 64) (c : Completion) (rest : List Completion) (s : State), s.linked = true → (s.ring ring.val).waiting = c :: rest →
    let g := s.ring ring.val
    let j := g.cpi.toNat
    let a := g.cplBase.toNat + 32 * (j % g.size)
    (g.cpi - g.cci).toNat < g.size → s.hostOk a 32 = true → s.launchWaits ring.val c = false →
    (∀ f ∈ s.inflight, f.opcode = 4 → f.started = true → f.jobId ≠ c.job.toNat) →
    ∃ t, exec (.completionPost ring) s = .next t ∧ t = { s with jobs := t.jobs, rings := t.rings, host.mem := t.host.mem } ∧
      t.host.mem = s.host.mem.writeBytes a (c.bytes (j / g.size % 2 == 0) s.aon) ∧
      (∀ r, r ≠ ring.val → t.ring r = s.ring r) ∧
      (∃ owned, t.ring ring.val = { g with waiting := rest, cpi := g.cpi + 1, owned := owned } ∧
        ∀ l, l ∈ owned ↔ l ∈ g.owned ∨ l = j % g.size / 2) ∧
      (∀ k, k ≠ c.job.toNat → t.job k = s.job k) ∧
      (c.opcode ≠ 1 → t.jobs = s.jobs) ∧
      (∀ v, c.opcode = 1 → s.job c.job.toNat = some v → v.ended.isSome = true → v.ring = ring.val →
        v.idx.toNat % g.size = c.slot → t.job c.job.toNat = none)) ∧
  (∀ (ring : Fin 64) (c d : Completion) (rest : List Completion) (n : Nat) (s : State), (s.ring ring.val).waiting = c :: rest →
    c.opcode = 1 → n < 64 → n ≠ ring.val → d ∈ (s.ring n).waiting → d.job = c.job → d.status = 0x0A → d.opcode ∉ [1, 4] →
    exec (.completionPost ring) s = .next s) ∧
  (∀ (ring : Fin 64) (s : State), (s.ring ring.val).size ≤ ((s.ring ring.val).cpi - (s.ring ring.val).cci).toNat →
    exec (.completionPost ring) s = .next s) ∧
  (∀ (ring : Fin 64) (line : Word) (s : State), ∃ t, exec (.completionRingSnoop ring line) s = .next t ∧ t = { s with rings := t.rings } ∧
    (∀ r, r ≠ ring.val → t.ring r = s.ring r) ∧
    ∃ owned, t.ring ring.val = { s.ring ring.val with owned := owned } ∧ ∀ l, l ∈ owned ↔ l ∈ (s.ring ring.val).owned ∧ l ≠ line.toNat)

/-! ## Descriptors that move data, operate on sequences, and read or install records -/

namespace Sys2Proof.Machine

/-- The job of a descriptor: it is present (R346). -/
def Serves (s : State) (f : InFlight) (v : Job) : Prop := s.job f.jobId = some v ∧ v.ended = none

end Sys2Proof.Machine

/-- DMA (R211 to R213, R276, R342, R493, R494, R498): a range of length 0 or above 2^40, outside the footprint, or written in
a sequence-table pool is refused with BAD_DESCRIPTOR, a D2H that CONTEXT_OUT forbids with NOT_PERMITTED, a TACK over its
quota with TACK_QUOTA, and a failing host buffer with HOST_ACCESS. Otherwise the transfer's accesses are made: of the host's
bytes, or of the sealed records of a sealed job, whose counters must rise; and the descriptor completes with its length. They
travel as the ring's master in the descriptor's class (R297, R342). Where an access must wait, nothing of the transfer is
made. Readings of the model's own in it: log entries 4, 47, 49, 69, 76, 179. -/
def Obligations.DmaTransfers : Prop :=
  (∀ (op : Nat) (row : Fin 64 → Word → Instr),
    (op, row) ∈ [(0, Instr.dmaH2d), (1, Instr.dmaD2h), (2, Instr.dmaD2d), (3, Instr.dmaTack), (4, Instr.dmaUntack)] →
    ∀ (ring : Fin 64) (idx : Word) (f : InFlight) (v : Job) (s : State), Starts s ring idx 5 f → f.dmaOp = op → Serves s f v →
    (f.len = 0 ∨ 2 ^ 40 < f.len ∨ (op ∈ [1, 2] ∧ v.image.footprint < f.src + f.len) ∨ (op ≠ 1 ∧ v.image.footprint < f.dst + f.len) ∨
      (op ∈ [0, 2] ∧ v.image.inPool f.dst f.len = true) ∨ (op = 2 ∧ f.src < f.dst + f.len ∧ f.dst < f.src + f.len) ∨
      (op ∈ [3, 4] ∧ (f.dst % 256 ≠ 0 ∨ f.len % 256 ≠ 0)) → ∃ t, exec (row ring idx) s = .next t ∧ Answered s t f 0x02 0 0)) ∧
  (∀ (ring : Fin 64) (idx : Word) (f : InFlight) (v : Job) (s : State), Starts s ring idx 5 f → Serves s f v →
    1 ≤ f.len → f.len ≤ 2 ^ 40 →
    let m := s.markStarted ring.val idx
    (f.dmaOp = 0 → f.dst + f.len ≤ v.image.footprint → v.image.inPool f.dst f.len = false →
      (v.keySlot = none →
        (s.hostOk f.src f.len = false → ∃ t, exec (.dmaH2d ring idx) s = .next t ∧ Answered s.hostError t f 0x32 0 0) ∧
        (∀ u, s.hostOk f.src f.len = true → m.writeMem v.image f.dmaBy f.dst (s.hostRead f.src f.len) = .ok u → u.present f.jobId = true →
          ∃ t, exec (.dmaH2d ring idx) s = .next t ∧ Answered u t f 0 0 f.len) ∧
        (∀ w, s.hostOk f.src f.len = true → m.writeMem v.image f.dmaBy f.dst (s.hostRead f.src f.len) = .error w →
          exec (.dmaH2d ring idx) s = .next (m.waits w))) ∧
      (∀ q, v.keySlot = some q →
        (∀ u, State.openRecords f.dmaBy f.jobId v.image q f.src f.dst f.len (recordCount f.len) 0 m = .done u →
          ∃ t, exec (.dmaH2d ring idx) s = .next t ∧ Answered u t f 0 0 f.len) ∧
        (∀ h, s.hostOk f.src 4160 = true → v.h2dHighest = some h → bytesToNat (s.hostRead f.src 8) ≤ h →
          ∃ t, exec (.dmaH2d ring idx) s = .next t ∧ Answered (s.cntSec 0x118 1) t f 0x39 0 0))) ∧
    (f.dmaOp = 1 → f.src + f.len ≤ v.image.footprint →
      (s.contextHeld v f.src f.len = true → ∃ t, exec (.dmaD2h ring idx) s = .next t ∧ Answered s t f 0x01 0 0) ∧
      (s.contextHeld v f.src f.len = false →
        (∀ bs u, v.keySlot = none → m.readMem v.image f.dmaBy f.src f.len = .ok (bs, u) → u.present f.jobId = true → u.host.up = true →
          u.host.failing = [] → ∃ t, exec (.dmaD2h ring idx) s = .next t ∧ Answered (u.hostWrite f.dst bs) t f 0 0 f.len) ∧
        (∀ q u, v.keySlot = some q →
          State.sealRecords f.dmaBy f.jobId v.image q f.src f.dst f.len (recordCount f.len) 0 m = .done u →
          ∃ t, exec (.dmaD2h ring idx) s = .next t ∧ Answered u t f 0 0 f.len))) ∧
    (f.dmaOp = 2 → f.src + f.len ≤ v.image.footprint → f.dst + f.len ≤ v.image.footprint → v.image.inPool f.dst f.len = false →
      f.dst + f.len ≤ f.src ∨ f.src + f.len ≤ f.dst → ∀ bs u w, m.readMem v.image f.dmaBy f.src f.len = .ok (bs, u) → u.present f.jobId = true →
      u.writeMem v.image f.dmaBy f.dst bs = .ok w → w.present f.jobId = true →
      ∃ t, exec (.dmaD2d ring idx) s = .next t ∧ Answered w t f 0 0 f.len) ∧
    (f.dst % 256 = 0 → f.len % 256 = 0 → f.dst + f.len ≤ v.image.footprint →
      let lines := s.rangeLines v.image f.dst f.len
      (f.dmaOp = 3 → s.tackAllowed v.image lines = false → ∃ t, exec (.dmaTack ring idx) s = .next t ∧
        Answered { s with sole.refusals := BitVec.ofNat 32 (min (s.sole.refusals.toNat + 1) (2 ^ 32 - 1)) } t f 0x07 0 0) ∧
      (∀ u, f.dmaOp = 3 → s.tackAllowed v.image lines = true → State.serveAll v.image f.dmaBy (m.tackList v.image lines) m = .ok u → u.present f.jobId = true →
        ∃ t, exec (.dmaTack ring idx) s = .next t ∧ Answered u t f 0 0 f.len) ∧
      (∀ u, f.dmaOp = 4 → State.serveAll v.image f.dmaBy (lines.map fun l => (l, .untack)) m = .ok u → u.present f.jobId = true →
        ∃ t, exec (.dmaUntack ring idx) s = .next t ∧ Answered u t f 0 0 f.len)))

/-- SEQ_OP (R283, R286, R287, R291): a parameter block that a check of R283 fails is refused with BAD_DESCRIPTOR; it waits
while the stack's engine cannot take it (R289); the request is charged to the firmware in class 6 (R297); OPEN and FREE act
as the instructions do; QUERY writes the 64 bytes of the descriptor to the host. Readings of the model's own in it: log
entries 57, 58, 69, 179. -/
def Obligations.SequenceDescriptors : Prop :=
  ∀ (ring : Fin 64) (idx : Word) (f : InFlight) (v : Job) (s : State), Starts s ring idx 6 f → Serves s f v →
    let m := s.markStarted ring.val idx
    let d := (SeqBlock.decode f.block).seq
    let h := (m.grant 507 6 64).1
    let c := (m.grant 507 6 64).2.replied h
    (∀ op row, (op, row) ∈ [(0, Instr.seqOpOpen), (3, Instr.seqOpFree), (4, Instr.seqOpQuery)] → f.seqCode = op →
      (s.seqWrong op f.jobId v.image f.block).isSome = true → ∃ t, exec (row ring idx) s = .next t ∧ Answered s t f 0x02 0 0) ∧
    (s.seqWrong f.seqCode f.jobId v.image f.block = none → f.seqCode = 0 → s.seqBusy (blockField f.block 0 4) = true →
      exec (.seqOpOpen ring idx) s = .next m) ∧
    (s.seqWrong f.seqCode f.jobId v.image f.block = none → s.seqBusy (blockField f.block 0 4) = false →
      (∀ n u, f.seqCode = 0 → c.seqOpen f.jobId v.image f.block = .done n u →
        ∃ t, exec (.seqOpOpen ring idx) s = .next t ∧ Answered u t f 0 0 n) ∧
      (∀ n u, f.seqCode = 3 → c.seqFree v.image (seqBy (d / 131072) h) d = .done n u → ∃ t, exec (.seqOpFree ring idx) s = .next t ∧ Answered u t f 0 0 n) ∧
      (f.seqCode = 4 → (SeqBlock.decode f.block).lsAddr = 0 →
        (s.hostOk (f.u64 0x18) 64 = true → ∃ t, exec (.seqOpQuery ring idx) s = .next t ∧
          Answered ((c.hostWrite (f.u64 0x18) (s.seqDesc d).bytes).cntSeq (d / 131072) 0x120 1) t f 0 0 0) ∧
        (s.hostOk (f.u64 0x18) 64 = false → ∃ t, exec (.seqOpQuery ring idx) s = .next t ∧ Answered c.hostError t f 0x32 0 0)))

/-- BAR2 (R276, R326, R496, R498): a write of MGT_BAR2_JOB binds a job that is present, not sealed and allows it, and
otherwise none; an access with no job bound or outside its footprint, or a write into a sequence-table pool, is dropped and
counted, a dropped read returning all ones; any other reads or writes 64 bytes of the job's memory, as master 506 in the
class of QOS_HOST_CLASS. Readings of the model's own in it: log entries 4, 81, 179. -/
def Obligations.Bar2Accesses : Prop :=
  (∀ (v : Word) (s : State), HostMayWrite s → ∃ t, exec (.mgtBar2JobWrite v) s = .next t ∧
    t = { s with mgt.bar2Job := t.mgt.bar2Job, mram.audit := t.mram.audit, mram.auditHead := t.mram.auditHead } ∧
    OneEntry s t 1 0 0 0xFFFF (regWritePayload 0 0x70 v.toNat t.mgt.bar2Job.toNat) ∧
    (s.present v.toNat = false → t.mgt.bar2Job = 0) ∧
    (∀ j, s.job v.toNat = some j → t.mgt.bar2Job = if j.ended = none ∧ j.keySlot = none ∧ s.jobFlag j 7 = true ∧
      (j.suspended = true → s.jobFlag j 6 = true) then v else 0)) ∧
  (∀ (unit : BitVec 30) (s : State), s.linked = true →
    (s.bar2Target unit = none → exec (.bar2Read unit) s = .next { s with
      mgt.bar2Drops := BitVec.ofNat 32 (min (s.mgt.bar2Drops.toNat + 1) (2 ^ 32 - 1)), host.lastRead := List.replicate 64 0xFF }) ∧
    (∀ im bs u, s.bar2Target unit = some im → s.readMem im ⟨.bar2, 506, s.reg (indKey 4 8) 3 % 8, none⟩ (s.bar2Address unit) 64 = .ok (bs, u) →
      u.present s.mgt.bar2Job.toNat = true → exec (.bar2Read unit) s = .next { u with host.lastRead := bs })) ∧
  (∀ (unit : BitVec 30) (data : BitVec 512) (mask : BitVec 64) (s : State), s.linked = true →
    (s.bar2Target unit = none ∨ (∃ im, s.bar2Target unit = some im ∧ im.inPool (s.bar2Address unit) 64 = true) →
      exec (.bar2Write unit data mask) s = .next { s with
        mgt.bar2Drops := BitVec.ofNat 32 (min (s.mgt.bar2Drops.toNat + 1) (2 ^ 32 - 1)) }) ∧
    (∀ im pl u, s.bar2Target unit = some im → im.inPool (s.bar2Address unit) 64 = false → s.plan.place im (s.bar2Address unit) = some pl →
      s.serveNow im ⟨.bar2, 506, s.reg (indKey 4 8) 3 % 8, none⟩ pl.line (.ncwr .bar2 (BitVec.ofNat 2048 (data.toNat * 2 ^ (8 * (pl.o % 256))))
        (BitVec.ofNat 256 (mask.toNat * 2 ^ (pl.o % 256)))) = .ok u → exec (.bar2Write unit data mask) s = .next u)) ∧
  (∀ (unit : BitVec 30) (s : State), s.mgt.bar2Job = 0 → s.bar2Target unit = none)

namespace Sys2Proof.Machine

/-- SET_LAST, INSTALL_LICENCE and SET_POLICY (R409, R424, R497, R503): the object is read from IN and checked; a check that fails completes
with its status and changes nothing but the log; an accepted object is logged, committed in both copies, and in force. Licence
and policy attempts are logged either way; under the audit reserve they are refused. -/
def InstallDescriptors : Prop :=
  ∀ (ring : Fin 64) (idx : Word) (f : InFlight) (s : State), s.hostOk (f.u64 0x10) (f.u32 0x18) = true → f.u32 0x18 ≤ 2 ^ 20 →
    let b := s.hostRead (f.u64 0x10) (f.u32 0x18)
    (Starts s ring idx 7 f →
      (f.u32 0x18 ≠ 160 ∨ lastForm b = false → ∃ t, exec (.setLast ring idx) s = .next t ∧ Answered s t f 0x02 0 0) ∧
      (f.u32 0x18 = 160 → lastForm b = true → s.unacked < 15360 → ∃ t u, exec (.setLast ring idx) s = .next t ∧
        u = { s with mram.audit := u.mram.audit, mram.auditHead := u.mram.auditHead, mram.last := u.mram.last } ∧
        OneEntry s u 7 0 0 ring.val (sha256 b) ∧ u.lastTable = some ⟨b, (upTo 18).map (lastEntry b)⟩ ∧ Answered u t f 0 0 0)) ∧
    (Starts s ring idx 8 f → s.unacked < 15360 →
      let st := s.licenceStatus b
      ∃ t u, exec (.installLicence ring idx) s = .next t ∧
        u = { s with mram.audit := u.mram.audit, mram.auditHead := u.mram.auditHead, mram.licence := u.mram.licence } ∧
        OneEntry s u 3 0 0 ring.val (natToBytes 4 (le b 0x10 4) ++ natToBytes 1 (le b 0x14 1) ++ natToBytes 1 st) ∧ Answered u t f st 0 0 ∧
        (st ≠ 0 → u.mram.licence = s.mram.licence) ∧
        (st = 0 → b ≠ s.licenceRec.bytes → u.licenceRec = ⟨BitVec.ofNat 32 (le b 0x10 4), BitVec.ofNat 8 (le b 0x14 1), b⟩)) ∧
    (Starts s ring idx 0xD f → s.unacked < 15360 →
      let st := s.policyStatus b
      ∃ t u, exec (.setPolicy ring idx) s = .next t ∧
        u = { s with mram.audit := u.mram.audit, mram.auditHead := u.mram.auditHead, mram.policy := u.mram.policy, sec.mr := u.sec.mr
                     mgt.bar2Job := u.mgt.bar2Job } ∧
        OneEntry s u 2 0 0 ring.val (natToBytes 4 (le b 8 4) ++ sha256 b ++ natToBytes 1 st) ∧ Answered u t f st 0 0 ∧
        (st ≠ 0 → u.mram.policy = s.mram.policy ∧ u.sec.mr = s.sec.mr ∧ u.mgt.bar2Job = s.mgt.bar2Job) ∧
        (st = 0 → u.policy = policyOf b ∧ u.mr 4 = digestBits (sha256 (digestBytes (s.mr 4) ++ sha256 b)) ∧
          (∀ n, n ≠ 4 → u.mr n = s.mr n) ∧
          u.mgt.bar2Job = if u.mayBind s.mgt.bar2Job.toNat then s.mgt.bar2Job else 0)) ∧
    (15360 ≤ s.unacked →
      (Starts s ring idx 8 f → ∃ t, exec (.installLicence ring idx) s = .next t ∧ Answered s t f 0x3A 0 0) ∧
      (Starts s ring idx 0xD f → ∃ t, exec (.setPolicy ring idx) s = .next t ∧ Answered s t f 0x3A 0 0) ∧
      (Starts s ring idx 7 f → f.u32 0x18 = 160 → lastForm b = true → ∃ t, exec (.setLast ring idx) s = .next t ∧ Answered s t f 0x3A 0 0))

/-- QUERY_FLOOR_PLAN, AUDIT_READ and BLACKBOX_READ (R28 to R30, R505, R524): the record of one plan, whose generation is RESULT; whole entries
from START or the oldest retained on, as many as fit; the header and whole records from START on. Each is written to OUT, and
nothing else changes. -/
def ReadOutDescriptors : Prop :=
  ∀ (ring : Fin 64) (idx : Word) (f : InFlight) (s : State), f.u32 0x28 ≤ 2 ^ 24 → (∀ n, s.hostOk (f.u64 0x20) n = true) →
    (Starts s ring idx 0xC f →
      (f.u32 0x28 < 8128 → ∃ t, exec (.queryFloorPlan ring idx) s = .next t ∧ Answered s t f 0x02 0 0) ∧
      (8128 ≤ f.u32 0x28 → s.dev.mode ∈ [.check, .ready, .held] → ∃ t, exec (.queryFloorPlan ring idx) s = .next t ∧
        Answered (s.hostWrite (f.u64 0x20) (s.plan.record s.part s.dev.mode.code s.plan.origin.toNat)) t f 0 0
          s.plan.generation.toNat) ∧
      (∀ p, 8128 ≤ f.u32 0x28 → s.dev.mode ∈ [.limp, .shutdown] → s.storedPlan = some p → ∃ t, exec (.queryFloorPlan ring idx) s = .next t ∧
        Answered (s.hostWrite (f.u64 0x20) (p.record s.part s.dev.mode.code 4)) t f 0 0 p.generation.toNat)) ∧
    (Starts s ring idx 0xF f →
      let first := max (f.u64 0x30) (s.mram.auditHead.toNat - 16384)
      let count := min (s.mram.auditHead.toNat - first) (f.u32 0x28 / 128)
      let text := (upTo count).flatMap fun i =>
        let e := smGet AuditEntry.blank s.mram.audit ((first + i) % 16384)
        e.bytes ++ digestBytes e.chain
      ∃ t, exec (.auditRead ring idx) s = .next t ∧ Answered (s.hostWrite (f.u64 0x20) text) t f 0 0 text.length ∧
        text.length = 128 * count) ∧
    (Starts s ring idx 0x10 f → 64 ≤ f.u32 0x28 →
      let n := (f.u32 0x28 - 64) / 64
      let text := s.bbHeader (f.u64 0x30) n ++ s.bbRecords (f.u64 0x30) n
      ∃ t, exec (.blackboxRead ring idx) s = .next t ∧ Answered (s.hostWrite (f.u64 0x20) text) t f 0 0 text.length) ∧
    (Starts s ring idx 0x10 f → f.u32 0x28 < 64 → ∃ t, exec (.blackboxRead ring idx) s = .next t ∧ Answered s t f 0x02 0 0)

end Sys2Proof.Machine

/-! ## Keys, identity, tests on command, debug, firmware -/

namespace Sys2Proof.Machine

/-- A KEY_EXCHANGE descriptor with its IN and OUT buffers, which may be read and written, and a well-formed request. -/
def KeyRequest (s : State) (ring : Fin 64) (idx : Word) (f : InFlight) (b : List Byte) : Prop :=
  Starts s ring idx 9 f ∧ s.unacked < 15360 ∧ f.u32 0x18 ≤ 2 ^ 20 ∧ f.u32 0x28 ≤ 2 ^ 24 ∧ (∀ n, s.hostOk (f.u64 0x20) n = true) ∧
    s.hostOk (f.u64 0x10) (f.u32 0x18) = true ∧ b = s.hostRead (f.u64 0x10) (f.u32 0x18) ∧ keyForm b = true

/-- The KEY entry's payload (R503). -/
def keyPayload (op n : Nat) (k : SecSlot) (status : Nat) : List Byte :=
  natToBytes 1 op ++ natToBytes 1 n ++ natToBytes 1 (if k.ide then 1 else 0) ++ natToBytes 4 k.job.toNat ++ natToBytes 1 status

/-- One key slot changes to a value; every other stays. -/
def SlotBecomes (s u : State) (n : Nat) (k : SecSlot) : Prop := u.keySlot n = k ∧ ∀ j, j ≠ n → u.keySlot j = s.keySlot j

end Sys2Proof.Machine

/-- KEY_EXCHANGE and IDE (R487 to R491): OFFER makes a fresh pair and a signed offer in a slot that is EMPTY or OFFERED;
ACCEPT of an offer at most 60 s old derives the keys, and CONFIRM decides between READY, with MR7 extended by the binding
digest, and EMPTY; RELEASE empties a slot that is OFFERED or READY; a slot in another state answers KEY_REFUSED; an offer 60
s old is emptied; a READY IDE slot's keys go to the stream, which K_SET_GO starts; KEY_PROG changes nothing. Readings of the
model's own in it: log entries 15, 16, 17, 89, 125, 126, 127, 128. -/
def Obligations.KeyExchange : Prop :=
  (∀ (ring : Fin 64) (idx : Word) (f : InFlight) (b : List Byte) (s : State), KeyRequest s ring idx f b →
    let n := le b 1 1
    let k := s.keySlot n
    (le b 0 1 = 0 → 4948 ≤ f.u32 0x28 → k.state = .empty ∨ k.state = .offered → s.sigExhausted = false → s.sec.entropyOk = true →
      s.treeReady = true →
      let ide := le b 2 1 == 1
      let o := s.offerBody n ide (le b 4 4) s.sigIndex (cut b 0x10 32) s.draws
      ∃ t u, exec (.keyExchangeOffer ring idx) s = .next t ∧
        u = { s with mram.audit := u.mram.audit, mram.auditHead := u.mram.auditHead, mram.sigIndex := u.mram.sigIndex, draws := s.draws + 1
                     sec.slots := u.sec.slots, sec.counters := s.sec.counters.add 0x100 1, host.mem := u.host.mem } ∧
        SlotBecomes s u n ⟨.offered, ide, BitVec.ofNat 32 (le b 4 4), cut b 0x10 32, s.aon, digestBits (sha256 o), s.draws, 0, 0⟩ ∧
        OneEntry s u 0xA (le b 4 4) 0 ring.val (keyPayload 0 n (u.keySlot n) 0) ∧ u.sigIndex = s.sigIndex + 1 ∧
        u.host.mem = s.host.mem.writeBytes (f.u64 0x20) (o ++ idSignature s.sigIndex o) ∧ Answered u t f 0 0 4948) ∧
    (le b 0 1 = 1 → k.state = .offered → (s.aon - k.offeredAt).toNat ≤ 2400000000 →
      let ct := cut b 0x30 1568
      let keys := s.slotKeys k ct
      let good := hmac (keys.drop (keys.length - 32)) (confirmText ++ ct) = cut b 0x10 32
      ∃ t u, exec (.keyExchangeAccept ring idx) s = .next t ∧
        u = { s with mram.audit := u.mram.audit, mram.auditHead := u.mram.auditHead, sec.slots := u.sec.slots, sec.mr := u.sec.mr
                     sec.ideTx := u.sec.ideTx, sec.ideRx := u.sec.ideRx, sec.ideSet := u.sec.ideSet } ∧
        (good → SlotBecomes s u n (k.ready keys (bindingDigest n k)) ∧
          OneEntry s u 0xA k.job.toNat 0 ring.val (keyPayload 1 n k 0 ++ bindingDigest n k) ∧ Answered u t f 0 0 0 ∧
          u.mr 7 = digestBits (sha256 (digestBytes (s.mr 7) ++ bindingDigest n k)) ∧ (∀ j, j ≠ 7 → u.mr j = s.mr j) ∧
          (k.ide = true → u.sec.ideTx = digestBits (keys.take 32) ∧ u.sec.ideRx = digestBits (cut keys 32 32) ∧ u.sec.ideSet = true) ∧
          (k.ide = false → u.sec.ideTx = s.sec.ideTx ∧ u.sec.ideRx = s.sec.ideRx ∧ u.sec.ideSet = s.sec.ideSet)) ∧
        (¬good → SlotBecomes s u n SecSlot.empty ∧ OneEntry s u 0xA k.job.toNat 0 ring.val (keyPayload 1 n k 0x3B) ∧
          Answered u t f 0x3B 0 0 ∧ u.sec.mr = s.sec.mr ∧ u.sec.ideSet = s.sec.ideSet)) ∧
    (le b 0 1 = 2 → k.state = .offered ∨ k.state = .ready → ∃ t v u, exec (.keyExchangeRelease ring idx) s = .next t ∧
      u = { s with mram.audit := u.mram.audit, mram.auditHead := u.mram.auditHead, sec.slots := u.sec.slots } ∧
      SlotBecomes s u n SecSlot.empty ∧ OneEntry s v 0xA k.job.toNat 0 ring.val (keyPayload 2 n k 0) ∧
      OneEntry v u 0xB k.job.toNat 3 0 (natToBytes 1 n ++ natToBytes 4 k.job.toNat ++ natToBytes 1 0) ∧ Answered u t f 0 0 0) ∧
    (∀ op row, (op, row) ∈ [(1, Instr.keyExchangeAccept), (2, Instr.keyExchangeRelease)] → le b 0 1 = op →
      k.state = .bound ∨ k.state = .empty ∨ (op = 1 ∧ k.state = .ready) →
      ∃ t u, exec (row ring idx) s = .next t ∧ u = { s with mram.audit := u.mram.audit, mram.auditHead := u.mram.auditHead } ∧
        OneEntry s u 0xA k.job.toNat 0 ring.val (keyPayload op n k 0x3B) ∧ Answered u t f 0x3B 0 0)) ∧
  (∀ (slot : Fin 16) (s : State), (s.keySlot slot.val).state = .offered → 2400000000 ≤ (s.aon - (s.keySlot slot.val).offeredAt).toNat →
    s.unacked < 16384 →
    ∃ t, exec (.keyOfferExpiry slot) s = .next t ∧
      t = { s with mram.audit := t.mram.audit, mram.auditHead := t.mram.auditHead, sec.slots := t.sec.slots } ∧ SlotBecomes s t slot.val SecSlot.empty ∧
      OneEntry s t 0xB (s.keySlot slot.val).job.toNat 3 0 (natToBytes 1 slot.val ++ natToBytes 4 (s.keySlot slot.val).job.toNat ++ natToBytes 1 1)) ∧
  (∀ s : State, s.linked = true → s.sec.ideSet = true → exec .ideKSetGo s = .next { s with host.ide := true }) ∧
  (∀ s : State, s.sec.ideSet = false → exec .ideKSetGo s = .next s) ∧ (∀ s : State, exec .ideKeyProg s = .next s)

namespace Sys2Proof.Machine

/-- Attestation and the identity key (R480, R482 to R486): ATTEST consumes one index, signs the report of the state with it, and writes
report, signature and, where asked, the certificate to OUT; with the indices exhausted it answers KEY_REFUSED. The next level-1 tree
is stored once the index comes within 4,096 of it. A test of the entropy source sets or clears ENTROPY_OK. -/
def Attestation : Prop :=
  (∀ (ring : Fin 64) (idx : Word) (f : InFlight) (s : State), Starts s ring idx 0xA f → f.u32 0x18 = 64 → f.u32 0x28 ≤ 2 ^ 24 →
    (∀ n, s.hostOk (f.u64 0x20) n = true) → s.hostOk (f.u64 0x10) 64 = true →
    let b := s.hostRead (f.u64 0x10) 64
    le b 32 4 < 2 → zeros b 36 28 = true → 4020 + 3700 * le b 32 4 ≤ f.u32 0x28 →
    (s.sigExhausted = true → ∃ t, exec (.attest ring idx) s = .next t ∧ Answered s t f 0x3B 0 0) ∧
    (s.sigExhausted = false → s.treeReady = true → ∃ t u r, exec (.attest ring idx) s = .next t ∧
      u = { s with mram.sigIndex := u.mram.sigIndex, sec.counters := s.sec.counters.add 0x100 1, host.mem := u.host.mem } ∧
      u.sigIndex = s.sigIndex + 1 ∧ r = { s with mram.sigIndex := u.mram.sigIndex }.reportBody s.sigIndex (b.take 32) ∧
      u.host.mem = s.host.mem.writeBytes (f.u64 0x20) (r ++ idSignature s.sigIndex r ++ if le b 32 4 = 1 then s.certBytes else []) ∧
      Answered u t f 0 0 (4020 + 3700 * le b 32 4))) ∧
  (∀ s : State, s.dev.mode ∉ [.off, .aon] →
    exec .identityTreeReady s = .next (if 2 ^ 15 * (s.mram.tree + 1) ≤ s.sigIndex + 4096 ∧ s.mram.tree + 1 < 2 ^ 15 then
      { s with mram.tree := s.mram.tree + 1 } else s)) ∧
  (∀ (passed : Bool) (s : State), s.dev.mode ∉ [.off, .aon] → exec (.entropyHealthTest passed) s =
    .next { s with sec.entropyOk := passed, sec.entropyFail := s.sec.entropyFail || !passed })

end Sys2Proof.Machine

/-- Attestation and ReadOutDescriptors, together. Readings of the model's own in it: log entries 15, 17, 96, 127, 129, 130.
-/
def Obligations.AttestationAndReadOut : Prop := Attestation ∧ ReadOutDescriptors

namespace Sys2Proof.Machine

/-- The generation that the next commit gives a plan: it never decreases (R27, and the log's choice at its greatest value). -/
def nextGeneration (s : State) : Word := BitVec.ofNat 32 (min (s.mram.generation.toNat + 1) (2 ^ 32 - 1))

/-- BIST on command (R407, R408): a reserved kind or no stack is refused with BAD_DESCRIPTOR, a stack that a job holds with STACK_BUSY. BIST
WELT tests at once and completes with the generation of the plan; BIST TILES and BIST SOLE wake the uppers and wait for their findings.
BIST_COMPLETE takes the slices found bad out of service, with REASON 3, leaves every other slice as it was, commits the plan, and
completes with its generation. -/
def BistCommands : Prop :=
  (∀ (ring : Fin 64) (idx : Word) (scans : List StackScan) (f : InFlight) (s : State), Starts s ring idx 0xB f →
    let m := s.markStarted ring.val idx
    let ks := maskStacks f.bistMask
    (∀ op row, (op, row) ∈ [(0, fun r i => Instr.bistWelt r i scans), (1, Instr.bistTiles), (2, Instr.bistSole)] → f.bistKind = op →
      (f.bistMask = 0 → ∃ t, exec (row ring idx) s = .next t ∧ Answered s t f 0x02 0 0) ∧
      (f.bistMask ≠ 0 → (∃ k ∈ ks, (s.jobOn k).isSome = true) → ∃ t, exec (row ring idx) s = .next t ∧ Answered s t f 0x2A 0 0)) ∧
    (f.bistMask ≠ 0 → (∀ k ∈ ks, s.jobOn k = none) → s.bistWaits f.bistMask = false →
      (f.bistKind = 1 → exec (.bistTiles ring idx) s = .next (ks.foldl State.wake m)) ∧
      (f.bistKind = 2 → exec (.bistSole ring idx) s = .next (ks.foldl State.wake m)) ∧
      (f.bistKind = 0 → ∃ t u, exec (.bistWelt ring idx scans) s = .next t ∧ Answered u t f 0 0 u.mram.generation.toNat ∧
        u = (let w := ks.foldl (fun v k => v.selfTest k (scansOf scans k) 3 3) (ks.foldl State.wake m)
          if w.mr 6 = (ks.foldl State.wake m).mr 6 then w.commitPlan w.plan 3 else w)))) ∧
  (∀ (ring : Fin 64) (idx : Word) (found : List UnitId) (f : InFlight) (s : State), s.findDesc ring.val idx = some f → f.opcode = 0xB →
    f.started = true → f.bistKind = 2 → s.dev.mode = .ready → s.bistWaits f.bistMask = false →
    ∃ t, exec (.bistComplete ring idx found) s = .next t ∧ t.mram.generation = nextGeneration s ∧
      t.inflight = s.inflight.filter (fun g => !(g.ring == f.ring && g.idx == f.idx)) ∧
      (t.ring f.ring).waiting = (s.ring f.ring).waiting ++ [⟨f.idx.toNat % (s.ring f.ring).size, 0, BitVec.ofNat 32 (f.u32 4),
        BitVec.ofNat 32 f.jobId, 0xB, 0, BitVec.ofNat 64 (nextGeneration s).toNat⟩] ∧
      ∀ n < 512, t.plan.get .slice n =
        if ⟨.slice, n⟩ ∈ found ∧ s.sliceOk n = true ∧ f.bistMask.getLsbD (n / 64) = true then
          ⟨2, 3, 0⟩
        else s.plan.get .slice n) ∧
  (∀ (ring : Fin 64) (idx : Word) (f : InFlight) (s : State), s.findDesc ring.val idx = some f → f.opcode = 0xB → f.started = true →
    f.bistKind = 2 → s.dev.mode = .ready → s.bistWaits f.bistMask = false →
    ∃ t, exec (.bistComplete ring idx []) s = .next t ∧ Answered (s.commitPlan s.plan 3) t f 0 0 (nextGeneration s).toNat)

/-- What a DEBUG operation that passes its checks leaves before it acts: the entry of R503 and the count. -/
def DebugLogged (s u : State) (ring : Fin 64) (f : InFlight) (op : Nat) : Prop :=
  OneEntry s u 0xD f.jobId 0 ring.val (natToBytes 4 f.debugGroup ++ natToBytes 1 op ++ natToBytes 1 f.debugLane) ∧
    u.sec.dbgCounters = s.sec.dbgCounters.add 0x100 1

/-- DEBUG (R148, R149, R492, R496, R498): a sealed job, or one whose permission is not in force, is refused with NOT_PERMITTED and counted; the
other refusals are DEBUG_TARGET. Every operation that passes is logged and counted. HALT stops a group's issue, RELEASE lets it go on,
READ writes the group record and the vector registers of a halted group, STEP issues the one instruction at the PC of the named lane's
set and completes when its result is visible, or fails after its time. -/
def DebugOperations : Prop :=
  (∀ (ring : Fin 64) (idx : Word) (f : InFlight) (v : Job) (s : State), Starts s ring idx 0xE f → Serves s f v →
    (∀ op row, (op, row) ∈ [(1, Instr.debugHalt), (2, Instr.debugRead), (3, Instr.debugStep), (4, Instr.debugRelease)] → f.debugOp = op →
      (op = 2 → v.image.readLength ≤ f.u32 0x20) →
      (v.keySlot.isSome = true ∨ s.jobFlag v 2 = false → ∃ t, exec (row ring idx) s = .next t ∧ Answered (s.cntDbg 0x108 1) t f 0x01 0 0) ∧
      (v.keySlot = none → s.jobFlag v 2 = true → s.unacked < 15360 → s.findGroup f.jobId f.debugGroup = none →
        ∃ t u, exec (row ring idx) s = .next t ∧ DebugLogged s u ring f op ∧ Answered u t f 0x28 0 0)) ∧
    (∀ n key g, v.keySlot = none → s.jobFlag v 2 = true → s.unacked < 15360 → s.findGroup f.jobId f.debugGroup = some (n, key, g) →
      let put := fun (h : Group) => { s.tile n with groups := smPut (s.tile n).groups key h }
      (∀ op row, (op, row) ∈ [(1, Instr.debugHalt), (2, Instr.debugRead), (3, Instr.debugStep), (4, Instr.debugRelease)] → f.debugOp = op →
        (op = 2 → v.image.readLength ≤ f.u32 0x20) → (op = 3 → g.stepped = false) →
        (if op = 1 then g.halted = true else g.halted = false) → ∃ t u, exec (row ring idx) s = .next t ∧ DebugLogged s u ring f op ∧
          u = { s with mram.audit := u.mram.audit, mram.auditHead := u.mram.auditHead, sec.dbgCounters := u.sec.dbgCounters } ∧
          Answered u t f 0x28 0 0) ∧
      (∀ op row h, (op, row, h) ∈ [(1, Instr.debugHalt, { g with halted := true }),
          (4, Instr.debugRelease, { g with halted := false, stepped := false })] →
        f.debugOp = op → (op = 1 → g.halted = false ∧ g.busy = []) → (op = 4 → g.halted = true) →
        ∃ t u, exec (row ring idx) s = .next t ∧ DebugLogged s u ring f op ∧
          u = { s with mram.audit := u.mram.audit, mram.auditHead := u.mram.auditHead, sec.dbgCounters := u.sec.dbgCounters, tiles := u.tiles } ∧
          u.tile n = put h ∧ (∀ k, k ≠ n → u.tile k = s.tile k) ∧ Answered u t f 0 0 0) ∧
      (f.debugOp = 2 → v.image.readLength ≤ f.u32 0x20 → g.halted = true → (∀ k, s.hostOk (f.u64 0x18) k = true) →
        let text := g.record key v.image.nR ++ (s.tile n).share.readBytes (v.image.lsBase (key / 16) (key % 16)) (4096 * v.image.nV)
        ∃ t u, exec (.debugRead ring idx) s = .next t ∧ DebugLogged s u ring f 2 ∧
          u = { s with mram.audit := u.mram.audit, mram.auditHead := u.mram.auditHead, sec.dbgCounters := u.sec.dbgCounters
                       host.mem := s.host.mem.writeBytes (f.u64 0x18) text } ∧ Answered u t f 0 0 text.length) ∧
      (f.debugOp = 3 → g.stepped = false → g.halted = true → g.isLive f.debugLane = true → ∃ u,
        DebugLogged s u ring f 3 ∧
        u = { s with mram.audit := u.mram.audit, mram.auditHead := u.mram.auditHead, sec.dbgCounters := u.sec.dbgCounters, inflight := u.inflight } ∧
        let w := v.codeWord (g.pcOf f.debugLane)
        let site : Site := ⟨Fin.ofNat 416 n, Fin.ofNat 4 (key / 16), Fin.ofNat 16 key, Fin.ofNat 32 f.debugLane⟩
        let go := u.setGroup n key { g with halted := false }
        let done := go.runWord site w
        (done.tile n = go.tile n → exec (.debugStep ring idx) s = .next u) ∧
        ∀ h, done.tile n ≠ go.tile n → smFind (done.tile n).groups key = some h → done.present f.jobId = true → h.stepDone w = true →
          ∃ t, exec (.debugStep ring idx) s = .next t ∧ Answered (done.setGroup n key { h with halted := true }) t f 0 0 0))) ∧
  (∀ (ring : Fin 64) (idx : Word) (f : InFlight) (n key : Nat) (g : Group) (s : State), s.findDesc ring.val idx = some f → f.opcode = 0xE →
    f.debugOp = 3 → f.started = true → s.findGroup f.jobId f.debugGroup = some (n, key, g) →
    (g.stepped = false → ∃ t, exec (.debugStepTimeout ring idx) s = .next t ∧ Answered s t f 0x28 0 0) ∧
    (g.stepped = true → exec (.debugStepTimeout ring idx) s = .next s))

end Sys2Proof.Machine

/-- BistCommands and DebugOperations, together. Readings of the model's own in it: log entries 45, 46, 64, 70, 124. -/
def Obligations.BistAndDebug : Prop := BistCommands ∧ DebugOperations

namespace Sys2Proof.Machine

/-- A FIRMWARE entry (R427, R503). -/
def FirmwareEntry (s t : State) (kind version result : Nat) : Prop :=
  OneEntry s t 4 0 3 0 (natToBytes 1 kind ++ natToBytes 4 version ++ natToBytes 1 result)

/-- Firmware installs (R325, R420, R427): START is refused while BUSY, in BOOT and BRINGUP, and with a length outside 1 to 2^26; otherwise the
image is read from the host. The install ends with RESULT 4, 2 or 3 for an image that cannot be read, does not verify, or lies below the
floor; otherwise it is stored in the inactive slot, which becomes the active one. Every end is logged. -/
def FirmwareInstalls : Prop :=
  (∀ (v : Word) (s : State), s.linked = true → s.ideBlocks = false → s.unacked < 15359 → v.getLsbD 0 = true →
    ∃ t m, exec (.firmwareInstallStart v) s = .next t ∧ OneEntry s m 1 0 0 0xFFFF (regWritePayload 0 0x5C v.toNat 0) ∧
      t = { s with mram.audit := t.mram.audit, mram.auditHead := t.mram.auditHead, mgt := t.mgt } ∧
      t.mgt = { s.mgt with
        fwBusy := t.mgt.fwBusy, fwResult := t.mgt.fwResult, fwImage := t.mgt.fwImage, fwReadFailed := t.mgt.fwReadFailed
        hostErrors := t.mgt.hostErrors } ∧
      (s.mgt.fwBusy = true → FirmwareEntry m t 0 0 1 ∧ t.mgt = s.mgt) ∧
      (s.mgt.fwBusy = false → s.dev.mode = .boot ∨ s.dev.mode = .bringup → FirmwareEntry m t 0 0 6 ∧ t.mgt.fwResult = 6 ∧ t.mgt.fwBusy = false) ∧
      (s.mgt.fwBusy = false → s.dev.mode ∉ [.boot, .bringup] →
        (s.fwLength < 1 ∨ 2 ^ 26 < s.fwLength → FirmwareEntry m t 0 0 5 ∧ t.mgt.fwResult = 5 ∧ t.mgt.fwBusy = false) ∧
        (1 ≤ s.fwLength → s.fwLength ≤ 2 ^ 26 → t.mgt.fwBusy = true ∧ t.mgt.fwReadFailed = !s.hostOk s.fwAddress s.fwLength ∧
          (s.hostOk s.fwAddress s.fwLength = true → t.mgt.fwImage = s.hostRead s.fwAddress s.fwLength)))) ∧
  (∀ s : State, s.mgt.fwBusy = true → s.unacked < 16384 → s.dev.mode ≠ .limp →
    ∃ t, exec .firmwareInstallDone s = .next t ∧
      t = { s with mram.audit := t.mram.audit, mram.auditHead := t.mram.auditHead, mram.slots := t.mram.slots, flash := t.flash
                   dev.slotChanged := t.dev.slotChanged, mgt.fwBusy := false, mgt.fwResult := t.mgt.fwResult, mgt.fwImage := []
                   mgt.fwReadFailed := false } ∧
      (s.mgt.fwReadFailed = true → FirmwareEntry s t 0 0 4 ∧ t.mgt.fwResult = 4 ∧ t.mram.slots = s.mram.slots ∧ t.flash = s.flash) ∧
      (s.mgt.fwReadFailed = false → firmwareOf s.part.firmwareKey s.mgt.fwImage = none →
        FirmwareEntry s t 0 0 2 ∧ t.mgt.fwResult = 2 ∧ t.mram.slots = s.mram.slots ∧ t.flash = s.flash) ∧
      (∀ x, s.mgt.fwReadFailed = false → firmwareOf s.part.firmwareKey s.mgt.fwImage = some x →
        let floor := (if x.dfw then s.floors.dfw else s.floors.mfw).toNat
        (x.version.toNat < floor → FirmwareEntry s t (if x.dfw then 2 else 1) x.version.toNat 3 ∧ t.mgt.fwResult = 3 ∧
          t.mram.slots = s.mram.slots ∧ t.flash = s.flash) ∧
        (floor ≤ x.version.toNat → FirmwareEntry s t (if x.dfw then 2 else 1) x.version.toNat 0 ∧ t.mgt.fwResult = 0 ∧
          t.dev.slotChanged = true ∧ t.slotImage x.dfw false = some x.bytes ∧ t.slotImage (!x.dfw) false = s.slotImage (!x.dfw) false ∧
          t.slotImage x.dfw true = s.slotImage x.dfw false))) ∧
  (∀ s : State, s.mgt.fwBusy = false → exec .firmwareInstallDone s = .next s)

end Sys2Proof.Machine

/-- InstallDescriptors and FirmwareInstalls, together. Readings of the model's own in it: log entries 70, 89, 107, 125, 131,
132. -/
def Obligations.InstallsAndFirmware : Prop := InstallDescriptors ∧ FirmwareInstalls

/-! ## Jobs, the host link, resets and the bring-up -/

namespace Sys2Proof.Machine

/-- The first 128 bits of a black-box record of a type and code lie at the head, which has moved past them (R519, R521). -/
def Recorded (s t : State) (ty code : Nat) : Prop :=
  ∃ i v, s.mram.bbHead ≤ i ∧ i < t.mram.bbHead ∧ smFind t.mram.bbA i = some v ∧ smFind t.mram.bbB i = some v ∧
    v.toNat / 2 ^ 32 % 256 = ty ∧ v.toNat / 2 ^ 40 % 256 = code

/-- The newest audit entry is of an event. -/
def NewestEntry (t : State) (event : Nat) : Prop :=
  ∃ e, smFind t.mram.audit ((t.mram.auditHead - 1).toNat % 16384) = some e ∧ e.event = BitVec.ofNat 16 event

end Sys2Proof.Machine

/-- LAUNCH, dispatch, SUSPEND, RESUME and ABORT (R147, R150 to R155, R345 to R350, R476, R492, R498): an image is checked in
order, and every attempt is logged; the job then holds its stacks with a key for each of its live HBM stacks; the next group
starts in a free slot of a working tile with every thread at its kernel's entry; SUSPEND writes the context once nothing is
in flight; RESUME restores it; ABORT decides the end. Readings of the model's own in it: log entries 15, 44, 77, 78, 79, 80,
89, 133, 167, 179. -/
def Obligations.JobCommands : Prop :=
  (∀ (ring : Fin 64) (idx : Word) (f : InFlight) (s : State), Starts s ring idx 1 f → s.unacked < 15360 →
    s.hostOk (f.u64 0x10) (f.u32 0x18) = true →
    let b := s.hostRead (f.u64 0x10) (f.u32 0x18)
    let im := imageOf b
    (imageForm b = false → s.launchCheck f.jobId b = .error 0x02) ∧
    (imageForm b = true → s.policy.signer b = none → s.launchCheck f.jobId b = .error 0x08) ∧
    (∀ k, imageForm b = true → s.admitJob f.jobId b = .ok k →
      (∃ e ∈ s.jobs, e.2.image.stackBits &&& im.stackBits ≠ 0) → s.launchCheck f.jobId b = .error 0x2A) ∧
    (∀ e, s.launchCheck f.jobId b = .error e → ∃ t u, exec (.launch ring idx) s = .next t ∧
      u = { s with mram.audit := u.mram.audit, mram.auditHead := u.mram.auditHead } ∧
      OneEntry s u 0xF f.jobId 0 ring.val (sha256 b ++ natToBytes 1 0xFF ++ natToBytes 1 0 ++ natToBytes 1 e) ∧ Answered u t f e 0 0) ∧
    (∀ k, s.launchCheck f.jobId b = .ok k → (s.markStarted ring.val idx).testsOn im.stackBits = true → exec (.launch ring idx) s = .next (s.markStarted ring.val idx)) ∧
    (∀ k, s.launchCheck f.jobId b = .ok k → (s.markStarted ring.val idx).testsOn im.stackBits = false → im.argLength = 0 →
      ∃ t v, exec (.launch ring idx) s = .next t ∧ t.job f.jobId = some v ∧ (∀ j, j ≠ f.jobId → t.job j = s.job j) ∧
        v.image = im ∧ v.ring = ring.val ∧ v.idx = idx ∧ v.nextGroup = 0 ∧ v.exited = 0 ∧ v.ended = none ∧ v.flags = s.policy.flags ∧
        v.keySlot = (s.bindable f.jobId).head? ∧ v.suspended = (f.u32 0x1C).testBit 0 ∧
        OneEntry s t 0xF f.jobId 0 ring.val (sha256 b ++ natToBytes 1 (v.keySlot.getD 0xFF) ++ natToBytes 1 k ++ natToBytes 1 0) ∧
        (∀ h ∈ s.plan.liveOf im.stackBits, ∃ key, smFind t.hbm.keys h = some ⟨BitVec.ofNat 32 f.jobId, key⟩) ∧
        (∀ h, h ∉ s.plan.liveOf im.stackBits → smFind t.hbm.keys h = smFind s.hbm.keys h) ∧
        (∀ q, v.keySlot = some q → (t.keySlot q).state = .bound) ∧ t.rings = s.rings ∧ t.dev = s.dev ∧ t.plan = s.plan)) ∧
  (∀ (tile : Fin 416) (tgp : Fin 4) (slot : Fin 16) (j : Nat) (v : Job) (k : Kernel) (s : State),
    s.jobOn (tile.val / 52) = some j → s.job j = some v → v.runs = true → v.image.kernelOf v.nextGroup = some k → s.tileOk tile.val = true →
    slot.val < v.image.groupsPerTgp → s.groupAt tile.val tgp.val slot.val = none → (s.tile tile.val).power ∈ [.on, .ramping, .parked] →
    ∃ t g, exec (.groupDispatch tile tgp slot) s = .next t ∧ t = { s with tiles := t.tiles, jobs := t.jobs, pwr.regions := t.pwr.regions } ∧
      (∀ n, n ≠ tile.val → t.tile n = s.tile n) ∧ t.groupAt tile.val tgp.val slot.val = some g ∧
      (∀ key, key ≠ 16 * tgp.val + slot.val → smFind (t.tile tile.val).groups key = smFind (s.tile tile.val).groups key) ∧
      g.id = BitVec.ofNat 32 v.nextGroup ∧ g.job = BitVec.ofNat 32 j ∧ g.live = 0xFFFFFFFF ∧ g.vl = 0 ∧ (∀ l r, g.reg l r = 0) ∧
      (∀ l < 32, g.pcOf l = k.entry % 2 ^ 32) ∧ t.job j = some { v with nextGroup := v.nextGroup + 1 } ∧
      (∀ n, n ≠ j → t.job n = s.job n) ∧ ((s.region (tile.val / 52) (tile.val % 52)).state ≠ .parked → t.pwr.regions = s.pwr.regions) ∧
      ((s.region (tile.val / 52) (tile.val % 52)).state = .parked → (t.region (tile.val / 52) (tile.val % 52)).waiting = true)) ∧
  (∀ (ring : Fin 64) (idx : Word) (f : InFlight) (v : Job) (s : State), Starts s ring idx 2 f → Serves s f v →
    let a := f.u64 0x10
    let n := f.u64 0x18
    let m := (s.markStarted ring.val idx).setJob f.jobId { v with suspending := true }
    (v.suspended = true ∨ s.otherSuspend f = true ∨ v.image.region a n = false ∨ n < s.contextBound v.image →
      ∃ t, exec (.suspend ring idx) s = .next t ∧ Answered s t f 0x02 0 0) ∧
    (v.suspended = false → s.otherSuspend f = false → v.image.region a n = true → s.contextBound v.image ≤ n →
      (s.drained v.image = false → exec (.suspend ring idx) s = .next m) ∧
      (s.drained v.image = true →
        let w := (m.jobTiles v.image).foldl (fun t n => if h : n < 416 then t.flushL1 ⟨n, h⟩ false else t)
          (m.unpark fun k => v.image.stackBits.getLsbD k)
        ∀ x, w.writeMem v.image byFirmware a (w.contextOf v) = .ok x → x.present f.jobId = true →
        ∃ t u z, exec (.suspend ring idx) s = .next t ∧ Answered u t f 0 0 (w.contextOf v).length ∧ u.job f.jobId = some z ∧
          z.suspended = true ∧ z.suspending = false ∧ z.context = some (a, n) ∧
          (∀ k ∈ x.jobTiles v.image, (u.tile k).groups = [] ∧ (u.tile k).face0 = Face.free ∧ (u.tile k).face1 = Face.free ∧
            (u.tile k).share = (x.tile k).share)))) ∧
  (∀ (ring : Fin 64) (idx : Word) (f : InFlight) (v : Job) (s : State), Starts s ring idx 3 f → Serves s f v →
    let a := f.u64 0x10
    let n := f.u64 0x18
    let m := s.markStarted ring.val idx
    (v.suspended = false ∨ v.image.region a n = false ∨ n < 0xA0 → ∃ t, exec (.resume ring idx) s = .next t ∧ Answered s t f 0x02 0 0) ∧
    (v.suspended = true → v.image.region a n = true → 0xA0 ≤ n → ∀ h x b y, m.readMem v.image byFirmware a 0x80 = .ok (h, x) → x.present f.jobId = true →
      0xA0 ≤ le h 0x10 8 → le h 0x10 8 ≤ n → x.readMem v.image byFirmware a (le h 0x10 8) = .ok (b, y) → y.present f.jobId = true →
      (∀ e, y.contextCheck b v.image = some e → ∃ t, exec (.resume ring idx) s = .next t ∧ Answered y t f e 0 0) ∧
      (y.contextCheck b v.image = none → v.image.rngLane = false ∨ le b 8 8 % 65536 = 128 →
        ∃ t u, exec (.resume ring idx) s = .next t ∧ Answered u t f 0 0 0 ∧ ∃ z, u.job f.jobId = some z ∧ z.suspended = false ∧
          z.everStarted = true ∧ z.context = none ∧ z.nextGroup = le b 0x1C 4 ∧ z.image = v.image))) ∧
  (∀ (ring : Fin 64) (idx : Word) (f : InFlight) (v : Job) (s : State), Starts s ring idx 4 f → Serves s f v →
    ∃ t, exec (.abort ring idx) s = .next t ∧ t = { s.markStarted ring.val idx with jobs := t.jobs } ∧
      t.job f.jobId = some { v with ended := some (JobEnd.plain 0x0A s.aon v.image.stackBits) } ∧ ∀ j, j ≠ f.jobId → t.job j = s.job j)

namespace Sys2Proof.Machine

/-- What every event of R318 leaves: no ring and no descriptor in flight, no BAR2 binding, no status page, IDE ended, and every job's end
decided, without a completion. -/
def HostGone (s t : State) : Prop :=
  t.inflight = [] ∧ t.rings = [] ∧ t.mgt.bar2Job = 0 ∧ t.mgt.statusPage = 0 ∧ t.host.ide = false ∧ t.sec.ideSet = false ∧
    (∀ n < 16, (t.keySlot n).ide = true → (t.keySlot n).state ≠ .ready) ∧
    (∀ j v, s.job j = some v → ∃ w e, t.job j = some w ∧ w.ended = some e ∧ e.silent = true ∧
      (∀ d, v.ended = some d → e = { d with silent := true }) ∧ (v.ended = none → e.status = 0x0A))

end Sys2Proof.Machine

/-- The end of a job and of the host link (R258, R318, R345, R348, R490, R503): what a job left on its stacks is gone from
tiles, soles, HBM keys and measurement registers, its bound slot is empty, and its completion waits behind those of its ring;
FLR, hot reset and loss of the link end every job without one; the link comes up from BOOT on at a width and rate of R316.
Readings of the model's own in it: log entries 71, 81, 97, 112, 167, 196. -/
def Obligations.JobEndsAndHostLink : Prop :=
  (∀ (job : Word) (v : Job) (e : JobEnd) (s : State), s.dev.shuttingDown = false → s.job job.toNat = some v → v.ended = some e →
    e.silent = false → (s.findDesc v.ring v.idx).isSome = true →
    (∀ g ∈ s.inflight, g.ring = v.ring → g.idx = v.idx → g.opcode = 1) →
    let on := fun k => v.image.stackBits.getLsbD k
    ∃ t, exec (.jobEndScrub job) s = .next t ∧
      (∀ n, on (n / 52) = true → (t.tile n).groups = [] ∧ (t.tile n).share = [] ∧ (t.tile n).l1 = []) ∧
      (∀ l, on (lineStack l) = true → t.soleLine l = SoleLine.absent) ∧
      (∀ a, on (a / 2 ^ 37) = true → t.hbm.mem.read a = 0) ∧ (∀ a, on (a / 2 ^ 37) = false → t.hbm.mem.read a = s.hbm.mem.read a) ∧
      (∀ h, on (h / 2) = true → smFind t.hbm.keys h = none) ∧ (∀ k < 8, on k = true → t.mr (8 + k) = 0) ∧
      (∀ q, v.keySlot = some q → (t.keySlot q).state = .empty) ∧ t.findDesc v.ring v.idx = none ∧
      (∃ c, (t.ring v.ring).waiting.getLast? = some c ∧ c.status = e.status ∧ c.detail = e.detail ∧
        c.slot = v.idx.toNat % (s.ring v.ring).size ∧ (e.status = 0 → c.result = BitVec.ofNat 64 v.exited))) ∧
  (∀ s : State, s.host.up = true → s.unacked < 16000 → ∃ t, exec .flrOrHotReset s = .next t ∧ HostGone s t ∧ t.host.up = true ∧
    t.mgt.flrs.toNat = min (s.mgt.flrs.toNat + 1) (2 ^ 32 - 1) ∧ NewestEntry t 0x12 ∧ t.dev = s.dev ∧ t.tiles = s.tiles ∧ t.hbm = s.hbm ∧
    t.fabric = s.fabric) ∧
  (∀ s : State, s.host.up = true → s.unacked < 16000 → ∃ t, exec .cxlLinkLoss s = .next t ∧ HostGone s t ∧ t.host.up = false ∧
    t.host.width = 0 ∧ t.host.rate = 0 ∧ t.mgt.linkDowns.toNat = min (s.mgt.linkDowns.toNat + 1) (2 ^ 32 - 1) ∧ NewestEntry t 0x12 ∧
    t.dev = s.dev ∧ t.tiles = s.tiles ∧ t.hbm = s.hbm ∧ t.fabric = s.fabric) ∧
  (∀ (width : BitVec 5) (rate : BitVec 3) (s : State), s.host.up = false → s.dev.mode ∉ [.off, .aon] → width.toNat ∈ [4, 8, 16] →
    rate.toNat < 3 → exec (.cxlLinkUp width rate) s = .next { s with host.up := true, host.width := width, host.rate := rate })

namespace Sys2Proof.Machine

/-- A device that starts step 2 of the cold sequence (R402, R412, R476): in BOOT, with no job, ring, descriptor or resident group, the link down, MR0 the ROM's
digest and MR1 to MR7 zero. -/
def ColdStart (s t : State) : Prop :=
  t.dev.mode = .boot ∧ t.dev.step = .pair ∧ t.dev.cause = 0 ∧ t.jobs = [] ∧ t.rings = [] ∧ t.inflight = [] ∧ t.tiles = [] ∧ t.host.up = false ∧ t.regs = [] ∧
    (∀ n, t.keySlot n = SecSlot.empty) ∧ t.mr 0 = digestBits (sha256 (digestBytes 0 ++ sha256 s.part.rom)) ∧ (∀ n < 8, n ≠ 0 → t.mr n = 0) ∧
    t.mram.plan = s.mram.plan ∧ t.mram.policy = s.mram.policy ∧ t.mram.licence = s.mram.licence ∧ t.mram.defects = s.mram.defects ∧ t.flash = s.flash

/-- Every job's end is decided, and none will be completed on its ring. -/
def JobsSilenced (s t : State) : Prop :=
  ∀ j v, s.job j = some v → ∃ w e, t.job j = some w ∧ w.image = v.image ∧ w.ended = some e ∧ e.silent = true

/-- What a warm reset leaves at once (R412, R415, R490): link and ports down, the rings gone, the jobs over and silent, the key slots
empty, every welt quiescing and HBM in self-refresh; the registers of the kept domains stand, and the floor plan too. -/
def WarmStart (s t : State) : Prop :=
  t.inflight = [] ∧ t.rings = [] ∧ t.host.up = false ∧ JobsSilenced s t ∧ (∀ n < 16, (t.keySlot n).state = .empty) ∧
    (∀ p, (t.port p).up = false) ∧ t.dev.stackReset = 0 ∧ t.dev.heldReset = none ∧ t.plan = s.plan ∧ t.mram.plan = s.mram.plan ∧
    (∀ k < 8, (t.weltStack k).quiescing = true) ∧ t.hbm.selfRefresh = BitVec.allOnes 16 ∧
    ∀ k, smFind t.regs k = if warmKeeps k then smFind s.regs k else none

/-- What a compute reset of all stacks leaves at once (R413, R415): the slip-on path begun, every welt quiescing and HBM in
self-refresh; the jobs end, to be completed; link, rings, floor plan and registers stand. -/
def ComputeStart (s t : State) : Prop :=
  t.dev.mode = .bringup ∧ t.dev.step = .slip ∧ t.dev.slip = some ⟨false, false⟩ ∧ t.dev.heldReset = none ∧ t.dev.stackReset = 0 ∧
    t.host.up = s.host.up ∧ t.rings = s.rings ∧ t.inflight = s.inflight ∧ t.plan = s.plan ∧ t.regs = s.regs ∧
    (∀ k < 8, (t.weltStack k).quiescing = true) ∧ t.hbm.selfRefresh = BitVec.allOnes 16 ∧
    ∀ j v, s.job j = some v → ∃ w, t.job j = some w ∧ w.image = v.image ∧ w.ended = some (match v.ended with
      | some e => e | none => JobEnd.plain 0x0A s.aon v.image.stackBits)

/-- What a stack-fatal fault of cause 4 does to the jobs (R512, R516): those of the stack whose ends are open end with it. -/
def StackJobsEnd (s t : State) (k : Nat) : Prop :=
  ∀ j v, s.job j = some v → ∃ w, t.job j = some w ∧ w.image = v.image ∧
    (v.ended.isSome = true ∨ v.image.stackBits.getLsbD k = false → w = v) ∧
    (v.ended = none → v.image.stackBits.getLsbD k = true → ∃ e, w.ended = some e ∧ e.status = 0x3C ∧ e.code = 4)

end Sys2Proof.Machine

/-- Resets and device faults (R324, R412 to R416, R509, R510, R513, R527): MGT_RESET with its key asks for a warm, compute or
cold reset, and is logged; without it nothing but the entry happens. A warm reset drops link and ports and ends the jobs; a
compute reset ends the jobs and keeps the link; both begin the slip-on path, a warm reset after an install with step 2 (R416,
log entry 149), and wait in BOOT and BRINGUP until the device is past them; in LIMP a warm reset becomes cold and a compute
reset has no stack to reset (the model's reading, log entry 98). A cold reset starts again from step 2. A stack controller
that stops is stack-fatal for its stack; the other faults record their cause and lead to a cold reset. Readings of the
model's own in it: log entries 89, 98, 99, 100, 101, 105, 110, 111, 149, 153, 198, 209, 211, 214. -/
def Obligations.ResetsAndDeviceFaults : Prop :=
  (∀ (key : BitVec 16) (s : State) (kind : Nat) (row : BitVec 16 → Instr),
    (kind, row) ∈ [(1, Instr.warmReset), (2, Instr.computeReset), (3, Instr.coldReset)] → s.linked = true → s.unacked < 16384 →
    key ≠ 0xA55A ∨ s.dev.mode = .shutdown ∨ (kind = 2 ∧ s.dev.mode = .limp) → ∃ t, exec (row key) s = .next t ∧
      t = { s with mram.audit := t.mram.audit, mram.auditHead := t.mram.auditHead } ∧
      OneEntry s t 1 0 0 0xFFFF (regWritePayload 0 0x40 (kind + 65536 * key.toNat) 0)) ∧
  (∀ s : State, s.linked = true → s.dev.mode ∈ [.check, .ready, .held] → ∃ t, exec (.warmReset 0xA55A) s = .next t ∧ WarmStart s t ∧
    (s.dev.slotChanged = false → t.dev.mode = .bringup ∧ t.dev.step = .slip ∧ t.dev.slip = some ⟨true, false⟩) ∧
    (s.dev.slotChanged = true → t.dev.mode = .boot ∧ t.dev.step = .pair ∧ t.dev.slip = some ⟨true, true⟩)) ∧
  (∀ s : State, s.linked = true → s.dev.mode ∈ [.check, .ready, .held] → ∃ t, exec (.computeReset 0xA55A) s = .next t ∧ ComputeStart s t) ∧
  (∀ s : State, s.linked = true → s.dev.mode ≠ .shutdown → s.dev.latched = none → ∃ t, exec (.coldReset 0xA55A) s = .next t ∧ ColdStart s t) ∧
  (∀ s : State, s.linked = true → s.dev.mode = .limp → s.dev.latched = none → ∃ t, exec (.warmReset 0xA55A) s = .next t ∧ ColdStart s t) ∧
  (∀ (row : BitVec 16 → Instr) (k : ResetKind) (s : State), (k, row) ∈ [(.warm, Instr.warmReset), (.compute, Instr.computeReset)] →
    s.linked = true → s.dev.mode ∈ [.boot, .bringup] → s.unacked < 16384 → ∃ t, exec (row 0xA55A) s = .next t ∧
      t = { s with mram.audit := t.mram.audit, mram.auditHead := t.mram.auditHead, dev.heldReset := some k }) ∧
  (∀ (row : BitVec 16 → Instr) (key : BitVec 16) (s : State), row ∈ [Instr.warmReset, Instr.computeReset, Instr.coldReset] →
    s.linked = false → exec (row key) s = .next s) ∧
  (∀ s : State, s.dev.heldReset = some .compute → s.dev.mode ∈ [.check, .ready, .held] → ∃ t, exec .heldResetRelease s = .next t ∧
    ComputeStart s t) ∧
  (∀ s : State, s.dev.heldReset = some .warm → s.dev.mode ∈ [.check, .ready, .held] → ∃ t, exec .heldResetRelease s = .next t ∧ WarmStart s t ∧
    t.dev.mode = if s.dev.slotChanged then .boot else .bringup) ∧
  (∀ s : State, s.dev.heldReset = some .compute → s.dev.mode = .limp → exec .heldResetRelease s = .next { s with dev.heldReset := none }) ∧
  (∀ s : State, s.dev.heldReset = some .warm → s.dev.mode = .limp → s.dev.latched = none → ∃ t, exec .heldResetRelease s = .next t ∧ ColdStart s t) ∧
  (∀ s : State, s.dev.heldReset = none ∨ s.dev.mode ∉ [.check, .ready, .held, .limp] → exec .heldResetRelease s = .next s) ∧
  (∀ (stack : Fin 8) (s : State), s.dev.stackUp.getLsbD stack.val = true → s.mram.bbHead < 65024 →
    ∃ t, exec (.scHeartbeatTimeout stack) s = .next t ∧ Recorded s t 1 4 ∧ StackJobsEnd s t stack.val ∧ t.dev.mode = s.dev.mode ∧
      (∀ k, k ≠ stack.val ∨ s.dev.mode ≠ .ready → t.weltStack k = s.weltStack k) ∧
      (s.dev.mode = .ready → t.dev.stackReset = s.dev.stackReset ||| BitVec.ofNat 8 (2 ^ stack.val) ∧ (t.weltStack stack.val).quiescing = true) ∧
      (s.dev.mode ≠ .ready → t.dev = { s.dev with
        heldReset := if s.dev.mode ∈ [.boot, .bringup, .check, .held] then some .compute else s.dev.heldReset })) ∧
  (∀ (stack : Fin 8) (s : State), s.dev.stackUp.getLsbD stack.val = false → exec (.scHeartbeatTimeout stack) s = .next s) ∧
  (∀ (row : Instr) (cause : Nat) (s : State), (row, cause) ∈ [(Instr.dcHeartbeatTimeout, 0x13), (.iodUncorrectable 0, 0x14), (.iodUncorrectable 1, 0x14),
      (.mcLockstepMismatch, 0x12)] → s.dev.mode ∈ [.bringup, .check, .ready, .held] → s.mram.bbHead < 60000 → s.dev.latched = none →
    ∃ t, exec row s = .next t ∧ ColdStart s t ∧ Recorded s t 1 cause ∧ t.dev.latched = none)

/-- The bring-up (R402 to R411, R415, R419, R476): the always-on domain starts at 12 V good; the first admissible pair of
firmware runs, or the device enters LIMP; the stacks power in ascending order; tests, training and the floor plan follow,
which is committed and may hold the device; the slip-on path ends in CHECK or HELD; and the comparison with the last ends in
READY, or in HELD with CAUSE 3. Out of its order no step has an effect. Readings of the model's own in it: log entries 3, 4,
56, 102, 103, 105, 106, 108, 109, 156, 210, 214. -/
def Obligations.BringUpSteps : Prop :=
  (∀ s : State, s.dev.mode = .off → ∃ t, exec .twelveVGood s = .next t ∧ t.dev.mode = .aon ∧ t.jobs = [] ∧ t.rings = [] ∧ t.tiles = [] ∧
    t.sec.entropyOk = true ∧ t.thm.tread = t.mram.tread ∧ t.thm.rounds = 0 ∧ t.mram.fabricId = s.mram.fabricId ∧ t.policy = s.policy) ∧
  (∀ s : State, s.dev.mode ≠ .off → exec .twelveVGood s = .next s) ∧
  (∀ (s : State) (x y : Firmware), s.dev.mode = .boot → s.dev.step = .pair → s.pairOf false false = some (x, y) →
    ∃ t, exec .firmwarePairChoice s = .next t ∧ t.dev.mode = .bringup ∧ t.dev.step = (if s.dev.slip.isSome then .slip else .power) ∧
      t.dev.mfwVersion = x.version ∧ t.dev.dfwVersion = y.version ∧ t.mram.slots = s.mram.slots ∧
      t.mr 1 = digestBits (sha256 (digestBytes (s.mr 1) ++ sha256 x.bytes)) ∧ t.mr 2 = digestBits (sha256 (digestBytes (s.mr 2) ++ sha256 y.bytes)) ∧
      t.variant = s.licenceRec.variant.toNat) ∧
  (∀ s : State, s.dev.mode = .boot → s.dev.step = .pair → (∀ a b, s.pairOf a b = none) → ∃ t, exec .firmwarePairChoice s = .next t ∧
    t.dev.mode = .limp ∧ t.dev.slip = none ∧ (t.dev.cause = 4 ∨ t.dev.cause = 5) ∧
    (t.dev.cause = 5 ↔ ∃ a b, s.pairUnverified a b = true)) ∧
  (∀ (stack : Fin 8) (s : State), s.dev.mode = .bringup → s.dev.step = .power → s.dev.waitInput = false →
    s.dev.stackSettled.toNat = 2 ^ stack.val - 1 → (s.brokenOn stack.val).length < 3 → (s.brokenOn (8 + stack.val)).length < 3 →
    s.noPower stack.val = false → ∃ t, exec (.stackPowerUp stack true) s = .next t ∧
      t = { s with dev.stackUp := s.dev.stackUp ||| BitVec.ofNat 8 (2 ^ stack.val), dev.stackSettled := s.dev.stackSettled ||| BitVec.ofNat 8 (2 ^ stack.val)
                   dev.step := if stack.val = 7 then .tests else .power, pwr.regions := t.pwr.regions, tiles := t.tiles
                   thm.sensors := t.thm.sensors } ∧
      (∀ n, n / 52 ≠ stack.val → t.tile n = s.tile n) ∧
      (∀ n < 52, (t.tile (52 * stack.val + n)).power = if 2 ≤ (s.failedPhases stack.val n).length then .dark else .on)) ∧
  (∀ (stack : Fin 8) (ok : Bool) (s : State), s.dev.stackSettled.toNat ≠ 2 ^ stack.val - 1 → exec (.stackPowerUp stack ok) s = .next s) ∧
  (∀ (found : List UnitId) (s : State), s.dev.mode = .bringup → s.dev.step = .tests → ∃ t, exec (.startUpTests found) s = .next t ∧
    t.dev.step = .training ∧ t.dev.mode = .bringup ∧
    (∀ n < 416, s.dev.stackUp.getLsbD (n / 52) = true → (t.tile n).rng.katDone = true ∧
      ((t.tile n).rng.katPass = true → rngKnownAnswer = true) ∧
      (⟨.tile, n⟩ ∉ found → rngKnownAnswer = true → (t.tile n).rng.katPass = true)) ∧
    (∀ u ∈ found, s.tested u = true → s.part.fuseBad.contains u = true ∨ (t.defectOf u.kind u.num).isSome = true)) ∧
  (∀ (failed : List (Fin 512)) (refused : List (BitVec 34)) (links : List LinkResult) (s : State), s.dev.mode = .bringup → s.dev.step = .training →
    s.dev.hbmTrained = false → ∃ t, exec (.hbmTraining failed refused links) s = .next t ∧ t.dev.hbmTrained = true ∧ t.hbm.flips = [] ∧
      t.hbm.mem = [] ∧ t.hbm.residue = [] ∧
      t.mram.hbmRows = (s.mram.hbmRows.map fun r => { r with applied := !refused.any fun l => l.toNat == r.location.toNat }) ∧
      (t.dev.step = .plan ↔ s.dev.weltTrained = s.dev.stackUp) ∧ (∀ c ∈ failed, (⟨.hbmChannel, c.val⟩, 7) ∈ t.dev.found)) ∧
  (∀ s : State, s.dev.mode = .bringup → s.dev.step = .plan → ∃ t, exec .floorPlanBuild s = .next t ∧
    t.mram.generation = nextGeneration s ∧ t.plan.generation = nextGeneration s ∧ t.plan.origin = 0 ∧
    (∀ n < 416, t.plan.get .tile n = s.tileEntry n) ∧ (∀ n < 512, t.plan.get .slice n = s.sliceEntry n) ∧
    t.mram.plan = TwoCopy.both (some t.plan) ∧
    (s.defects.incomplete = true → t.dev.mode = .held ∧ t.dev.cause = 8) ∧
    (s.defects.incomplete = false → (∃ k < 8, t.plan.below k = true) → t.dev.mode = .held ∧ t.dev.cause = 1) ∧
    (s.defects.incomplete = false → (∀ k < 8, t.plan.below k = false) → t.plan.meets25 = false → t.dev.mode = .held ∧ t.dev.cause = 2) ∧
    (s.defects.incomplete = false → (∀ k < 8, t.plan.below k = false) → t.plan.meets25 = true → t.dev.mode = .bringup ∧ t.dev.step = .ports ∨
      t.dev.mode = .check)) ∧
  (∀ (scans : List StackScan) (refused : List (BitVec 34)) (s : State), s.dev.mode = .bringup → s.dev.step = .slip →
    s.dev.slip = some ⟨false, false⟩ → ∃ t, exec (.slipOn scans refused true) s = .next t ∧
      t.plan.generation = t.mram.generation ∧ (nextGeneration s).toNat ≤ t.mram.generation.toNat ∧ t.plan.origin = 1 ∧
      t.dev.mode = (if t.holdCause.isSome then .held else .check) ∧ (∀ n, (t.tile n).groups = []) ∧ t.hbm.selfRefresh = 0 ∧
      ∀ k < 8, (t.weltStack k).quiescing = false) ∧
  (∀ (scans : List StackScan) (refused : List (BitVec 34)) (s : State), s.dev.mode = .bringup → s.dev.step = .slip →
    s.dev.slip = some ⟨true, false⟩ → s.dev.latched = none → s.mram.bbHead < 60000 →
    ∃ t, exec (.slipOn scans refused false) s = .next t ∧ ColdStart s t ∧ Recorded s t 1 0x14) ∧
  (∀ (scans : List StackScan) (refused : List (BitVec 34)) (ok : Bool) (s : State), s.dev.mode = .ready →
    (s.dev.stackReset = 0 → exec (.slipOn scans refused ok) s = .next s) ∧
    (s.dev.stackReset ≠ 0 → ∃ t, exec (.slipOn scans refused ok) s = .next t ∧ t.dev.stackReset = 0 ∧ t.plan.origin = 1 ∧
      (∀ n, s.dev.stackReset.getLsbD (n / 52) = true → (t.tile n).groups = []) ∧
      ((∃ k < 8, s.dev.stackReset.getLsbD k = true ∧ t.plan.below k = true) → t.dev.mode = .held ∧ t.dev.cause = 1) ∧
      ((∀ k < 8, s.dev.stackReset.getLsbD k = true → t.plan.below k = false) →
        (t.plan.meets25 = false → t.dev.mode = .held ∧ t.dev.cause = 2) ∧ (t.plan.meets25 = true → t.dev.mode = .ready)))) ∧
  (∀ s : State, s.dev.mode = .check → ∃ t, exec .lastCompare s = .next t ∧
    let entry := fun p => match s.dev.last with | some b => lastEntry b p | none => (⟨0, 0, 0, 0⟩ : LastEntry)
    ((∃ p < 18, (s.comparePort (entry p) p).2 = true) → t.dev.mode = .held ∧ t.dev.cause = 3) ∧
    ((∀ p < 18, (s.comparePort (entry p) p).2 = false) → t.dev.mode = .ready ∧ t.dev.cause = 0 ∧ t.dcClock = true)) ∧
  (∀ s : State, s.dev.mode ≠ .check → exec .lastCompare s = .next s)

/-! ## Power and heat -/

namespace Sys2Proof.Machine

/-- One region of a stack takes a value; every other region stays. -/
def RegionBecomes (s t : State) (k r : Nat) (g : Region) : Prop :=
  t.region k r = g ∧ ∀ n, n ≠ 56 * k + r → smGet Region.reset t.pwr.regions n = smGet Region.reset s.pwr.regions n

/-- The job that holds a stack has the job-fatal fault 0x38, if its end was not decided before (R441, R442, R511); where the loss of
the tile takes the stack below R4, the stack-fatal fault of cause 1 decides its end (R512, R527). -/
def RegionFaulted (s t : State) (k : Nat) : Prop :=
  ∀ j v, s.jobOn k = some j → s.job j = some v → v.ended = none → ∃ w e, t.job j = some w ∧ w.ended = some e ∧
    if t.plan.below k = true ∧ s.plan.below k = false then e.status = 0x3C ∧ e.code = 1 else e.status = 3 ∧ e.code = 0x38

end Sys2Proof.Machine

/-- The 12 V input and the power tier (R428 to R430, R448 to R450, R467): a sample is kept and, in READY, charged to the
window, and a sample above 1.15 W_T steps the setting down at once; a window's end publishes the average, posts a request
above W_T, and moves the setting; ENFORCE_AT enforces or clears it; a hundred samples above the limit at setting 10 are
fatal; loss of 12 V leaves OFF, an overvoltage opens the input, and a stable input closes it. Readings of the model's own in
it: log entries 3, 4, 113, 114. -/
def Obligations.InputAndPowerTier : Prop :=
  (∀ (mv w : BitVec 16) (s : State), s.dev.mode ≠ .off → ∃ t, exec (.inputSample mv w) s = .next t ∧
    t = { s with mram.audit := t.mram.audit, mram.auditHead := t.mram.auditHead, mram.auditAck := t.mram.auditAck, sec := t.sec, pwr := t.pwr } ∧
    t.pwr.millivolts = mv.toNat ∧ t.pwr.watts = w.toNat ∧ t.pwr.highEpisode = decide (12600 < mv.toNat) ∧
    t.pwr.inputHigh = (s.pwr.inputHigh || decide (12600 < mv.toNat)) ∧
    t.pwr.recent = (s.aon.toNat, w.toNat) :: s.pwr.recent.filter (fun e => decide (s.aon.toNat < e.1 + 40000)) ∧
    t.pwr.regions = s.pwr.regions ∧ t.pwr.active = s.pwr.active ∧
    (s.dev.mode ≠ .ready → t.pwr.windowSum = s.pwr.windowSum ∧ t.pwr.setting = s.pwr.setting ∧ t.pwr.enforced = s.pwr.enforced) ∧
    (s.dev.mode = .ready → t.pwr.windowSum = s.pwr.windowSum + w.toNat ∧ t.pwr.windowCount = s.pwr.windowCount + 1 ∧
      (115 * s.tier < 100 * w.toNat → t.pwr.fast = true ∧ t.pwr.enforced = true ∧
        (10 < s.pwr.setting → t.pwr.setting = s.pwr.setting - 1 ∧ t.pwr.fastRun = 0) ∧
        (s.pwr.setting ≤ 10 → t.pwr.setting = s.pwr.setting ∧ t.pwr.fastRun = s.pwr.fastRun + 1)) ∧
      (100 * w.toNat ≤ 115 * s.tier → t.pwr.setting = s.pwr.setting ∧ t.pwr.enforced = s.pwr.enforced ∧ t.pwr.fastRun = 0 ∧
        t.pwr.fast = (s.pwr.fast && decide (s.tier < w.toNat))))) ∧
  (∀ s : State, s.dev.mode = .ready → 0 < s.pwr.windowCount →
    let above := s.tier * s.pwr.windowCount < s.pwr.windowSum
    let low := 10 * s.pwr.windowSum ≤ 9 * s.tier * s.pwr.windowCount
    let down := if s.pwr.enforced = true ∧ above ∧ 10 < s.pwr.setting then s.pwr.setting - 1 else s.pwr.setting
    let setting := if low ∧ down < 27 then down + 1 else down
    let run := if s.pwr.enforced = true ∧ low ∧ s.pwr.windowStart = 27 then s.pwr.coolRun + 1 else 0
    ∃ t, exec .powerWindowEnd s = .next t ∧
      t = { s with mram.audit := t.mram.audit, mram.auditHead := t.mram.auditHead, mram.auditAck := t.mram.auditAck, sec := t.sec, pwr := t.pwr } ∧
      t.pwr.average = s.pwr.windowSum / s.pwr.windowCount ∧ t.pwr.windows = s.pwr.windows + 1 ∧ t.pwr.windowSum = 0 ∧ t.pwr.windowCount = 0 ∧
      t.pwr.setting = setting ∧ t.pwr.windowStart = setting ∧ (t.pwr.lastOver = true ↔ above) ∧
      (run < 10 → t.pwr.enforced = s.pwr.enforced ∧ t.pwr.coolRun = run ∧
        (above → s.pwr.active = false → t.pwr.active = true ∧ t.pwr.judged = false ∧ t.pwr.target = s.tier ∧
          t.pwr.requestAt = s.aon + BitVec.ofNat 64 (s.reg 0x500C 200 * 40000)) ∧
        (¬above ∨ s.pwr.active = true → t.pwr.active = s.pwr.active ∧ t.pwr.requestAt = s.pwr.requestAt)) ∧
      (10 ≤ run → t.pwr.active = false ∧ t.pwr.enforced = false ∧ t.pwr.target = 0)) ∧
  (∀ s : State, s.dev.mode = .ready → s.pwr.active = true → s.pwr.judged = false → s.pwr.requestAt.toNat ≤ s.aon.toNat →
    ∃ t, exec .powerEnforceAt s = .next t ∧
      t = { s with mram.audit := t.mram.audit, mram.auditHead := t.mram.auditHead, mram.auditAck := t.mram.auditAck, sec := t.sec, pwr := t.pwr } ∧
      (s.pwr.lastOver = true → t.pwr = { s.pwr with enforced := true, judged := true }) ∧
      (s.pwr.lastOver = false → t.pwr = { s.pwr with active := false, target := 0, requestAt := 0 })) ∧
  (∀ s : State, s.dev.mode = .ready → 100 ≤ s.pwr.fastRun → s.mram.bbHead < 60000 → s.dev.latched = none → ∃ t, exec .fastLimitFatal s = .next t ∧
    t.dev.mode = .boot ∧ t.jobs = [] ∧ Recorded s t 1 0x11) ∧
  (∀ s : State, s.pwr.fastRun < 100 → exec .fastLimitFatal s = .next s) ∧
  (∀ s : State, s.dev.mode ≠ .off → s.mram.bbHead < 60000 → ∃ t, exec .lossOf12V s = .next t ∧ t.dev.mode = .off ∧ t.dev.step = Dev.reset.step ∧
    t.pwr = Pwr.reset ∧ t.thm = Thm.reset ∧ t.jobs = [] ∧ t.tiles = [] ∧ t.rings = [] ∧ t.regs = [] ∧ t.host.up = false ∧ Recorded s t 4 0 ∧
    t.mram.plan = s.mram.plan ∧ t.flash = s.flash) ∧
  (∀ s : State, s.dev.mode = .off → exec .lossOf12V s = .next s ∧ ∀ mv w, exec (.inputSample mv w) s = .next s) ∧
  (∀ s : State, s.dev.mode = .aon → s.mram.bbHead < 60000 → ∃ t, exec .inputOvervoltage s = .next t ∧ Recorded s t 1 0x10 ∧
    t = { s with mram.bbA := t.mram.bbA, mram.bbB := t.mram.bbB, mram.bbHead := t.mram.bbHead, pwr.inputOpen := true, dev.waitInput := true }) ∧
  (∀ s : State, s.dev.mode ∈ [.bringup, .check, .ready, .held] → s.mram.bbHead < 60000 → s.dev.latched = none →
    ∃ t, exec .inputOvervoltage s = .next t ∧ t.dev.mode = .boot ∧ t.jobs = [] ∧ t.pwr.inputOpen = true ∧ t.dev.waitInput = true ∧
      t.dev.stackUp = 0 ∧ Recorded s t 1 0x10) ∧
  (∀ s : State, exec .inputStable s = .next { s with pwr.inputOpen := false, dev.waitInput := false })

namespace Sys2Proof.Machine

/-- Phases and regions (R432 to R443, R519, R520): a failed phase is recorded; the first of a tile region caps its tile, the second darkens it with the fault 0x38 of the
job, the third of an uncore region is stack-fatal; a second module phase leaves the stack unable to power; a first trip switches the region off until its
one re-ramp, a second darkens it; an uncore trip is stack-fatal; after the job's end the region asks for its re-ramp, and once that runs it returns a tile that
passes its tests. The
drop check counts suspect samples in a row; below its hundredth it does nothing. -/
def PhaseAndRegionFailures : Prop :=
  (∀ (stack : Fin 8) (phase : Fin 292) (row : Instr) (reason : Nat) (s : State),
    (row, reason) ∈ [(.phaseRegulationLoss stack phase, 0), (.phaseOverCurrent stack phase, 1), (.dropCheckFail stack phase, 2)] →
    (reason = 2 → 100 ≤ smGet 0 s.pwr.drop (292 * stack.val + phase.val)) → s.dev.stackUp.getLsbD stack.val = true →
    292 * stack.val + phase.val ∉ s.defects.phases → s.mram.bbHead < 60000 →
    let r := (phaseRegion phase.val).1
    let g := s.region stack.val r
    let h : Region := { g with failed := g.failed ||| BitVec.ofNat 8 (2 ^ (phaseRegion phase.val).2) }
    let tile := 52 * stack.val + r
    g.state ≠ .dark → ∃ t, exec row s = .next t ∧ t.defects.phases = s.defects.phases ++ [292 * stack.val + phase.val] ∧ Recorded s t 7 1 ∧
      (t.region stack.val r).failed = h.failed ∧ smGet 0 t.pwr.drop (292 * stack.val + phase.val) = 0 ∧
      (∀ n, n ≠ 56 * stack.val + r → smGet Region.reset t.pwr.regions n = smGet Region.reset s.pwr.regions n) ∧
      (r < 52 → h.failedCount = 1 → (t.region stack.val r).limit r = 16 ∧ (t.region stack.val r).cap r = 21 ∧
        (g.state = .ramping → (t.region stack.val r).state = .off ∧ (t.region stack.val r).waiting = true) ∧
        ((s.plan.get .tile tile).isWorking = true → t.plan.get .tile tile = ⟨1, 6, 21⟩)) ∧
      (r < 52 → h.failedCount ≠ 1 → (t.tile tile).power = .dark ∧ (t.region stack.val r).state = .dark ∧
        t.tileOk tile = false ∧ RegionFaulted s t stack.val) ∧
      (52 ≤ r → h.failedCount = 3 → s.dev.mode = .ready → t.dev.stackReset.getLsbD stack.val = true) ∧
      (52 ≤ r → h.failedCount ≠ 3 → t.dev.stackReset = s.dev.stackReset)) ∧
  (∀ (stack : Fin 8) (phase : Fin 292) (s : State), smGet 0 s.pwr.drop (292 * stack.val + phase.val) < 100 →
    exec (.dropCheckFail stack phase) s = .next s) ∧
  (∀ (stack : Fin 8) (phase : Fin 292) (ma uv : BitVec 16) (q : Int) (s : State), s.dev.stackUp.getLsbD stack.val = true →
    292 * stack.val + phase.val ∉ s.defects.phases → 1000 ≤ ma.toNat → ∃ t, exec (.dropCheckSample stack phase ma uv q) s = .next t ∧
      t = { s with pwr.drop := t.pwr.drop, pwr.counters := t.pwr.counters } ∧
      (∀ n, n ≠ 292 * stack.val + phase.val → smGet 0 t.pwr.drop n = smGet 0 s.pwr.drop n) ∧
      smGet 0 t.pwr.drop (292 * stack.val + phase.val) =
        if 125 * ((smGet 0 s.part.kp (292 * stack.val + phase.val) : Nat) : Int) * ma.toNat * (40000 + 39 * (q - 100)) < uv.toNat * 4000000000 then
          smGet 0 s.pwr.drop (292 * stack.val + phase.val) + 1 else 0) ∧
  (∀ (stack : Fin 8) (phase : Fin 292) (ma uv : BitVec 16) (q : Int) (s : State), ma.toNat < 1000 →
    exec (.dropCheckSample stack phase ma uv q) s = .next s) ∧
  (∀ (stack : Fin 8) (phase : Fin 14) (s : State), s.dev.stackUp.getLsbD stack.val = true → 14 * stack.val + phase.val ∉ s.defects.modulePhases →
    s.mram.bbHead < 60000 → ∃ t, exec (.modulePhaseFailure stack phase) s = .next t ∧
      t.defects.modulePhases = s.defects.modulePhases ++ [14 * stack.val + phase.val] ∧ Recorded s t 7 0 ∧ t.pwr.regions = s.pwr.regions ∧
      (s.failedModule stack.val = [] → t.dev = s.dev) ∧
      (s.failedModule stack.val ≠ [] → s.dev.mode = .ready → t.dev.stackReset.getLsbD stack.val = true ∧ t.noPower stack.val = true)) ∧
  (∀ (stack : Fin 8) (region : Fin 56) (row : Instr) (reason : Nat) (s : State),
    (row, reason) ∈ [(.regionOverCurrent stack region, 3), (.regionUndervoltage stack region, 4)] → s.dev.stackUp.getLsbD stack.val = true →
    (s.region stack.val region.val).state = .on ∨ (s.region stack.val region.val).state = .ramping → s.mram.bbHead < 60000 →
    let g := s.region stack.val region.val
    ∃ t, exec row s = .next t ∧ Recorded s t 7 2 ∧ (t.region stack.val region.val).trips = min 3 (g.trips + 1) ∧
      (∀ n, n ≠ 56 * stack.val + region.val → smGet Region.reset t.pwr.regions n = smGet Region.reset s.pwr.regions n) ∧
      (region.val < 52 → RegionFaulted s t stack.val ∧
        (g.trips = 0 → (t.region stack.val region.val).state = .off ∧ (t.region stack.val region.val).tripped = some reason ∧
          (t.tile (52 * stack.val + region.val)).power = .off ∧ t.plan = s.plan) ∧
        (0 < g.trips → (t.region stack.val region.val).state = .dark ∧ t.tileOk (52 * stack.val + region.val) = false)) ∧
      (52 ≤ region.val → (t.region stack.val region.val).state = .off ∧ (s.dev.mode = .ready → t.dev.stackReset.getLsbD stack.val = true) ∧
        smGet 0 t.pwr.uncoreTrips stack.val = smGet 0 s.pwr.uncoreTrips stack.val + 1 ∧
        (1 ≤ smGet 0 s.pwr.uncoreTrips stack.val → t.noPower stack.val = true))) ∧
  (∀ (stack : Fin 8) (region : Fin 56) (s : State), (s.region stack.val region.val).state ∉ [.on, .ramping] →
    exec (.regionOverCurrent stack region) s = .next s ∧ exec (.regionUndervoltage stack region) s = .next s) ∧
  (∀ (stack : Fin 8) (region : Fin 56) (trip : Option RegionTrip) (bad : Bool) (reason : Nat) (s : State),
    (s.region stack.val region.val).tripped = some reason → region.val < 52 → s.dev.stackUp.getLsbD stack.val = true →
    (∀ j, s.jobOn stack.val = some j → s.present j = true) →
    let n := 52 * stack.val + region.val
    let g := s.region stack.val region.val
    (g.state ≠ .ramping → ∃ t, exec (.regionReramp stack region trip bad) s = .next t ∧ t = { s with pwr.regions := t.pwr.regions } ∧
      RegionBecomes s t stack.val region.val { g with waiting := true }) ∧
    (g.state = .ramping → s.mram.bbHead < 60000 → ∃ t, exec (.regionReramp stack region trip bad) s = .next t ∧
      (t.region stack.val region.val).tripped = none ∧
      (trip = none → bad = false → (t.region stack.val region.val).state = .on ∧ (t.tile n).power = .on ∧ (t.tile n).groups = [] ∧
        (t.tile n).quarterCycles = 0 ∧ (t.tile n).rng.katDone = true ∧ t.plan = s.plan) ∧
      (trip ≠ none ∨ bad = true → (t.region stack.val region.val).state = .dark ∧ t.tileOk n = false ∧ Recorded s t 7 2 ∧
        RegionFaulted s t stack.val))) ∧
  (∀ (stack : Fin 8) (region : Fin 56) (trip : Option RegionTrip) (bad : Bool) (s : State),
    (s.region stack.val region.val).tripped = none ∨ (∃ j, s.jobOn stack.val = some j ∧ s.present j = false) →
    exec (.regionReramp stack region trip bad) s = .next s)

/-- Transients, ramps, parking and gating (R436, R437, R444 to R447): the boost engages when it is ready or 320 cycles after its release; the clock halves while it
cannot; a region that waits ramps unless a neighbour draws too much, at a quarter slope after 1,600 cycles, no more than four at once;
an idle tile of a running job parks; the upper of a stack that holds nothing is gated. -/
def TransientsRampsAndGating : Prop :=
  (∀ (stack : Fin 8) (region : Fin 56) (s : State),
    let k := stack.val
    let r := region.val
    let g := s.region k r
    (g.state = .on ∨ g.state = .ramping →
      (g.boost = .ready ∨ (g.boost = .recovering ∧ g.releasedAt + 320 ≤ s.aon.toNat) → ∃ t, exec (.boostEngage stack region) s = .next t ∧
        t = { s with pwr.regions := t.pwr.regions, pwr.counters := t.pwr.counters } ∧ RegionBecomes s t k r { g with boost := .engaged, releasedAt := 0 }) ∧
      (g.boost = .recovering → s.aon.toNat < g.releasedAt + 320 → g.halved = false → ∃ t, exec (.clockHalving stack region) s = .next t ∧
        t = { s with pwr.regions := t.pwr.regions, pwr.counters := t.pwr.counters } ∧ RegionBecomes s t k r { g with halved := true })) ∧
    (g.boost = .engaged → ∃ t, exec (.boostRelease stack region) s = .next t ∧ t = { s with pwr.regions := t.pwr.regions } ∧
      RegionBecomes s t k r { g with boost := .recovering, releasedAt := s.aon.toNat }) ∧
    (g.halved = true → ∃ t, exec (.clockRestore stack region) s = .next t ∧ t = { s with pwr.regions := t.pwr.regions } ∧
      RegionBecomes s t k r { g with halved := false }) ∧
    (g.halved = false → exec (.clockRestore stack region) s = .next s) ∧
    (g.boost = .engaged → exec (.boostEngage stack region) s = .next s) ∧
    (∀ draws, let m := s.measure k draws
      let h := m.region k r
      h.waiting = true → h.state = .off ∨ h.state = .parked → m.ramping k < 4 →
      (m.blocked k r = false → ∃ t, exec (.regionRampStart stack region draws) s = .next t ∧
        t = { m with pwr.regions := t.pwr.regions, tiles := t.tiles } ∧
        RegionBecomes m t k r { h with state := .ramping, waiting := false, waitAt := none, quarter := false } ∧
        (r < 52 → (t.tile (52 * k + r)).power = .ramping) ∧ ∀ n, n ≠ 52 * k + r ∨ 52 ≤ r → t.tile n = s.tile n) ∧
      (m.blocked k r = true → h.waitAt = none → ∃ t, exec (.regionRampStart stack region draws) s = .next t ∧
        t = { m with pwr.regions := t.pwr.regions, pwr.counters := t.pwr.counters } ∧ RegionBecomes m t k r { h with waitAt := some s.aon.toNat })) ∧
    (∀ w, g.waitAt = some w → g.waiting = true → g.state = .off ∨ g.state = .parked → w + 1600 ≤ s.aon.toNat → s.ramping k < 4 →
      ∃ t, exec (.quarterSlopeRamp stack region) s = .next t ∧
        t = { s with pwr.regions := t.pwr.regions, pwr.counters := t.pwr.counters, tiles := t.tiles } ∧
        RegionBecomes s t k r { g with state := .ramping, waiting := false, waitAt := none, quarter := true }) ∧
    (g.state ≠ .ramping ∨ g.tripped ≠ none → exec (.regionRampDone stack region) s = .next s) ∧
    (g.state = .ramping → g.tripped = none → ∃ t, exec (.regionRampDone stack region) s = .next t ∧
      t = { s with pwr.regions := t.pwr.regions, tiles := t.tiles, thm.sensors := t.thm.sensors } ∧
      RegionBecomes s t k r { g with state := .on, quarter := false } ∧
      (r < 52 → (t.tile (52 * k + r)) = { s.tile (52 * k + r) with power := .on, quarterCycles := 0 }) ∧
      ∀ n, n ≠ 52 * k + r ∨ 52 ≤ r → t.tile n = s.tile n)) ∧
  (∀ (tile : Fin 416) (j : Nat) (v : Job) (s : State), s.jobOn (tile.val / 52) = some j → s.job j = some v → v.runs = true →
    (s.tile tile.val).power = .on → s.tileIdle tile.val = true → ∃ t, exec (.tilePark tile) s = .next t ∧ (t.tile tile.val).power = .parked ∧
      (t.region (tile.val / 52) (tile.val % 52)).state = .parked ∧ (t.tile tile.val).l1 = [] ∧
      ((∀ e ∈ (s.tile tile.val).l1, e.2.dirty = 0) →
        t = { s with tiles := t.tiles, pwr.regions := t.pwr.regions, pwr.counters := t.pwr.counters } ∧
        t.tile tile.val = { s.tile tile.val with power := .parked, l1 := [] } ∧ ∀ n, n ≠ tile.val → t.tile n = s.tile n)) ∧
  (∀ (tile : Fin 416) (s : State), s.jobOn (tile.val / 52) = none ∨ (s.tile tile.val).power ≠ .on → exec (.tilePark tile) s = .next s) ∧
  (∀ (stack : Fin 8) (s : State), s.dev.mode = .ready → s.dev.stackUp.getLsbD stack.val = true → s.pwr.gated.getLsbD stack.val = false →
    s.idleStack stack.val = true → ∃ t, exec (.upperPowerGate stack) s = .next t ∧
      t = { s with pwr.gated := s.pwr.gated ||| BitVec.ofNat 8 (2 ^ stack.val), pwr.regions := t.pwr.regions, pwr.counters := t.pwr.counters, tiles := t.tiles } ∧
      (∀ n < 52, let x := t.tile (52 * stack.val + n)
        x.groups = [] ∧ x.share = [] ∧ x.l1 = [] ∧ x.rng = (s.tile (52 * stack.val + n)).rng ∧ x.counters = (s.tile (52 * stack.val + n)).counters ∧
          x.power = if (s.tile (52 * stack.val + n)).power = .dark then .dark else .off) ∧
      (∀ n, n / 52 ≠ stack.val → t.tile n = s.tile n)) ∧
  (∀ (stack : Fin 8) (s : State), s.dev.mode ≠ .ready ∨ s.pwr.gated.getLsbD stack.val = true ∨ s.idleStack stack.val = false →
    exec (.upperPowerGate stack) s = .next s)

end Sys2Proof.Machine

/-- PhaseAndRegionFailures and TransientsRampsAndGating, together. Readings of the model's own in it: log entries 3, 4, 103,
117, 120, 121, 122, 154, 155, 208, 212. -/
def Obligations.RegionPowerEvents : Prop := PhaseAndRegionFailures ∧ TransientsRampsAndGating

namespace Sys2Proof.Machine

/-- What a thermal trigger leaves (R469, R470, R520): every job's end decided with THERMAL, no HBM key, and the record. -/
def ThermalTripped (s t : State) (trigger : Nat) : Prop :=
  t.dev.shuttingDown = true ∧ t.hbm.keys = [] ∧ t.hbm.mem = [] ∧ Recorded s t 2 trigger ∧
    ∀ j v, s.job j = some v → ∃ w e, t.job j = some w ∧ w.image = v.image ∧ w.ended = some e ∧ (v.ended = none → e.status = 0x0B)

end Sys2Proof.Machine

/-- Thermal management (R457 to R472): a valid sample of a working sensor is its reading, and from the throttle limit on
makes its die hot; one at the shutdown limit stops every job and begins the shutdown, which removes power and ends in
SHUTDOWN; a window's end steps the settings of each stack while ENFORCED is set; ENFORCE_AT enforces a request while a stack
is hot, or clears it; THM_ACK is accepted in SHUTDOWN with its key, and the device leaves SHUTDOWN at the end of a window in
which every sample was below 70 °C. Readings of the model's own in it: log entries 3, 4, 114, 115, 116, 118, 123. -/
def Obligations.ThermalManagement : Prop :=
  (∀ (die : Fin 34) (sensor : Fin 96) (raw : Word) (q : Int) (s : State),
    let d := die.val
    let x := s.sensor d sensor.val
    sensor.val < dieSensors d → s.sensorRead d sensor.val = true → s.sensorBroken d sensor.val = false → x.windowMax = none →
    -160 ≤ q → q ≤ 600 → x.sameRun < 63 →
    ∃ t, exec (.sensorSample die sensor raw (some q)) s = .next t ∧ (t.sensor d sensor.val).reading = some q ∧
      (t.sensor d sensor.val).windowMax = some q ∧ (t.sensor d sensor.val).outRun = 0 ∧ (t.sensor d sensor.val).raw = raw ∧
      (∀ n, n ≠ 96 * d + sensor.val → smGet Sensor.reset t.thm.sensors n = smGet Sensor.reset s.thm.sensors n) ∧ t.defects = s.defects ∧
      (s.takesPart d = false → t = { s with thm.sensors := t.thm.sensors }) ∧
      (s.takesPart d = true → (∀ n, n ≠ d → t.die n = s.die n) ∧ ((dieLimits d).throttle ≤ q → (t.die d).hot = true) ∧
        (q < (dieLimits d).throttle → (t.die d).hot = (s.die d).hot) ∧
        ((dieLimits d).shutdown ≤ q → s.dev.mode ≠ .shutdown → s.dev.shuttingDown = false → s.mram.bbHead < 65024 → ThermalTripped s t 0) ∧
        (s.hotStacks = 0 → q < (dieLimits d).throttle → (dieLimits d).rises = none → t = { s with thm := t.thm } ∧
          t.thm.active = s.thm.active ∧ t.thm.settings = s.thm.settings))) ∧
  (∀ (die : Fin 34) (sensor : Fin 96) (raw : Word) (q : Option Int) (s : State), dieSensors die.val ≤ sensor.val ∨
    s.sensorRead die.val sensor.val = false → exec (.sensorSample die sensor raw q) s = .next s) ∧
  (∀ s : State, s.dev.shuttingDown = true → s.unacked < 15000 → ∃ t, exec .shutdownPowerRemoval s = .next t ∧ t.dev.mode = .shutdown ∧ t.dev.cause = 6 ∧
    t.dev.shuttingDown = false ∧ t.dev.stackUp = 0 ∧ t.dev.hbmTrained = false ∧ (∀ n, (t.tile n).power = .off ∧ (t.tile n).groups = []) ∧
    (∀ p, (t.port p).up = false) ∧ t.hbm.keys = []) ∧
  (∀ s : State, s.dev.shuttingDown = false → exec .shutdownPowerRemoval s = .next s) ∧
  (∀ s : State, s.dev.mode ≠ .off → s.dev.mode ≠ .shutdown ∨ s.thm.ack = false → ∃ t, exec .thermalWindowEnd s = .next t ∧
    t.dev = s.dev ∧ t.jobs = s.jobs ∧ t.tiles = s.tiles ∧ t.thm.rounds = s.thm.rounds + 1 ∧ t.thm.hotInWindow = 0 ∧ t.thm.hotAtEnd = t.hotStacks ∧
    (s.thm.enforced = false → t.thm.settings = s.thm.settings ∧ t.thm.active = s.thm.active ∧ t.thm.enforced = false) ∧
    (s.thm.enforced = true → ∀ k < 8, t.thermalSetting k =
      (let v := s.thermalSetting k
      if s.thm.hotInWindow.getLsbD k then (if 10 < v then v - 1 else v)
      else if smGet 0 s.thm.cool k + 1 < 10 then v else if v < 27 then v + 1 else v)) ∧
    (s.thm.enforced = true → s.thm.standing + 1 < 10 → t.thm.enforced = true ∧ t.thm.active = s.thm.active) ∧
    (s.thm.enforced = true → s.thm.hotInWindow = 0 → (∀ k < 8, s.thermalSetting k = 27) → 9 ≤ s.thm.standing →
      t.thm.enforced = false ∧ t.thm.active = false)) ∧
  (∀ s : State, s.dev.mode = .shutdown → s.thm.ack = true → s.exitBlocked = false →
    (∀ d n, 8 ≤ d → d < 18 → n < dieSensors d → s.sensorBroken d n = true ∨ ∃ q, (s.sensor d n).windowMax = some q ∧ q < 280) →
    s.dev.latched = none → ∃ t, exec .thermalWindowEnd s = .next t ∧ ColdStart s t ∧ t.thm.ack = false) ∧
  (∀ s : State, s.dev.mode = .shutdown → (∃ d n q, 8 ≤ d ∧ d < 18 ∧ n < dieSensors d ∧ s.sensorBroken d n = false ∧
    (s.sensor d n).windowMax = some q ∧ 280 ≤ q) → ∃ t, exec .thermalWindowEnd s = .next t ∧ t.dev.mode = .shutdown) ∧
  (∀ s : State, s.thm.active = true → s.thm.judged = false → s.thm.requestAt.toNat ≤ s.aon.toNat → ∃ t, exec .thermalEnforceAt s = .next t ∧
    t = { s with mram.audit := t.mram.audit, mram.auditHead := t.mram.auditHead, mram.auditAck := t.mram.auditAck, sec := t.sec, thm := t.thm } ∧
    (s.thm.hotAtEnd ≠ 0 → t.thm = { s.thm with enforced := true, judged := true, standing := 0, cool := [] }) ∧
    (s.thm.hotAtEnd = 0 → t.thm = { s.thm with active := false, target := 0, requestAt := 0 })) ∧
  (∀ (v : Word) (s : State), s.linked = true → s.unacked < 16384 → ∃ t, exec (.thmAck v) s = .next t ∧
    t = { s with mram.audit := t.mram.audit, mram.auditHead := t.mram.auditHead, thm.ack := t.thm.ack } ∧
    (s.dev.mode = .shutdown → v.toNat / 65536 = 0x5AA5 → t.thm.ack = true ∧ OneEntry s t 0x17 0 0 0xFFFF []) ∧
    (s.dev.mode ≠ .shutdown ∨ v.toNat / 65536 ≠ 0x5AA5 → t.thm.ack = s.thm.ack ∧
      OneEntry s t 1 0 0 0xFFFF (regWritePayload 4 0x1C v.toNat 0)))

/-! ## The welt -/

namespace Sys2Proof.Machine

/-- Only one welt channel changes, and takes a value. -/
def ChanBecomes (s t : State) (c : Nat) (x : WeltChan) : Prop :=
  t = { s with welt.chans := t.welt.chans } ∧ t.chan c = x ∧ ∀ n, n ≠ c → t.chan n = s.chan n

/-- The new beat that a direction sends, and the direction once its packet is chosen (R224, R243): the packets of the channel's even
and odd slices that wait at the named places, the slices taking turns, and the acknowledgements of the other direction. -/
def newBeat (s : State) (c : Nat) (down : Bool) (data : BitVec 4096) (waiting : List Nat) : Beat × WeltDir :=
  let d := (s.chan c).dir down
  let other := (s.chan c).dir (!down)
  let ps := s.weltPackets c down waiting
  let (p, d1) := d.pick (ps.filter fun p => !s.oddSlice p) (ps.filter s.oddSlice)
  (⟨d.sent, data, beatHeader p, weltCrc data (beatHeader p), Config.weltBack other.expect other.nak⟩, d1)

/-- A direction that has passed a beat on: those up to it are acknowledged (R225, R226). -/
def passedOn (d : WeltDir) (replay : List Beat) : WeltDir :=
  { d with expect := d.expect + 1, fails := 0, nak := none, replay := replay.filter fun y => d.expect < y.num }

/-- Beats, replay and error windows (R224 to R227, R241, R243): on a channel that is open, a beat that passes its check in order is passed on and
acknowledges those before it; one that fails sends a NAK and is counted, and the fourth failure of a beat, or one above the window's
level, starts a repair; a replay goes before new beats, and nothing new is sent into a full replay buffer; a NAK makes the sender
send again from its beat; loss of the strobe loses the lock and starts a repair; a window's end clears the count of one direction. -/
def WeltBeatsAndReplay : Prop :=
  (∀ (stack : Fin 8) (ch : Fin 64) (down : Bool) (data : BitVec 4096) (waiting : List Nat) (errors : BitVec 4144) (s : State),
    let c := 64 * stack.val + ch.val
    let x := s.chan c
    let d := x.dir down
    let b := (newBeat s c down data waiting).1
    let e := (newBeat s c down data waiting).2
    s.weltOpen c = true →
    (d.resend = [] → d.replay.length < 64 → d.sent = d.expect → errors = 0 → ∃ t, exec (.weltBeat stack ch down data waiting errors) s = .next t ∧
      ChanBecomes s t c (x.setDir down (passedOn { e with sent := d.sent + 1 } (d.replay ++ [b])))) ∧
    (∀ b0 bs, d.resend = b0 :: bs → b0.num = d.expect → b0.crc = weltCrc b0.data b0.header → errors = 0 →
      ∃ t, exec (.weltBeat stack ch down data waiting errors) s = .next t ∧
        ChanBecomes s t c (x.setDir down (passedOn { d with resend := bs } d.replay))) ∧
    (d.resend = [] → d.replay.length < 64 → d.sent = d.expect →
      weltCrc (data ^^^ errors.extractLsb' 0 4096) (b.header ^^^ errors.extractLsb' 4120 8) ≠ b.crc ^^^ errors.extractLsb' 4104 16 →
      let go := 4 ≤ d.fails + 1 ∨ s.weltErrLevel < d.window + 1
      ∃ t cs, exec (.weltBeat stack ch down data waiting errors) s = .next t ∧
        ChanBecomes s t c { x.setDir down { e with
          sent := d.sent + 1, replay := d.replay ++ [b], fails := d.fails + 1, nak := some d.sent, window := d.window + 1 } with
          repairing := decide go, counters := cs, pausedAt := if go then s.fabricNow else x.pausedAt } ∧
        Counters.get cs (if down then 0x108 else 0x100) = satAdd64 (Counters.get x.counters (if down then 0x108 else 0x100)) 1 ∧
        (go → Counters.get cs 0x118 = satAdd64 (Counters.get x.counters 0x118) 1)) ∧
    (d.resend = [] → 64 ≤ d.replay.length → exec (.weltBeat stack ch down data waiting errors) s = .next s)) ∧
  (∀ (stack : Fin 8) (ch : Fin 64) (down : Bool) (beat : Nat) (s : State),
    let c := 64 * stack.val + ch.val
    let x := s.chan c
    let d := x.dir down
    (s.weltOpen c = true → (∃ b ∈ d.replay, b.num = beat) → ∃ t, exec (.weltNak stack ch down beat) s = .next t ∧
      ChanBecomes s t c { x.setDir down { d with resend := d.replay.filter fun b => beat ≤ b.num, nak := none } with
        counters := x.counters.add 0x110 1 }) ∧
    ((∀ b ∈ d.replay, b.num ≠ beat) → exec (.weltNak stack ch down beat) s = .next s) ∧
    (s.weltOpen c = true → ∃ t, exec (.strobeLoss stack ch down) s = .next t ∧
      ChanBecomes s t c { x with locked := false, repairing := true, pausedAt := s.fabricNow, counters := x.counters.add 0x118 1 }) ∧
    (s.dev.mode = .ready → ∃ t, exec (.weltErrorWindowEnd stack ch down) s = .next t ∧
      ChanBecomes s t c (x.setDir down { d with window := 0 })) ∧
    (s.weltOpen c = false → exec (.strobeLoss stack ch down) s = .next s ∧ exec (.weltNak stack ch down beat) s = .next s ∧
      ∀ data waiting errors, exec (.weltBeat stack ch down data waiting errors) s = .next s))

/-- Repairs, self-tests, training and quiescing of the welt (R228 to R247): a repair of a channel on which no wire fails resumes it with a replay of what
is unacknowledged; a stack is due at its interval, tests when no job holds it and it is not under reset, and after the test its age starts anew
and no channel is flagged; cold training trains the channels of a powered stack once; at the end of a quiesce what is
undelivered is counted, the stack's upper and cache logic are reset, and the link layer starts anew on its kept locks. -/
def WeltTestsAndTraining : Prop :=
  (∀ (stack : Fin 8) (ch : Fin 64) (s : State),
    let c := 64 * stack.val + ch.val
    let x := s.chan c
    (x.repairing = false → ∀ scans, exec (.weltRepairEnd stack ch scans) s = .next s) ∧
    (x.repairing = true → (s.plan.get .welt c).detail = s.weltDetail c →
      (s.jobOn stack.val).isSome = true ∨ (∀ n < 64, (s.chan (64 * stack.val + n)).retiring = none) →
      ∃ t y, exec (.weltRepairEnd stack ch []) s = .next t ∧ t = { s with welt.chans := t.welt.chans, mram.steer := t.mram.steer, draws := t.draws } ∧
      (∀ n, n ≠ c → t.chan n = s.chan n) ∧ t.chan c = y ∧
      (∀ n d, t.steerMap n d = s.steerMap n d) ∧ y.repairing = false ∧ y.locked = true ∧ y.sparesLow = x.sparesLow ∧ y.stopped = x.stopped ∧
      (∀ d, (y.dir d).resend = (x.dir d).replay ∧ (y.dir d).replay = (x.dir d).replay ∧ (y.dir d).fails = 0 ∧ (y.dir d).nak = none ∧
        (y.dir d).sent = (x.dir d).sent ∧ (y.dir d).expect = (x.dir d).expect ∧ (y.dir d).window = (x.dir d).window) ∧
      Counters.get y.counters 0x120 = satAdd64 (Counters.get x.counters 0x120) 7744 ∧
      Counters.get y.counters 0x110 = satAdd64 (Counters.get x.counters 0x110)
        ((if x.up.replay = [] then 0 else 1) + (if x.down.replay = [] then 0 else 1)))) ∧
  (∀ (stack : Fin 8) (s : State),
    let k := stack.val
    let w := s.weltStack k
    (∃ t, exec (.weltTestDue stack) s = .next t ∧ t = { s with welt.units := t.welt.units } ∧ (∀ n, n ≠ k → t.weltStack n = s.weltStack n) ∧
      t.weltStack k = { w with due := w.due || decide (s.testInterval k ≤ w.age) }) ∧
    (w.due = true → w.testing = false → s.stackFree k = true → ∃ t, exec (.weltSelfTest stack) s = .next t ∧
      (s.pwr.gated.getLsbD k = false → t = { s with welt.units := t.welt.units }) ∧ t.pwr.gated.getLsbD k = false ∧
      (∀ n, n ≠ k → t.weltStack n = s.weltStack n) ∧ t.weltStack k = { w with testing := true }) ∧
    (w.due = false ∨ w.testing = true ∨ s.stackFree k = false → exec (.weltSelfTest stack) s = .next s) ∧
    (w.testing = false → ∀ scans, exec (.weltSelfTestCommit stack scans) s = .next s) ∧
    (w.testing = true → ∀ scans, ∃ t, exec (.weltSelfTestCommit stack scans) s = .next t ∧ (t.weltStack k).age = 0 ∧ (t.weltStack k).due = false ∧
      (t.weltStack k).testing = false ∧ ∀ ch < 64, (t.chan (64 * k + ch)).testDue = false) ∧
    (s.dev.mode = .bringup → s.dev.step = .training → s.dev.weltTrained.getLsbD k = false → s.dev.stackUp.getLsbD k = true → ∀ scans,
      ∃ t, exec (.weltColdTraining stack scans) s = .next t ∧ t.dev.weltTrained = s.dev.weltTrained ||| BitVec.ofNat 8 (2 ^ k) ∧
        t.dev.mode = .bringup ∧ (t.dev.step = .plan ↔ s.dev.hbmTrained = true ∧ t.dev.weltTrained = s.dev.stackUp) ∧
        (t.weltStack k).age = 0 ∧ (∀ ch < 64, (t.chan (64 * k + ch)).testDue = false) ∧
        ∀ ch < 64, s.weltTrains (64 * k + ch) = true → ((t.chan (64 * k + ch)).up.sent = 0 ∧ (t.chan (64 * k + ch)).down.sent = 0)) ∧
    (s.dev.weltTrained.getLsbD k = true → ∀ scans, exec (.weltColdTraining stack scans) s = .next s) ∧
    (w.quiescing = false → ∀ wired, exec (.quiesceDrainEnd stack wired) s = .next s) ∧
    (w.quiescing = true → (s.jobOn k).isSome = true ∨ (∀ n < 64, (s.chan (64 * k + n)).retiring = none) →
      ∀ wired, ∃ t, exec (.quiesceDrainEnd stack wired) s = .next t ∧ t.dev = s.dev ∧ t.plan = s.plan ∧ t.jobs = s.jobs ∧
      t.weltStack k = { w with quiescing := false, drops := satAdd64 w.drops (s.undelivered k + wired.toNat) } ∧ (∀ j, j ≠ k → t.weltStack j = s.weltStack j) ∧
      (∀ n, n / 52 = k → (t.tile n).groups = [] ∧ (t.tile n).share = [] ∧ (t.tile n).l1 = []) ∧ (∀ n, n / 52 ≠ k → t.tile n = s.tile n) ∧
      (∀ l, lineStack l = k → t.soleLine l = SoleLine.absent) ∧ (∀ l, lineStack l ≠ k → t.soleLine l = s.soleLine l) ∧
      (∀ ch < 64, let x := s.chan (64 * k + ch)
        let y := t.chan (64 * k + ch)
        y.repairing = false ∧ y.testDue = (x.testDue || x.repairing) ∧ y.deskew = x.deskew ∧ y.locked = x.locked ∧
        ∀ d, (y.dir d).replay = [] ∧ (y.dir d).resend = [] ∧ (y.dir d).sent = 0 ∧ (y.dir d).expect = 0 ∧ (y.dir d).nak = none ∧
          (y.dir d).window = (x.dir d).window) ∧
      ∀ c, c / 64 ≠ k → t.chan c = s.chan c))

end Sys2Proof.Machine

/-- WeltBeatsAndReplay and WeltTestsAndTraining, together. Readings of the model's own in it: log entries 3, 4, 60, 61, 62,
63, 64, 190, 191, 192, 193, 194, 195, 196, 197, 198. -/
def Obligations.WeltChannels : Prop := WeltBeatsAndReplay ∧ WeltTestsAndTraining

/-! ## The Trerik fabric: ports -/

namespace Sys2Proof.Machine

/-- An exchange of link keys with a neighbour succeeds: entropy, an unspent signature index whose tree is ready, and a peer that the
policy accepts (R367, R484, R499). -/
def KeysGranted (s : State) (serial : Dword) : Prop :=
  s.sec.entropyOk = true ∧ s.sigExhausted = false ∧ s.treeReady = true ∧ (s.policy.peers = [] ∨ serial ∈ s.policy.peers)

/-- A port serves on the lanes that both ends found usable: the largest of the widths 8, 4, 2 and 1 that they allow, on the lowest of them,
with the neighbour's record kept (R359, R360). -/
def WidenedBy (y : FabPort) (far : FarEnd) : Prop :=
  let n := (laneList (far.nearLanes &&& far.farLanes)).length
  y.up = true ∧ y.retraining = false ∧ y.width ∈ [8, 4, 2, 1] ∧ y.width ≤ n ∧ (y.width < 8 → n < 2 * y.width) ∧
    (∀ i < 8, y.lanes.getLsbD i = true ↔ i ∈ (laneList (far.nearLanes &&& far.farLanes)).take y.width) ∧ y.neighbourValid = true ∧
    y.neighbourSerial = far.serial ∧ y.neighbourId = far.fabricId ∧ y.neighbourPort = far.nport

/-- A port that starts anew: new keys of the next epoch, a link sequence that begins at 0 with the 40 KEY flits of each end (identity 1,
certificate 17, signed message 22), nothing waiting, and full credit (R358, R360, R361, R364, R367). -/
def StartsAnew (x y : FabPort) : Prop :=
  y.epoch = x.epoch + 1 ∧ y.nextLseq = 40 ∧ y.expectLseq = 40 ∧ y.replay = [] ∧ y.queue = [] ∧ y.txCount = 0 ∧ y.rxCount = 0 ∧
    ∀ vc < 5, smGet 0 y.credits vc = if vc = 4 then 16 else 256

/-- What one port becomes, and its entry in the floor plan; every other port and its entry stay. -/
def PortBecomes (s t : State) (p : Nat) (y : FabPort) (e : UnitEntry) : Prop :=
  t.port p = y ∧ t.plan.get .port p = e ∧ ∀ q, q ≠ p → t.port q = s.port q ∧ t.plan.get .port q = s.plan.get .port q

/-- The floor-plan entry of a trained port (R359). -/
def trainedEntry (y : FabPort) : UnitEntry := if y.width = 8 then ⟨0, 0, 8⟩ else ⟨1, 8, BitVec.ofNat 16 y.width⟩

/-- A retrain that keeps its link (R361): epoch, keys and queue stay; the replay goes out again, and after it, where replay buffer and
credit have room, one KEY flit with the device's identity. -/
def KeepsItsLink (x y : FabPort) : Prop :=
  y.epoch = x.epoch ∧ y.txKey = x.txKey ∧ y.rxKey = x.rxKey ∧ y.expectLseq = x.expectLseq ∧ y.queue = x.queue ∧
    (x.replay.length < 1024 → 0 < smGet 0 x.credits 4 → ∃ b : BitVec 2048, y.replay = x.replay ++ [(x.nextLseq, b)] ∧
      y.nextLseq = x.nextLseq + 1 ∧ y.line = some b ∧ smGet 0 y.credits 4 = smGet 0 x.credits 4 - 1) ∧
    (1024 ≤ x.replay.length ∨ smGet 0 x.credits 4 = 0 → y.replay = x.replay ∧ y.nextLseq = x.nextLseq ∧
      y.line = match x.replay.getLast? with | some e => some e.2 | none => x.line)

/-- Port training (R358 to R362, R384): an attempt that finds lanes and agrees on keys puts the port in service and records its width; one that
fails is repeated, and the third, or a neighbour with the device's own serial, leaves it DOWN; a retrain keeps keys and sequence for the
same neighbour; a DOWN port is tried in READY and stays DOWN where that fails; a port that loses its signal goes DOWN. -/
def PortTraining : Prop :=
  (∀ (port : Fin 18) (far : FarEnd) (s : State),
    let p := port.val
    let x := s.port p
    let use := far.nearLanes &&& far.farLanes
    let n := smGet 0 s.dev.attempts p
    (x.retraining = false → s.portTrains p = true →
      (far.inTime = true → use ≠ 0 → far.serial ≠ s.part.serial → far.authOk = true → KeysGranted s far.serial →
        ∃ t y, exec (.portTraining port far) s = .next t ∧ PortBecomes s t p y (trainedEntry y) ∧ WidenedBy y far ∧ StartsAnew x y) ∧
      (far.inTime = true → use ≠ 0 → far.serial = s.part.serial → ∃ t, exec (.portTraining port far) s = .next t ∧
        (t.port p).up = false ∧ t.plan.get .port p = ⟨4, 8, 0⟩) ∧
      (far.inTime = true → use ≠ 0 → far.serial ≠ s.part.serial → s.sec.entropyOk = true → s.sigExhausted = false → s.treeReady = false →
        exec (.portTraining port far) s = .next s) ∧
      ∀ c ∈ [Instr.trainingAttemptTimeout port, .portTraining port { far with inTime := false }, .portTraining port { far with nearLanes := 0 }],
        (n < 2 → ∃ t, exec c s = .next t ∧ t = { s with dev.attempts := t.dev.attempts, fabric.ports := t.fabric.ports } ∧
          smGet 0 t.dev.attempts p = n + 1 ∧ (t.port p).up = false ∧ ∀ q, q ≠ p → t.port q = s.port q) ∧
        (n = 2 → ∃ t y, exec c s = .next t ∧ PortBecomes s t p y ⟨4, 8, 0⟩ ∧ y.up = false)) ∧
    (x.retraining = false → s.portTrains p = false →
      exec (.portTraining port far) s = .next s ∧ exec (.trainingAttemptTimeout port) s = .next s) ∧
    (x.retraining = true → x.needKeys = false → far.inTime = true → use ≠ 0 → far.serial ≠ s.part.serial → x.neighbourValid = true →
      x.neighbourSerial = far.serial → x.up = true → ∃ t y, exec (.portTraining port far) s = .next t ∧ PortBecomes s t p y (trainedEntry y) ∧
        WidenedBy y far ∧ KeepsItsLink x y) ∧
    (s.dev.mode = .ready → s.portLicensed p = true → (s.plan.get .port p).state = 4 → x.up = false →
      (far.inTime = true → use ≠ 0 → far.serial ≠ s.part.serial → far.authOk = true → KeysGranted s far.serial →
        ∃ t y, exec (.downPortAttempt port far) s = .next t ∧ PortBecomes s t p y (trainedEntry y) ∧ WidenedBy y far ∧ StartsAnew x y) ∧
      (far.inTime = false ∨ use = 0 → ∃ t, exec (.downPortAttempt port far) s = .next t ∧ t = { s with fabric.ports := t.fabric.ports } ∧
        (t.port p).up = false ∧ ∀ q, q ≠ p → t.port q = s.port q)) ∧
    (x.up = true → ∃ t y, exec (.portSignalLoss port) s = .next t ∧ PortBecomes s t p y ⟨4, 8, 0⟩ ∧ y.up = false ∧ y.width = 0 ∧
      y.neighbourSerial = x.neighbourSerial ∧ y.counters = x.counters) ∧
    (x.up = false → exec (.portSignalLoss port) s = .next s))

/-- The KEY flits of this end's signed message in a renewal (R367, R370). -/
def renewalFlits (s : State) (serial : Dword) : List Flit :=
  let m := linkOffer s.draws (decide (s.part.serial.toNat < serial.toNat))
  keyFlits (m ++ idSignature s.sigIndex m)

/-- In-service retraining and key renewal (R361, R367, R370, R388), and the test of a port's check-value units (R399): RETRAIN keeps
the keys of the same neighbour; REKEY, and a renewal that falls due, change the sender's key and phase at once and hold the new
key of the other direction until its first flit, this end's signed message waiting on channel 4; a renewal that fails leaves the keys as
they are and may be tried again; units that pass
return reset, and a port whose unit fails goes out of service. -/
def RetrainAndRenewal : Prop :=
  (∀ (v : Word) (far : FarEnd) (s : State),
    let p := s.fabSel
    let x := s.port p
    v.getLsbD 1 = true → v.getLsbD 0 = false → HostMayWrite s → p < 18 → s.dev.mode = .ready → x.up = true → x.retraining = false →
    far.inTime = true → far.nearLanes &&& far.farLanes ≠ 0 → far.serial ≠ s.part.serial → x.neighbourValid = true → x.neighbourSerial = far.serial →
    ∃ t y, exec (.retrain v far) s = .next t ∧ PortBecomes s t p y (trainedEntry y) ∧ WidenedBy y far ∧ KeepsItsLink x y ∧
      Counters.get y.counters 0x230 = satAdd64 (Counters.get x.counters 0x230) 1) ∧
  (∀ (c : Bool → Instr) (p : Nat) (s : State) (authOk : Bool),
    let x := s.port p
    s.dev.mode = .ready → x.up = true → x.retraining = false →
    ((∃ port : Fin 18, c = Instr.linkKeyRenewal port ∧ port.val = p ∧ (2 ^ 40 ≤ x.txCount ∨ 2 ^ 40 ≤ x.rxCount) ∧ x.rxNext = none) ∨
      (∃ port : Fin 18, c = Instr.renewalRetry port ∧ port.val = p ∧ x.renewalFailed = true) ∨
      (∃ v : Word, c = Instr.rekey v ∧ v.getLsbD 0 = true ∧ v.getLsbD 1 = false ∧ HostMayWrite s ∧ s.fabSel = p ∧ p < 18)) →
    (authOk = true → KeysGranted s x.neighbourSerial → ∃ t y k, exec (c authOk) s = .next t ∧
      PortBecomes s t p y (s.plan.get .port p) ∧ y = { x with
        queue := x.queue ++ renewalFlits s x.neighbourSerial
        txKey := y.txKey, epoch := x.epoch + 1, txPhase := !x.txPhase, txCount := 0, rxNext := some (k, x.epoch + 1), renewalFailed := false
        counters := x.counters.add 0x238 1 } ∧ (s.unacked < 16384 → NewestEntry t 0xC) ∧ t.sigIndex = s.sigIndex + 1) ∧
    (s.sec.entropyOk = true → s.sigExhausted = false → s.treeReady = false → ∃ t, exec (c authOk) s = .next t ∧ t.port p = x) ∧
    (s.sec.entropyOk = false ∨ s.sigExhausted = true ∨ (authOk = false ∧ s.treeReady = true) → ∃ t y, exec (c authOk) s = .next t ∧
      PortBecomes s t p y (s.plan.get .port p) ∧ y = { x with
        queue := if s.sec.entropyOk = true ∧ s.sigExhausted = false ∧ s.part.serial.toNat < x.neighbourSerial.toNat then
          x.queue ++ renewalFlits s x.neighbourSerial else x.queue
        renewalFailed := true, counters := x.counters.add 0x248 1 })) ∧
  (∀ (port : Fin 18) (authOk : Bool) (s : State),
    let x := s.port port.val
    (x.rxNext ≠ none ∨ (x.txCount < 2 ^ 40 ∧ x.rxCount < 2 ^ 40) → exec (.linkKeyRenewal port authOk) s = .next s) ∧
    (x.renewalFailed = false → exec (.renewalRetry port authOk) s = .next s) ∧
    (s.dev.mode ≠ .ready ∨ x.up = false → exec (.linkKeyRenewal port authOk) s = .next s ∧ exec (.renewalRetry port authOk) s = .next s)) ∧
  (∀ (port : Fin 18) (egress ingress : Bool) (s : State),
    let p := port.val
    (s.dev.mode = .ready → (s.port p).up = true →
      (egress = true → ingress = true → ∃ t, exec (.cvuPortTest port egress ingress) s = .next t ∧ t = { s with cvus := t.cvus } ∧
        (∀ u ∈ [2 * p, 2 * p + 1], t.cvu u = { s.cvu u with
          poly := 2, readout := false, crc := 0, bytes := 0, isOpen := false, sawAny := false, done := false, isMatch := false, mismatch := false }) ∧
        ∀ u, u ≠ 2 * p → u ≠ 2 * p + 1 → t.cvu u = s.cvu u) ∧
      (egress = false ∨ ingress = false → ∃ t y, exec (.cvuPortTest port egress ingress) s = .next t ∧ PortBecomes s t p y ⟨2, 3, 0⟩ ∧
        y.up = false)) ∧
    (s.dev.mode ≠ .ready ∨ (s.port p).up = false → exec (.cvuPortTest port egress ingress) s = .next s))

end Sys2Proof.Machine

/-- PortTraining and RetrainAndRenewal, together. Readings of the model's own in it: log entries 3, 4, 18, 91, 94, 138, 139,
140, 141, 200, 202, 203, 204. -/
def Obligations.PortTrainingAndKeys : Prop := PortTraining ∧ RetrainAndRenewal

namespace Sys2Proof.Machine

/-- A flit of 256 bytes whose CRC is right (R363). -/
def SoundFlit (b : BitVec 2048) : Prop := bytesToNat ((natToBytes 256 b.toNat).drop 252) = crc32c ((natToBytes 256 b.toNat).take 252)

/-- The 12 header bytes of a DATA flit of a port that owes no credit (R363). -/
def dataHead (x : FabPort) (f : Flit) : List Byte :=
  natToBytes 1 1 ++ natToBytes 1 (f.vc + (if f.som then 8 else 0) + (if f.eom then 16 else 0) + (if x.txPhase then 32 else 0)) ++
    natToBytes 2 x.nextLseq.toNat ++ natToBytes 2 x.expectLseq.toNat ++ natToBytes 1 (if x.nakOwed then 128 else 0) ++ natToBytes 1 0 ++
    natToBytes 2 f.length ++ natToBytes 2 0

/-- The sealed DATA flit (R363, R368): the payload is encrypted under the sender's key, with the header as associated data. -/
def sealedFlit (x : FabPort) (f : Flit) : BitVec 2048 :=
  let g := gcmSeal (digestBytes x.txKey) (natToBytes 8 x.txCount ++ natToBytes 4 x.epoch.toNat) (dataHead x f) (natToBytes 224 f.payload.toNat)
  let b := dataHead x f ++ g.1 ++ g.2
  BitVec.ofNat 2048 (bytesToNat (b ++ natToBytes 4 (crc32c b)))

/-- Only one port changes, and takes a value. -/
def OnlyPort (s t : State) (p : Nat) (y : FabPort) : Prop :=
  t = { s with fabric.ports := t.fabric.ports } ∧ t.port p = y ∧ ∀ q, q ≠ p → t.port q = s.port q

/-- Sending and replay (R304, R361, R363 to R365, R368): channel 4 goes first, then the message under way, then the message that R304 and
R305 choose among those with credit; a DATA flit takes the next LSEQ, is sealed under the sender's key, and is kept for replay; a KEY flit
is not encrypted; without credit or room, or with a replay owed, a flit without a message goes; a NAK drops what it acknowledges and
sends the rest again. -/
def FlitsSentAndReplayed : Prop :=
  (∀ x : FabPort,
    (x.queue = [] ∨ (∀ k, smGet 0 x.credits k = 0) ∨ 1024 ≤ x.replay.length ∨ x.nakFrom.isSome = true → x.pick = none) ∧
    (∀ f rest, x.replay.length < 1024 → x.nakFrom = none → 0 < smGet 0 x.credits 4 → takeFlit 4 x.queue = some (f, rest) →
      x.pick = some (f, rest, x.arb)) ∧
    (∀ f rest, x.replay.length < 1024 → x.nakFrom = none → takeFlit 4 x.queue = none → takeFlit 0 x.queue = some (f, rest) → f.som = false →
      0 < smGet 0 x.credits f.vc → x.pick = some (f, rest, x.arb)) ∧
    (∀ f rest arb, x.pick = some (f, rest, arb) → 0 < smGet 0 x.credits f.vc ∧ takeFlit f.vc x.queue = some (f, rest))) ∧
  (∀ (port : Fin 18) (s : State),
    let p := port.val
    let x := s.port p
    (x.up = false ∨ x.retraining = true → ∀ vc, exec (.flitTransmit port vc) s = .next s) ∧
    (∀ vc, vc.map (·.val) ≠ x.pick.map (·.1.vc) → exec (.flitTransmit port vc) s = .next s) ∧
    (x.up = true → x.retraining = false → x.pick = none →
      ∃ t b, exec (.flitTransmit port none) s = .next t ∧ OnlyPort s t p { x with
          line := some b, nakOwed := false, owed := (t.port p).owed, counters := x.counters.add 0x200 1 } ∧ SoundFlit b ∧
        let bs := natToBytes 256 b.toNat
        byteAt bs 0 = (if x.owed.isEmpty && !x.nakOwed then 0 else 2) ∧ field2 bs 4 = x.expectLseq.toNat ∧
          (x.owed = [] → byteAt bs 6 = if x.nakOwed then 128 else 0)) ∧
    (∀ f rest arb, x.up = true → x.retraining = false → x.pick = some (f, rest, arb) → f.ftype = 1 → x.owed = [] →
      x.awl.armed = false → x.awl.held = none → x.txCount + 1 < 2 ^ 40 + 2 ^ 32 → ∀ vc : Fin 5, vc.val = f.vc → ∃ t, exec (.flitTransmit port (some vc)) s = .next t ∧
        t = { s with fabric.ports := t.fabric.ports, cvus := t.cvus } ∧ (f.som = false → t.cvus = s.cvus) ∧
        (∀ q, q ≠ p → t.port q = s.port q) ∧ SoundFlit (sealedFlit x f) ∧ t.port p = { x with
          queue := rest, arb := arb, credits := (t.port p).credits, nextLseq := x.nextLseq + 1, txCount := x.txCount + 1, nakOwed := false
          owed := (t.port p).owed, replay := x.replay ++ [(x.nextLseq, sealedFlit x f)], line := some (sealedFlit x f)
          counters := x.counters.add 0x200 1 } ∧
        smGet 0 (t.port p).owed 0 = 0 ∧
        ∀ k, smGet 0 (t.port p).credits k = if k = f.vc then smGet 0 x.credits k - 1 else smGet 0 x.credits k) ∧
    (∀ f rest arb, x.up = true → x.retraining = false → x.pick = some (f, rest, arb) → f.ftype = 3 → f.vc = 4 → x.awl.held = none →
      x.txCount < 2 ^ 40 + 2 ^ 32 → ∃ t b, exec (.flitTransmit port (some 4)) s = .next t ∧ OnlyPort s t p { x with
          queue := rest, arb := arb, credits := (t.port p).credits, nextLseq := x.nextLseq + 1, nakOwed := false, owed := (t.port p).owed
          replay := x.replay ++ [(x.nextLseq, b)], line := some b, counters := x.counters.add 0x200 1 } ∧ SoundFlit b ∧
        let bs := natToBytes 256 b.toNat
        byteAt bs 0 = 3 ∧ (bs.drop 12).take 224 = natToBytes 224 f.payload.toNat ∧ (bs.drop 236).take 16 = List.replicate 16 0)) ∧
  (∀ (port : Fin 18) (lseq : BitVec 16) (s : State),
    let p := port.val
    let x := s.port p
    (x.up = false ∨ x.retraining = true → exec (.flitReplay port lseq) s = .next s) ∧
    (∀ l b r, x.up = true → x.retraining = false → x.replay = (l, b) :: r → r.length + 1 < (lseq - l).toNat →
      exec (.flitReplay port lseq) s = .next s) ∧
    (∀ l b r, x.up = true → x.retraining = false → x.replay = (l, b) :: r → (lseq - l).toNat ≤ r.length →
      let rest := x.replay.drop (lseq - l).toNat
      ∃ t, exec (.flitReplay port lseq) s = .next t ∧ OnlyPort s t p { x with
        replay := rest, nakFrom := none, line := rest.getLast?.map (·.2), counters := (x.counters.add 0x228 1).add 0x200 rest.length }))

/-- Receiving (R356, R357, R363 to R366, R369): a flit in order that opens is accepted and its bytes join its channel's message, which is delivered at its
end; one that fails its CRC, or that a codeword of its lanes past 15 symbols carries, owes a NAK, and is charged to the window; the eighth failure
in succession of the flit expected, or a window above the level, retrains the port; one out of its place is passed over with the credits that it
carries; one that fails authentication retrains it with new keys; a window's end clears its count. -/
def FlitsReceived : Prop :=
  (∀ (port : Fin 18) (flit : BitVec 2048) (codewords : List LaneCodeword) (s : State),
    let p := port.val
    let x := s.port p
    let bs := natToBytes 256 flit.toNat
    let c := Instr.flitReceive port flit codewords
    let cs := codewords.filter fun w => x.lanes.getLsbD w.lane.val
    let lost := cs.any fun w => decide (15 < w.symbols)
    let k := ((x.counters.add 0x208 1).add 0x210 (cs.filter fun w => w.first && decide (0 < w.symbols) && decide (w.symbols ≤ 15)).length).add 0x218
      (cs.filter fun w => w.first && decide (15 < w.symbols)).length
    let fails := if (byteAt bs 0 = 1 ∨ byteAt bs 0 = 3) ∧ field2 bs 2 = x.expectLseq.toNat then x.fails + 1 else x.fails
    (x.up = false ∨ x.retraining = true → exec c s = .next s) ∧
    (x.up = true → x.retraining = false → lost = true ∨ flitIntact bs = false →
      (fails < 8 → x.window + 1 ≤ s.errLevel → ∃ t, exec c s = .next t ∧ OnlyPort s t p { x with
        nakOwed := true, fails := fails, window := x.window + 1, counters := (t.port p).counters } ∧
        ∀ off, Counters.get (t.port p).counters off = Counters.get (k.add 0x220 1) off) ∧
      (s.dev.mode = .ready → 8 ≤ fails ∨ s.errLevel < x.window + 1 → ∃ t, exec c s = .next t ∧
        (t.port p).retraining = true ∧ (t.port p).needKeys = false ∧ (t.port p).replay = x.replay)) ∧
    (x.up = true → x.retraining = false → lost = false → flitIntact bs = true → byteAt bs 0 = 1 → field2 bs 2 = x.expectLseq.toNat →
      (∀ pt, x.openFlit bs = some pt → byteAt bs 1 / 32 = (if x.rxPhase then 1 else 0) → x.rxCount + 1 < 2 ^ 40 + 2 ^ 32 →
        let got := (if byteAt bs 1 / 8 % 2 = 1 then [] else smGet [] x.partialMsg (byteAt bs 1 % 8)) ++ pt.take (field2 bs 8)
        ∃ t y, exec c s = .next t ∧ OnlyPort s t p y ∧ y = { x with
          replay := y.replay, credits := y.credits, nakFrom := y.nakFrom, owed := y.owed, partialMsg := y.partialMsg, inbox := y.inbox
          counters := y.counters, rxCount := x.rxCount + 1, expectLseq := x.expectLseq + 1, nakOwed := false, fails := 0 } ∧
          (∀ off, Counters.get y.counters off = Counters.get k off) ∧
          smGet 0 y.credits (byteAt bs 6 % 8) = smGet 0 x.credits (byteAt bs 6 % 8) + byteAt bs 7 ∧
          (byteAt bs 1 / 16 % 2 = 1 → 40 ≤ got.length → y.inbox = x.inbox ++ [msgParse got]) ∧
          (byteAt bs 1 / 16 % 2 = 0 → y.inbox = x.inbox ∧ smFind y.partialMsg (byteAt bs 1 % 8) = some got)) ∧
      (x.openFlit bs = none → s.dev.mode = .ready → ∃ t, exec c s = .next t ∧ (t.port p).retraining = true ∧
        (t.port p).needKeys = true ∧ (t.port p).expectLseq = x.expectLseq ∧ (t.port p).inbox = x.inbox ∧
        Counters.get (t.port p).counters 0x240 = satAdd64 (Counters.get x.counters 0x240) 1)) ∧
    (x.up = true → x.retraining = false → lost = false → flitIntact bs = true → byteAt bs 0 = 3 → field2 bs 2 = x.expectLseq.toNat →
      ∃ t y, exec c s = .next t ∧ OnlyPort s t p y ∧ y = { x with
        replay := y.replay, credits := y.credits, nakFrom := y.nakFrom, owed := y.owed, counters := y.counters
        expectLseq := x.expectLseq + 1, nakOwed := false, fails := 0 } ∧ smGet 0 y.owed 4 = smGet 0 x.owed 4 + 1) ∧
    (x.up = true → x.retraining = false → lost = false → flitIntact bs = true → byteAt bs 0 = 1 ∨ byteAt bs 0 = 3 →
      field2 bs 2 ≠ x.expectLseq.toNat → ∃ t y, exec c s = .next t ∧ OnlyPort s t p y ∧ y = { x with
        replay := y.replay, nakFrom := y.nakFrom, nakOwed := true, counters := y.counters })) ∧
  (∀ (port : Fin 18) (s : State),
    (s.dev.mode = .ready → ∃ t, exec (.fabricErrorWindowEnd port) s = .next t ∧ OnlyPort s t port.val { s.port port.val with window := 0 }) ∧
    (s.dev.mode ≠ .ready → exec (.fabricErrorWindowEnd port) s = .next s))

end Sys2Proof.Machine

/-- FlitsSentAndReplayed and FlitsReceived, together. Readings of the model's own in it: log entries 3, 4, 135, 136, 137,
199, 201, 205. -/
def Obligations.FlitsSentAndTaken : Prop := FlitsSentAndReplayed ∧ FlitsReceived

namespace Sys2Proof.Machine

/-- The rows that write FAB_AWL_CTL with their ACTION. -/
noncomputable def awlRows : List ((Word → Instr) × Nat) := [(.awlDisarm, 0), (.awlArmDrop, 1), (.awlArmCorrupt, 2), (.awlArmReorder, 3)]

/-- The awl (R386, R387): arming takes effect in READY, where the policy permits it, on a port in service, and is logged; otherwise AWL_REFUSED is
set; ACTION 0 disarms, which is logged; an armed awl that acts on a flit drops it, inverts one bit of it, or holds it; a held flit is released alone. -/
def AwlArmingAndActions : Prop :=
  (∀ e ∈ awlRows, ∀ (v : Word) (s : State),
    let p := s.fabSel
    let x := s.port p
    let count := v.toNat / 65536
    (v.toNat % 4 ≠ e.2 → exec (e.1 v) s = .next s) ∧
    (v.toNat % 4 = e.2 → HostMayWrite s → p < 18 → ∃ t, exec (e.1 v) s = .next t ∧
      t = { s with regs := t.regs, fabric.ports := t.fabric.ports, mram.audit := t.mram.audit, mram.auditHead := t.mram.auditHead } ∧
      t.awlCtl p = v.toNat % 64 + count * 65536 ∧ (∀ q, q ≠ p → t.port q = s.port q) ∧
      (e.2 = 0 → t.port p = { x with awl := if x.awl.armed then { x.awl with armed := false, remaining := 0 } else x.awl } ∧
        NewestEntry t (if x.awl.armed then 0xE else 1)) ∧
      (e.2 ≠ 0 → count ≠ 0 → s.dev.mode = .ready → s.flag 3 = true → x.up = true → NewestEntry t 0xE ∧ t.port p = { x with awl := { x.awl with
        armed := true, remaining := count, taken := 0, skipLeft := s.awlMatch p / 65536
        every := max 1 (s.awlMatch p % 65536), everyLeft := max 1 (s.awlMatch p % 65536) } }) ∧
      (e.2 ≠ 0 → count ≠ 0 → s.dev.mode ≠ .ready ∨ s.flag 3 = false ∨ x.up = false → NewestEntry t 1 ∧
        t.port p = { x with awl := { x.awl with refused := true } }) ∧
      (e.2 ≠ 0 → count = 0 → NewestEntry t 1 ∧ t.port p = x)) ∧
    (v.toNat % 4 = e.2 → HostMayWrite s → 18 ≤ p → ∃ t, exec (e.1 v) s = .next t ∧
      t = { s with mram.audit := t.mram.audit, mram.auditHead := t.mram.auditHead } ∧ NewestEntry t 1)) ∧
  (∀ (port : Fin 18) (f : Flit) (rest : List Flit) (arb : ArbPoint) (s : State),
    let p := port.val
    let x := s.port p
    let ctl := s.awlCtl p
    x.up = true → x.retraining = false → x.pick = some (f, rest, arb) → f.ftype = 1 → x.owed = [] →
    x.awl.armed = true → x.awl.held = none → x.awl.skipLeft = 0 → x.awl.everyLeft ≤ 1 → 1 < x.awl.remaining → f.vc < 4 →
    (ctl / 4 % 2 = 1 ∨ ctl / 8 % 8 = f.vc) → x.window + 1 ≤ s.errLevel → x.txCount + 1 < 2 ^ 40 + 2 ^ 32 → ∀ vc : Fin 5, vc.val = f.vc →
    ∃ t y, exec (.flitTransmit port (some vc)) s = .next t ∧ t.port p = y ∧ y.replay = x.replay ++ [(x.nextLseq, sealedFlit x f)] ∧
      y.nextLseq = x.nextLseq + 1 ∧ y.window = x.window + 1 ∧ y.awl.taken = x.awl.taken + 1 ∧ y.awl.remaining = x.awl.remaining - 1 ∧
      (ctl % 4 = 1 → y.line = x.line ∧ y.awl.held = none) ∧
      (ctl % 4 = 2 → y.line = some (sealedFlit x f ^^^ BitVec.ofNat 2048 (2 ^ (s.awlBit p))) ∧ y.awl.held = none) ∧
      (ctl % 4 = 3 → y.line = x.line ∧ y.awl.held = some (sealedFlit x f))) ∧
  (∀ (port : Fin 18) (s : State),
    let x := s.port port.val
    (x.awl.held = none → exec (.awlReorderRelease port) s = .next s) ∧
    (∀ b, x.awl.held = some b → ∃ t, exec (.awlReorderRelease port) s = .next t ∧ OnlyPort s t port.val { x with
      line := some b, awl := { x.awl with held := none }, counters := x.counters.add 0x200 1 }))

/-- The route registers (R371, R388): each write is logged and committed; FAB_FABRIC_ID takes 16 bits; FAB_ROUTE_HOPS sets the four hops of the selected entry,
a hop of 18 or more being none; FAB_ROUTE_BCAST sets its mask; no other entry changes. -/
def RouteRegisters : Prop :=
  (∀ (v : Word) (s : State), HostMayWrite s →
    (∃ t, exec (.fabFabricIdWrite v) s = .next t ∧
      t = { s with mram.fabricId := v.setWidth 16, mram.audit := t.mram.audit, mram.auditHead := t.mram.auditHead } ∧
      OneEntry s t 1 0 0 0xFFFF (regWritePayload 6 0 v.toNat (v.toNat % 65536))) ∧
    (∀ c ∈ [Instr.fabRouteHopsWrite v, .fabRouteBcastWrite v], ∃ t, exec c s = .next t ∧
      t = { s with mram.memberTable := t.mram.memberTable, mram.groupTable := t.mram.groupTable, mram.audit := t.mram.audit
                   mram.auditHead := t.mram.auditHead } ∧
      (∀ n, n ≠ s.reg 0x6014 0 % 256 ∨ s.reg 0x6014 0 / 256 % 2 = 0 → t.memberEntry n = s.memberEntry n) ∧
      (∀ n, n ≠ s.reg 0x6014 0 % 256 ∨ s.reg 0x6014 0 / 256 % 2 = 1 → t.groupEntry n = s.groupEntry n) ∧
      (let h := fun k => let d := v.toNat / 2 ^ (5 * k) % 32
        BitVec.ofNat 5 (if d < 18 then d else 31)
       (c = .fabRouteHopsWrite v → t.selEntry = { s.selEntry with hop0 := h 0, hop1 := h 1, hop2 := h 2, hop3 := h 3 }) ∧
       (c = .fabRouteBcastWrite v → t.selEntry = { s.selEntry with mask := v.setWidth 18 })) ∧
      NewestEntry t 1)) ∧
  (∀ (v : Word) (s : State), s.linked = true → s.ideBlocks = false → 15360 ≤ s.unacked →
    ∀ c ∈ [Instr.fabFabricIdWrite v, .fabRouteHopsWrite v, .fabRouteBcastWrite v], exec c s = .next (s.cntSec 0x128 1))

end Sys2Proof.Machine

/-- AwlArmingAndActions and RouteRegisters, together. Readings of the model's own in it: log entries 4, 88, 89, 142. -/
def Obligations.AwlAndRouteRegisters : Prop := AwlArmingAndActions ∧ RouteRegisters

/-! ## The Trerik fabric: messages -/

namespace Sys2Proof.Machine

/-- A message that arrives at its destination passes the end-to-end check and comes in order (R379, R380). -/
def Arrives (s : State) (p : Nat) (m : Message) : Prop :=
  (s.port p).up = true ∧ msgDst m = s.fabricId ∧ msgIntact s.fabricId m = true ∧
    (msgOrdered m = true →
      (msgSeq m + 2 ^ 32 - (if msgFlowStart m then msgSeq m else smGet 0 s.fabric.expectSeq (msgSrc m))) % 2 ^ 32 < 2 ^ 31)

/-- The state once a message has been taken from its port and checked: it no longer waits there, and an ordered flow expects the next SEQ. -/
def Taken (s u : State) (p : Nat) (m : Message) : Prop :=
  u = { s with fabric.ports := u.fabric.ports, fabric.expectSeq := u.fabric.expectSeq, cvus := u.cvus } ∧
    (u.port p).inbox = (s.port p).inbox.erase m ∧ (u.port p).queue = (s.port p).queue ∧ (∀ q, q ≠ p → u.port q = s.port q) ∧
    (msgOrdered m = true → smFind u.fabric.expectSeq (msgSrc m) = some ((msgSeq m + 1) % 2 ^ 32)) ∧
    (msgOrdered m = false → u.fabric.expectSeq = s.fabric.expectSeq)

/-- One answer to a message is queued at the next hop to its source, where there is one: with its operation, REASON and data, under a right check
value (R376, R379, R381). -/
def AnswerQueued (s t : State) (m : Message) (op reason : Nat) (data : List Byte) : Prop :=
  ∃ M : Message, msgOp M = op ∧ msgSrc M = s.fabricId ∧ msgDst M = msgSrc m ∧ msgTag M = msgTag m ∧ msgReason M = reason ∧ M.data = data ∧
    msgOrdered M = msgOrdered m ∧ M.check.toNat = msgCheck (msgSrc m) M.header.toNat data ∧
    ∀ q, (t.port q).queue =
      if s.nextHop s.fabricId (msgSrc m) (2 + if msgOrdered m then 0 else 1) (msgOrdered m) = some q then (s.port q).queue ++ msgFlits M
      else (s.port q).queue

/-- A request is answered by a NACK (R381, R389). -/
def Refuses (s t : State) (p : Nat) (m : Message) (reason : Nat) : Prop :=
  t = { s with fabric.ports := t.fabric.ports, fabric.nextSeq := t.fabric.nextSeq, sec.counters := t.sec.counters, qos := t.qos } ∧
    AnswerQueued s t m 5 reason [] ∧ Counters.get (t.port p).counters 0x258 = satAdd64 (Counters.get (s.port p).counters 0x258) 1

/-- A request is served, and answered. -/
def Replies (s t : State) (m : Message) (op : Nat) (data : List Byte) : Prop :=
  t = { s with fabric.ports := t.fabric.ports, fabric.nextSeq := t.fabric.nextSeq, qos := t.qos } ∧ AnswerQueued s t m op 0 data

end Sys2Proof.Machine

/-- Peer requests (R376, R379 to R384): a request is served only in READY, for a job that is present and may be reached over
Trerik, and within its footprint, and charged to its port (R302); otherwise it is answered by a NACK with its REASON; a read
is answered by DATA with the bytes, a write, done in full, by ACK, a reduction by DATA with the old values; one that fails
its check is answered by a NACK. Readings of the model's own in it: log entries 49, 135, 144, 206, 207. -/
def Obligations.PeerRequests : Prop :=
  (∀ (m : Message) (s : State),
    (s.unassigned = true ∨ (s.dev.mode ≠ .ready ∧ s.dev.mode ≠ .bringup) → s.peerAdmit m = .error 5) ∧
    (s.unassigned = false → s.dev.mode = .ready →
      (s.job (msgJob m) = none → s.peerAdmit m = .error 1) ∧
      ∀ v, s.job (msgJob m) = some v →
        (s.present (msgJob m) = true → s.peerAdmit m = if s.jobFlag v 5 then .ok v else .error 7) ∧
        (s.present (msgJob m) = false → s.peerAdmit m = match s.plan.place v.image (msgAddr m) with
          | some pl => .error (if s.dev.stackReset.getLsbD pl.s then 4 else 1)
          | none => .error 1))) ∧
  (∀ (port : Fin 18) (m : Message) (c : Instr) (s : State), msgOp m < 3 →
    c = (if msgOp m = 0 then .fabricRead port m else if msgOp m = 1 then .fabricWrite port m else .fabricRed port m) →
    ((s.port port.val).up = false ∨ msgDst m ≠ s.fabricId → exec c s = .next s) ∧
    ((s.port port.val).up = true → msgDst m = s.fabricId → msgIntact s.fabricId m = false →
      ∃ u t, exec c s = .next t ∧ u = { s with fabric.ports := u.fabric.ports, cvus := u.cvus } ∧ Refuses u t port.val m 9 ∧
        Counters.get (t.port port.val).counters 0x260 = satAdd64 (Counters.get (s.port port.val).counters 0x260) 1) ∧
    (Arrives s port.val m → ∃ u, Taken s u port.val m ∧
      (∀ r, u.peerAdmit m = .error r → ∃ t, exec c s = .next t ∧ Refuses u t port.val m r) ∧
      ∀ v, u.peerAdmit m = .ok v →
        (msgOp m = 0 →
          (2048 < msgRlen m ∨ msgRlen m = 0 ∨ v.image.footprint < msgAddr m + msgRlen m →
            ∃ t, exec c s = .next t ∧ Refuses u t port.val m 2) ∧
          (0 < msgRlen m → msgRlen m ≤ 2048 → msgAddr m + msgRlen m ≤ v.image.footprint →
            let g := u.inbound port.val m (msgRlen m)
            (∀ w, g.2.readMem v.image (byPort port.val g.1) (msgAddr m) (msgRlen m) = .error w → exec c s = .next (s.waits w)) ∧
            ∀ d w, g.2.readMem v.image (byPort port.val g.1) (msgAddr m) (msgRlen m) = .ok (d, w) →
              (w.present (msgJob m) = true → ∃ t, exec c s = .next t ∧ Replies w t m 3 d) ∧
              (w.present (msgJob m) = false → ∃ t, exec c s = .next t ∧ Refuses w t port.val m 1))) ∧
        (msgOp m = 1 →
          (m.data = [] ∨ v.image.footprint < msgAddr m + m.data.length → ∃ t, exec c s = .next t ∧ Refuses u t port.val m 2) ∧
          (m.data ≠ [] → msgAddr m + m.data.length ≤ v.image.footprint → v.image.inPool (msgAddr m) m.data.length = true →
            ∃ t, exec c s = .next t ∧ Refuses u t port.val m 3) ∧
          (m.data ≠ [] → msgAddr m + m.data.length ≤ v.image.footprint → v.image.inPool (msgAddr m) m.data.length = false →
            let g := u.inbound port.val m m.data.length
            (∀ w, g.2.writeMem v.image (byPort port.val g.1) (msgAddr m) m.data = .error w → exec c s = .next (s.waits w)) ∧
            ∀ w, g.2.writeMem v.image (byPort port.val g.1) (msgAddr m) m.data = .ok w → w.present (msgJob m) = true →
              ∃ t, exec c s = .next t ∧ Replies w t m 4 [])) ∧
        (msgOp m = 2 →
          (atomOfCode (msgRed m % 16) = none → ∃ t, exec c s = .next t ∧ Refuses u t port.val m 8) ∧
          ∀ op, atomOfCode (msgRed m % 16) = some op →
            (redAccepts op (msgRed m / 16) = false → ∃ t, exec c s = .next t ∧ Refuses u t port.val m 8) ∧
            ∀ rs, redAccepts op (msgRed m / 16) = true →
              subRequests (if op = .acas then 8 else redSize op (msgRed m / 16)) 256 m.data = some rs →
              ((∃ r ∈ rs, r.offset % redSize op (msgRed m / 16) ≠ 0) → ∃ t, exec c s = .next t ∧ Refuses u t port.val m 8) ∧
              ((∀ r ∈ rs, r.offset % redSize op (msgRed m / 16) = 0 ∧ r.offset + redSize op (msgRed m / 16) ≤ 256 ∧
                  rangeBad v.image (msgAddr m + r.offset) (redSize op (msgRed m / 16)) true = none) →
                let g := u.inbound port.val m 64
                ∀ bs w, State.redList v.image (byPort port.val g.1) op (msgRed m / 16) (msgAddr m) rs g.2 = .ok (bs, w) →
                  w.present (msgJob m) = true → ∃ t, exec c s = .next t ∧ Replies w t m 3 bs)))) ∧
  (∀ (port : Fin 18) (m : Message) (s : State), (msgOp m ≠ 0 → exec (.fabricRead port m) s = .next s) ∧
    (msgOp m ≠ 1 → exec (.fabricWrite port m) s = .next s) ∧ (msgOp m ≠ 2 → exec (.fabricRed port m) s = .next s))

namespace Sys2Proof.Machine

/-- A peer access ends in a fault of its job: it is no longer outstanding, it is counted at its tile, and the job's end is decided by the fault, with the
destination, the REASON and the TAG (R385, R516). -/
def PeerFaulted (s t : State) (a : PeerAccess) (code reason : Nat) : Prop :=
  t = { s with fabric.outstanding := s.fabric.outstanding.filter (fun b => b.tag != a.tag), jobs := t.jobs, tiles := t.tiles, qos := t.qos } ∧
    (∀ n, t.tile n = if n = a.tile then { s.tile n with counters := (s.tile n).counters.add 0x150 1 } else s.tile n) ∧
    (∀ j, j ≠ a.job.toNat → t.job j = s.job j) ∧
    ∀ v, s.job a.job.toNat = some v → v.ended = none → t.job a.job.toNat = some { v with
      ended := some ⟨3, BitVec.ofNat 8 code, s.aon, BitVec.ofNat 32 a.tile, a.group, a.set, a.pc, 1, BitVec.ofNat 8 code, v.image.stackBits,
        BitVec.ofNat 256 (bytesToNat (natToBytes 2 a.dest.toNat ++ natToBytes 2 reason ++ natToBytes 2 a.tag.toNat)), 0xFFFFFFFF, false⟩ }

end Sys2Proof.Machine

/-- Replies and timeouts (R376, R379, R381, R385): DATA brings its values to the lanes of the access that it answers, ACK
ends a store; a NACK, a reply that fails its check, and a request whose reply does not come in time fault the job with the
codes of R385; a reply that answers nothing is dropped. Readings of the model's own in it: log entries 4, 42, 135, 146. -/
def Obligations.PeerReplies : Prop :=
  (∀ (port : Fin 18) (m : Message) (c : Instr) (s : State), msgOp m ∈ [3, 4, 5] →
    c = (if msgOp m = 3 then .fabricData port m else if msgOp m = 4 then .fabricAck port m else .fabricNack port m) →
    ((s.port port.val).up = false ∨ msgDst m ≠ s.fabricId → exec c s = .next s) ∧
    ((s.port port.val).up = true → msgDst m = s.fabricId → msgIntact s.fabricId m = false →
      ∃ u t, exec c s = .next t ∧ u = { s with fabric.ports := u.fabric.ports, cvus := u.cvus } ∧
        Counters.get (t.port port.val).counters 0x260 = satAdd64 (Counters.get (s.port port.val).counters 0x260) 1 ∧
        (s.findAccess m = none → t = u) ∧ ∀ a, s.findAccess m = some a → PeerFaulted u t a 0x34 0) ∧
    (Arrives s port.val m → ∃ u, Taken s u port.val m ∧
      (s.findAccess m = none → exec c s = .next u) ∧
      ∀ a, s.findAccess m = some a →
        (msgOp m = 3 → a.size ≠ 0 → m.data.length = a.size * a.lanes.length → ∃ t, exec c s = .next t ∧
          t = { u with fabric.outstanding := u.fabric.outstanding.filter (fun b => b.tag != a.tag), tiles := t.tiles, qos := t.qos } ∧
          ∀ n k, smFind (t.tile n).groups k = (smFind (u.tile n).groups k).map fun g =>
            if n = a.tile ∧ k = a.slot ∧ g.id = a.group then g.landPeer a m.data else g) ∧
        (msgOp m = 4 → a.size = 0 → ∃ t, exec c s = .next t ∧
          t = { u with fabric.outstanding := u.fabric.outstanding.filter (fun b => b.tag != a.tag), tiles := t.tiles, qos := t.qos } ∧
          ∀ g, smFind (u.tile a.tile).groups a.slot = some g → g.id = a.group → ∃ h, smFind (t.tile a.tile).groups a.slot = some h ∧
            h = { g with peerAcks := h.peerAcks } ∧ ∀ l, smGet 0 h.peerAcks l = smGet 0 g.peerAcks l - a.lanes.count l) ∧
        (msgOp m = 5 → ∃ t, exec c s = .next t ∧
          (msgReason m = 9 → PeerFaulted u t a 0x34 9) ∧ (msgReason m = 6 → PeerFaulted u t a 0x35 6) ∧
          (msgReason m ∈ [1, 2, 3, 4, 5, 7, 8] → PeerFaulted u t a 0x36 (msgReason m)) ∧ (msgReason m = 0 ∨ 9 < msgReason m → t = { u with qos := t.qos })))) ∧
  (∀ (g : Group) (a : PeerAccess) (l : Fin 32) (data : List Byte), a.lanes = [l.val] → a.signed = false → a.size = 4 → a.rd < 255 → data.length = 4 →
    (g.landPeer a data).reg l.val a.rd = BitVec.ofNat 32 (bytesToNat data) ∧
      ∀ k : Fin 32, k ≠ l → ∀ r, r < 255 → (g.landPeer a data).reg k.val r = g.reg k.val r) ∧
  (∀ (tag : BitVec 16) (s : State),
    (∀ a, s.fabric.outstanding.find? (fun a => a.tag == tag) = some a →
      (4000 * max 1 (s.reg 0x600C 0x9C4 % 65536) ≤ s.aon.toNat - a.sentAt → ∃ t, exec (.fabricTimeout tag) s = .next t ∧ PeerFaulted s t a 0x33 0) ∧
      (s.aon.toNat - a.sentAt < 4000 * max 1 (s.reg 0x600C 0x9C4 % 65536) → exec (.fabricTimeout tag) s = .next s)) ∧
    (s.fabric.outstanding.find? (fun a => a.tag == tag) = none → exec (.fabricTimeout tag) s = .next s))

namespace Sys2Proof.Machine

/-- A message is queued, one hop older, at each port of its broadcast mask that serves, but at the port of its arrival (R374, R382). -/
def SpreadOn (s t : State) (p : Nat) (m : Message) : Prop :=
  ∀ q < 18, (t.port q).queue =
    if q ≠ p ∧ (s.routeOf (msgDst m)).mask.getLsbD q = true ∧ s.portServes q = true ∧ (s.port q).retraining = false then
      (s.port q).queue ++ msgFlits (msgHopped m)
    else (s.port q).queue

end Sys2Proof.Machine

/-- Transit and broadcast (R372 to R374, R380, R382, R384): a message for another device goes to the next hop, one hop older;
without a hop a request is answered by a NACK and a reply is dropped; a message whose HOPS is used up is dropped and counted;
a broadcast is delivered to the job here and forwarded on its mask, and is never answered. Readings of the model's own in it:
log entries 135, 143, 147, 206, 207. -/
def Obligations.TransitAndBroadcast : Prop :=
  (∀ (port : Fin 18) (m : Message) (s : State),
    let p := port.val
    (((s.port p).up = false ∨ msgDst m = s.fabricId ∨ msgOp m = 6) → exec (.messageForward port m) s = .next s) ∧
    ((s.port p).up = true → msgDst m ≠ s.fabricId → msgOp m ≠ 6 → ∃ u t, exec (.messageForward port m) s = .next t ∧
      OnlyPort s u p (u.port p) ∧ (u.port p).inbox = (s.port p).inbox.erase m ∧ (u.port p).queue = (s.port p).queue ∧
      (msgHops m = 0 → OnlyPort u t p { u.port p with counters := (u.port p).counters.add 0x270 1 }) ∧
      (msgHops m ≠ 0 → ∀ q, u.nextHop (msgSrc m) (msgDst m) (msgVc m) (msgOrdered m) = some q →
        t = { s with fabric.ports := t.fabric.ports } ∧ Counters.get (t.port p).counters 0x250 = satAdd64 (Counters.get (s.port p).counters 0x250) 1 ∧
        ∀ r, (t.port r).queue = if r = q then (s.port r).queue ++ msgFlits (msgHopped m) else (s.port r).queue) ∧
      (msgHops m ≠ 0 → u.nextHop (msgSrc m) (msgDst m) (msgVc m) (msgOrdered m) = none →
        (msgOp m < 3 → Refuses u t p m 6) ∧ (3 ≤ msgOp m → t = u)))) ∧
  (∀ (port : Fin 18) (m : Message) (s : State),
    let p := port.val
    (msgOp m ≠ 6 ∨ (s.port p).up = false → exec (.bcast port m) s = .next s) ∧
    (msgOp m = 6 → (s.port p).up = true →
      (msgDst m / 256 ≠ s.fabricId / 256 ∨ s.unassigned = true → ∃ t, exec (.bcast port m) s = .next t ∧
        t = { s with fabric.ports := t.fabric.ports } ∧ (t.port p).inbox = (s.port p).inbox.erase m ∧
        (msgHops m ≠ 0 → SpreadOn s t p m) ∧
        (msgHops m = 0 → (∀ q, (t.port q).queue = (s.port q).queue) ∧
          Counters.get (t.port p).counters 0x270 = satAdd64 (Counters.get (s.port p).counters 0x270) 1)) ∧
      (msgDst m / 256 = s.fabricId / 256 → s.unassigned = false →
        (msgIntact (s.fabricId / 256 * 256 + 0xFF) m = false → ∃ t, exec (.bcast port m) s = .next t ∧
          t = { s with fabric.ports := t.fabric.ports, cvus := t.cvus } ∧ (msgHops m ≠ 0 → SpreadOn s t p m) ∧
          Counters.get (t.port p).counters 0x260 = satAdd64 (Counters.get (s.port p).counters 0x260) 1) ∧
        (msgIntact (s.fabricId / 256 * 256 + 0xFF) m = true → ∃ u : State, u = { s with fabric.ports := u.fabric.ports, cvus := u.cvus } ∧
          (∀ r, u.peerAdmit m = .error r → ∃ t, exec (.bcast port m) s = .next t ∧ t = { u with fabric.ports := t.fabric.ports } ∧
            (msgHops m ≠ 0 → SpreadOn s t p m)) ∧
          ∀ v, u.peerAdmit m = .ok v →
            (v.image.footprint < msgAddr m + m.data.length ∨ v.image.inPool (msgAddr m) m.data.length = true → ∃ t, exec (.bcast port m) s = .next t ∧
              t = { u with fabric.ports := t.fabric.ports, qos := t.qos } ∧ (msgHops m ≠ 0 → SpreadOn s t p m)) ∧
            (msgAddr m + m.data.length ≤ v.image.footprint → v.image.inPool (msgAddr m) m.data.length = false →
              let g := u.inbound p m m.data.length
              (∀ w, g.2.writeMem v.image (byPort p g.1) (msgAddr m) m.data = .error w → exec (.bcast port m) s = .next (s.waits w)) ∧
              ∀ w, g.2.writeMem v.image (byPort p g.1) (msgAddr m) m.data = .ok w → ∃ t, exec (.bcast port m) s = .next t ∧
                t = { w with fabric.ports := t.fabric.ports, qos := t.qos } ∧ (msgHops m ≠ 0 → SpreadOn w t p m))))))

/-! ## The sole -/

namespace Sys2Proof.Machine

/-- A line rests: nothing is in progress on it, nothing waits, and no word of a sole holds an error. -/
def Rests (s : State) (l : Nat) (e : SoleLine) : Prop :=
  s.soleLine l = e ∧ e.queue = [] ∧ e.txn = none ∧ e.dir ≠ .br ∧ e.evicting = false ∧ s.hbm.soleFlips = []

/-- The rows that bring a request to a line, with the request; a TACK covers a long line or a short one. -/
noncomputable def soleRows (line : BitVec 32) (tile : Fin 416) (need : BitVec 256) (src : Sender) (data : BitVec 2048) (mask : BitVec 256)
    (q : RedRequest) (long : Bool) : List (Instr × Request) :=
  [(.gets tile line need, .gets tile need), (.getm tile line, .getm tile), (.ncrd line src need, .ncrd src need),
   (.ncwr line src data mask, .ncwr src data mask), (.red line q, .red q), (.tack line, .tack long), (.untack line, .untack)]

/-- A request needs bytes that its line does not hold. -/
def fetches (e : SoleLine) : Request → Bool
  | .gets _ n | .ncrd _ n => !e.present || n &&& ~~~e.valid != 0
  | .red q => redMask q &&& ~~~e.valid != 0
  | .tack _ => !e.present
  | _ => false

/-- A line as it stands in its set after a request's effect, if it fits. -/
def served (s : State) (l : Nat) (e : SoleLine) (a : Asked) : Option SoleLine :=
  let f := e.after l a
  if f.present || f.valid != 0 || f.dir != .i then s.fit l f [] else some f

/-- The messages that the sender of a request receives (R201, R202, R205). -/
def replyTo (line : BitVec 32) (e : SoleLine) (was : Dir) (a : Asked) : List NetMsg :=
  match a.req with
  | .gets t _ => [.fill t line e.data e.valid (was = .i) a.hdr]
  | .getm t => [.grant t line a.hdr]
  | .putm t _ _ => [.ack (.l1 t) line a.hdr]
  | .ncrd (.thread x) _ => [.ncData (.thread x) line e.data a.hdr]
  | .ncwr src _ _ => [.ack src line a.hdr]
  | _ => []

/-- What a read leaves where its sender is no thread: the bytes read and the request's completion; any other request changes neither. -/
def ReadBy (s t : State) (e : SoleLine) (a : Asked) : Prop :=
  match a.req with
  | .ncrd (.thread _) _ => t.qos = s.qos ∧ t.host = s.host
  | .ncrd _ _ => t.qos = (s.replied a.hdr).qos ∧ t.host = { s.host with lastRead := lineBytes e.data }
  | _ => t.qos = s.qos ∧ t.host = s.host

end Sys2Proof.Machine

/-- Requests at the home slice (R194, R201 to R206, R210 to R213, R302): how a request reaches the slice, and with which
header; on a line that rests it is served at once where it needs no recall and no bytes, with the next state and the reply
that R202 gives; otherwise recalls are sent, or the line waits for its bytes; a slice that has no entry for it takes none; an
L1's write-back; what R202's table says of each state and request. Readings of the model's own in it: log entries 4, 47, 48,
51, 177, 178, 181, 186. -/
def Obligations.SoleRequests : Prop :=
  (∀ (line : BitVec 32) (tile : Fin 416) (need : BitVec 256) (src : Sender) (data : BitVec 2048) (mask : BitVec 256) (q : RedRequest) (long : Bool) (s : State),
    ∀ x ∈ soleRows line tile need src data mask q long,
    let l := line.toNat
    let r := x.2
    redOk q = true → (∀ j v, s.lineJob l = some (j, v) → long = s.tacksLong v.image l) →
    (s.lineJob l = none ∨ s.takeRequest l r = none ∨ (∃ a u, s.takeRequest l r = some (a, u) ∧ s.homed l a.hdr = false) → exec x.1 s = .next s) ∧
    ∀ (j : Nat) (v : Job) (a : Asked) (u : State) (e : SoleLine), s.lineJob l = some (j, v) → s.takeRequest l r = some (a, u) → s.homed l a.hdr = true →
      (∀ b, r = .tack b → s.tackAllowed v.image [l] = true) → Rests s l e →
      a.req = r ∧
      ((s.recallsOf l r).2 ≠ [] → ∃ t, exec x.1 s = .next t ∧ t = { u with sole := t.sole } ∧
        t.soleLine l = { e with txn := some ⟨a, (s.recallsOf l r).2, false, false⟩ } ∧ (∀ k, k ≠ l → t.soleLine k = s.soleLine k) ∧
        t.sole.net = u.sole.net ++ (s.recallsOf l r).2.filterMap fun n =>
          if h : n < 416 then some (.recall ⟨n, h⟩ line (s.recallsOf l r).1 a.hdr) else none) ∧
      ((s.recallsOf l r).2 = [] → fetches e r = true → ∃ t b, exec x.1 s = .next t ∧ t = { u with sole := t.sole } ∧
        t.soleLine l = { e with txn := some ⟨a, [], true, b⟩ } ∧ (smSorted s.sole.lines = true → b = s.slotFree (lineHbm l).1 a.hdr) ∧
        (∀ k, k ≠ l → t.soleLine k = s.soleLine k) ∧ t.sole.net = u.sole.net) ∧
      ∀ e', (s.recallsOf l r).2 = [] → fetches e r = false → served s l e a = some e' →
        ∃ t, exec x.1 s = .next t ∧ t = { u with sole := t.sole, host := t.host, qos := t.qos } ∧ ReadBy u t e' a ∧
          t.soleLine l = { e' with recency := s.sole.stamp + 1 } ∧ t.sole.net = u.sole.net ++ replyTo line e' e.dir a ∧
          (e'.isLong = false → ∀ k, k ≠ l → t.soleLine k = s.soleLine k)) ∧
  (∀ (line : BitVec 32) (r : Request) (s : State),
    let l := line.toNat
    let b := s.sender l r
    let g := s.grant b.master b.cls r.charge
    (∀ n ∈ s.sole.net, ∀ h, n ≠ .request line ⟨r, h⟩) →
    ((∃ i ∈ s.qos.inject, i.line = line ∧ i.req = r) → s.takeRequest l r = none) ∧
    ((∀ i ∈ s.qos.inject, i.line ≠ line ∨ i.req ≠ r) → (∃ t n, r = .gets t n ∨ r = .getm t) ∨ (∃ x n d, r = .ncrd x n ∨ r = .ncwr x d n) ∨ (∃ q, r = .red q) →
      s.takeRequest l r = if s.inOrder (.request line ⟨r, g.1⟩) && s.mayCross (.request line ⟨r, g.1⟩) then some (⟨r, g.1⟩, g.2) else none)) ∧
  (∀ (line : BitVec 32) (a : Asked) (pre post : List NetMsg) (s : State), s.sole.net = pre ++ .request line a :: post →
    (∀ n ∈ pre, ∀ h, n ≠ .request line ⟨a.req, h⟩) →
    s.takeRequest line.toNat a.req =
      if s.inOrder (.request line a) && s.mayCross (.request line a) then some (a, { s with sole.net := pre ++ post }) else none) ∧
  (∀ (tile : Fin 416) (line : BitVec 32) (j : Nat) (v : Job) (c : L1Line) (e e' : SoleLine) (s : State),
    let l := line.toNat
    let a : Asked := ⟨.putm tile c.data c.dirty, c.hdr⟩
    (s.lineJob l = none → exec (.putm tile line) s = .next s) ∧
    (s.lineJob l = some (j, v) → (∀ n ∈ s.sole.net, ∀ d m h, n ≠ .request line ⟨.putm tile d m, h⟩) →
      (smFind (s.tile tile.val).l1 l = none → exec (.putm tile line) s = .next s) ∧
      (smFind (s.tile tile.val).l1 l = some c → c.dirty = 0 → ∃ t, exec (.putm tile line) s = .next t ∧ t = { s with tiles := t.tiles } ∧
        ∀ n, t.tile n = if n = tile.val then { s.tile n with l1 := smErase (s.tile n).l1 l } else s.tile n) ∧
      (smFind (s.tile tile.val).l1 l = some c → c.dirty ≠ 0 → (s.tile tile.val).flips = [] → Rests s l e → e.present = true → served s l e a = some e' →
        (∀ n ∈ s.sole.net, ∀ k, n.fromL1 = some (tile.val, k) → s.plan.lineSlice k ≠ s.plan.lineSlice l) →
        ∃ t, exec (.putm tile line) s = .next t ∧ t = { s with sole := t.sole, tiles := t.tiles } ∧
          (∀ n, t.tile n = if n = tile.val then { s.tile n with l1 := smErase (s.tile n).l1 l } else s.tile n) ∧
          (s.mayCross (.request line a) = false ∨ s.homed l c.hdr = false → t.sole = { s.sole with net := s.sole.net ++ [.request line a] }) ∧
          (s.mayCross (.request line a) = true → s.homed l c.hdr = true →
            t.soleLine l = { e' with recency := s.sole.stamp + 1 } ∧ t.sole.net = s.sole.net ++ [.ack (.l1 tile) line c.hdr])))) ∧
  (∀ (e : SoleLine) (l : Nat) (t : Fin 416) (n : BitVec 256) (src : Sender) (d : BitVec 2048) (m : BitVec 256) (q : RedRequest) (h : Hdr),
    let w := { e with dir := .i, groups := 0, dies := 0, owner := 0 }
    let goes := fun (r : Request) => e.after l ⟨r, h⟩
    (e.dir = .i → goes (.gets t n) = { w with dir := .e, owner := t }) ∧
    (e.dir = .s → (t.val / 52 = l / 2 ^ 29 → goes (.gets t n) = { e with groups := e.groups ||| BitVec.ofNat 13 (2 ^ (t.val % 52 / 4)) }) ∧
      (t.val / 52 ≠ l / 2 ^ 29 → goes (.gets t n) = { e with dies := e.dies ||| BitVec.ofNat 8 (2 ^ (t.val / 52)) })) ∧
    (e.dir = .e ∨ e.dir = .m → e.owner = t → goes (.gets t n) = e) ∧
    (e.dir = .e ∨ e.dir = .m → e.owner ≠ t → (goes (.gets t n)).dir = .s) ∧
    goes (.getm t) = { w with dir := .m, owner := t } ∧
    (e.dir = .e ∨ e.dir = .m → e.owner = t → goes (.putm t d m) = { w with
      data := byteMerge e.data d m, valid := e.valid ||| m, dirty := e.dirty ||| dirtyOf m }) ∧
    (e.dir = .i ∨ e.dir = .s → goes (.ncrd src n) = e) ∧ (e.dir = .e ∨ e.dir = .m → (goes (.ncrd src n)).dir = .s) ∧
    (goes (.ncwr src d m)).dir = .i ∧ (goes (.ncwr src d m)).valid = e.valid ||| m ∧
    (∀ k < 256, lineField (goes (.ncwr src d m)).data k 1 = if m.getLsbD k then lineField d k 1 else lineField e.data k 1) ∧
    (goes (.red q)).dir = .br ∧ (goes (.red q)).queue = ⟨.red q, h⟩ :: e.queue ∧ (goes (.red q)).applied = 0 ∧
    (∀ b, goes (.tack b) = { e with tack := true }) ∧ goes .untack = { e with tack := false })

/-- Reductions, fills, write-backs and retries at the home slice (R142, R190 to R199, R206 to R209): the RED at the head of a
BR line's queue is applied in place within the window; an episode that closes returns the line to I; the bytes that a request
waits for are placed and the request is served; an eviction whose data is accepted frees the line and its bytes stand in HBM;
a line that waits for room is tried again. Readings of the model's own in it: log entries 4, 5, 47, 48, 50, 51, 181, 183,
184, 185. -/
def Obligations.SoleLinesServed : Prop :=
  (∀ (line : BitVec 32) (s : State) (e : SoleLine) (r : RedRequest) (hdr : Hdr) (rest : List Asked),
    let l := line.toNat
    s.soleLine l = e →
    (e.queue = ⟨.red r, hdr⟩ :: rest → e.redReady r = true → s.hbm.soleFlips = [] →
      let a := redApplyList r.op r.fmt.toNat r.operands e.data
      ∃ t, exec (.redApply line) s = .next t ∧ t = { s with sole := t.sole } ∧ t.sole.replies = s.sole.replies ++ [⟨r.tag, hdr, a.2.1, a.2.2⟩] ∧
        t.soleLine l = { e with
          data := a.1, dirty := e.dirty ||| dirtyOf (redMask r), queue := rest, applied := e.applied + 1, recency := s.sole.stamp + 1 } ∧
        (e.applied = 0 → t.sole.slices = s.sole.slices) ∧ (e.isLong = false → ∀ k, k ≠ l → t.soleLine k = s.soleLine k)) ∧
    ((∀ p h ps, e.queue = ⟨.red p, h⟩ :: ps → e.redReady p = false) → exec (.redApply line) s = .next s) ∧
    (e.redReady r = true ↔ e.dir = .br ∧ e.applied < 96 ∧ redMask r &&& ~~~e.valid = 0)) ∧
  (∀ (op : AtomicOp) (fmt : Nat) (o : RedOperand) (d : BitVec 2048), o.offset.val + redSize op fmt ≤ 256 →
    let a := redApplyList op fmt [o] d
    let x := atomStep op fmt (lineField d o.offset.val (redSize op fmt)) o.operand.toNat
    a.2.1 = x.2 ∧ a.2.2 = [(o.lane.val, BitVec.ofNat 128 (lineField d o.offset.val (redSize op fmt)))] ∧
      lineField a.1 o.offset.val (redSize op fmt) = x.1 % 2 ^ (8 * redSize op fmt) ∧
      ∀ k < 256, k < o.offset.val ∨ o.offset.val + redSize op fmt ≤ k → lineField a.1 k 1 = lineField d k 1) ∧
  (∀ (line : BitVec 32) (s : State) (j : Nat) (v : Job) (e e' : SoleLine),
    let l := line.toNat
    s.soleLine l = e → (s.lineJob l = none → ∀ c ∈ [Instr.brEpisodeClose line, .writebackAccepted line, .fillRetry line, .fillComplete line],
      exec c s = .next s) ∧
    (s.lineJob l = some (j, v) →
    (e.dir ≠ .br ∨ (∃ r h rest, e.queue = ⟨.red r, h⟩ :: rest ∧ e.applied < 96) → exec (.brEpisodeClose line) s = .next s) ∧
    (e.dir = .br → e.queue = [] → e.deferred = false → e.isLong = false → l ∉ s.hbm.passed → s.fit l { e with dir := .i, applied := 0 } [] = some e' →
      ∃ t, exec (.brEpisodeClose line) s = .next t ∧ t = { s with sole := t.sole, hbm.soleFlips := t.hbm.soleFlips } ∧ t.soleLine l = e' ∧ e'.dir = .i ∧
        ∀ k, k ≠ l → t.soleLine k = s.soleLine k) ∧
    (e.txn = none ∨ e.evicting = false ∨ e.dirty = 0 → exec (.writebackAccepted line) s = .next s) ∧
    (e.txn ≠ none → e.evicting = true → e.dirty ≠ 0 → e.queue = [] → e.valid = allBytes → e.isLong = false → s.hbm.soleFlips = [] →
      (∀ pg ∈ s.linePage v.image l, pg ∉ s.unfilledPages (lineHbm l).1) →
      ∃ t, exec (.writebackAccepted line) s = .next t ∧ t = { s with sole := t.sole, hbm := t.hbm } ∧ t.soleLine l = SoleLine.absent ∧
        (∀ k < 4, lineField (t.hbmLine l) (64 * k) 64 = if e.dirty.getLsbD k then lineField e.data (64 * k) 64 else lineField (s.hbmLine l) (64 * k) 64) ∧
        ∀ n, n ≠ l → t.soleLine n = s.soleLine n ∧ t.hbmLine n = s.hbmLine n) ∧
    (l ∉ s.sole.waiting ∨ s.serves j l = false → exec (.fillRetry line) s = .next s) ∧
    (l ∈ s.sole.waiting → s.serves j l = true → e.txn = none → s.fit l e [] = some e' → ∃ t, exec (.fillRetry line) s = .next t ∧
      t = { s with sole := t.sole, hbm.soleFlips := t.hbm.soleFlips } ∧ t.soleLine l = e' ∧ l ∉ t.sole.waiting ∧ l ∉ t.sole.stuck ∧ l ∉ t.sole.demoted ∧
      ∀ k, k ≠ l → t.soleLine k = s.soleLine k) ∧
    ((∀ x ∈ e.txn, x.fetching = false ∨ x.slot = false) ∨ s.serves j l = false ∨ l ∈ s.sole.waiting → exec (.fillComplete line) s = .next s) ∧
    (∀ a : Asked, e.txn = some ⟨a, [], true, true⟩ → e.queue = [] → s.serves j l = true → l ∉ s.sole.waiting → s.hbm.flips = [] → a.req ≠ .prefetch →
      let d := s.hbmLine l
      let f := e.under d (wholeSectors (needOf a.req &&& ~~~e.valid))
      (e.present = true ∨ (∃ q, a.req = .red q) → s.fit l (f.after l a) [] = some e' →
        ∃ t, exec (.fillComplete line) s = .next t ∧ t = { s with sole := t.sole, hbm := t.hbm, host := t.host, qos := t.qos } ∧ t.hbm.mem = s.hbm.mem ∧
          ReadBy s t e' a ∧ t.soleLine l = { e' with txn := none, recency := s.sole.stamp + 1 } ∧ t.sole.net = s.sole.net ++ replyTo line e' e.dir a) ∧
      (e.present = false → e.sectors = 0 → s.fillsLong v.image l = false → (∃ t n, a.req = .gets t n) ∨ (∃ x n, a.req = .ncrd x n) ∨ a.req = .tack false →
        s.fit l { e with data := d, valid := allBytes, dirty := 0, dir := .i, tack := a.req = .tack false } [] = some e' →
        ∃ t, exec (.fillComplete line) s = .next t ∧ t = { s with sole := t.sole, hbm := t.hbm, host := t.host, qos := t.qos } ∧ t.hbm.mem = s.hbm.mem ∧
          ReadBy s t e' a ∧ t.soleLine l = { e'.after l a with txn := none, recency := s.sole.stamp + 2 } ∧
          t.sole.net = s.sole.net ++ replyTo line e' .i a))))

namespace Sys2Proof.Machine

/-- Only some tile, the network of the soles and what a completed request leaves at its master change. -/
def OnlyTileAndNet (s t : State) (tile : Nat) (net : List NetMsg) (hdr : Hdr) : Prop :=
  t = { s with tiles := t.tiles, sole.net := net, qos := (s.replied hdr).qos } ∧ ∀ n, n ≠ tile → t.tile n = s.tile n

/-- The messages for a line that a tile takes: of a recall, of the reply to a read, of a grant. -/
def recallAt (tile : Fin 416) (line : BitVec 32) (inv : Bool) : NetMsg → Bool
  | .recall t n i _ => t == tile && n == line && i == inv
  | .fill t n _ _ _ _ | .grant t n _ => t == tile && n == line
  | _ => false

def fillAt (tile : Fin 416) (line : BitVec 32) : NetMsg → Bool
  | .fill t n _ _ _ _ => t == tile && n == line
  | .ncData (.thread x) n _ _ => x.tile == tile && n == line
  | _ => false

def grantAt (tile : Fin 416) (line : BitVec 32) : NetMsg → Bool
  | .grant u n _ => u == tile && n == line
  | _ => false

/-- An answer of a tile for a line, and an acknowledgement for a sender. -/
def answerAt (tile : Nat) (line : BitVec 32) : NetMsg → Bool
  | .answer u n _ _ _ => u.val == tile && n == line
  | _ => false

def ackAt (src : Sender) : NetMsg → Bool
  | .ack x _ _ => x == src
  | _ => false

end Sys2Proof.Machine

/-- Messages between the soles and the L1s (R197, R200, R201, R204, R205, R215, R246, R307): a recall is answered with the
dirty bytes, or with none from a stack that quiesces, and the L1 keeps a clean copy only of a downgrade; the home slice
merges an answer, and the last lets the request go on, the tiles of another stack answering together; a fill merges under the
bytes that the L1 holds and completes the loads that wait; a grant takes the stores that wait; an acknowledgement is counted
off; a window's end computes the rate and the flag. Readings of the model's own in it: log entries 4, 40, 41, 171, 176. -/
def Obligations.SoleMessages : Prop :=
  (∀ (tile : Fin 416) (line : BitVec 32) (inv : Bool) (h : Hdr) (j : Nat) (v : Job) (s : State),
    let l := line.toNat
    let net := s.sole.net.erase (.recall tile line inv h)
    let off := (s.weltStack (tile.val / 52)).quiescing
    (s.lineJob l = none ∨ (∀ h, s.arrives (recallAt tile line inv) ≠ some (.recall tile line inv h)) → exec (.recall tile line inv) s = .next s) ∧
    (s.arrives (recallAt tile line inv) = some (.recall tile line inv h) → s.lineJob l = some (j, v) → (s.tile tile.val).flips = [] →
      (smFind (s.tile tile.val).l1 l = none → exec (.recall tile line inv) s = .next { s with sole.net := net ++ [.answer tile line 0 0 h] }) ∧
      ∀ c, smFind (s.tile tile.val).l1 l = some c → ∃ t, exec (.recall tile line inv) s = .next t ∧
        t = { s with tiles := t.tiles, sole.net := net ++ [if off then .answer tile line 0 0 h else .answer tile line c.data c.dirty h] } ∧
        (∀ n, n ≠ tile.val → t.tile n = s.tile n) ∧ t.tile tile.val = { s.tile tile.val with l1 := (t.tile tile.val).l1 } ∧
        (inv = true → (t.tile tile.val).l1 = smErase (s.tile tile.val).l1 l) ∧
        (inv = false → smFind (t.tile tile.val).l1 l = some { c with dirty := 0, owned := false }))) ∧
  (∀ (tile : Fin 416) (line : BitVec 32) (d : BitVec 2048) (m : BitVec 256) (h : Hdr) (e : SoleLine) (x : Transaction) (j : Nat) (v : Job) (s : State),
    let l := line.toNat
    let msg := NetMsg.answer tile line d m h
    let left := x.recalls.filter (· != tile.val)
    let f := { (e.merge d m true) with txn := some { x with recalls := left } }
    let net := s.sole.net.filter (· != msg)
    s.soleLine l = e → e.txn = some x → s.lineJob l = some (j, v) →
    (tile.val / 52 ≠ lineStack l → (∃ u ∈ x.recalls, u / 52 = tile.val / 52 ∧ ∀ n ∈ s.sole.net, answerAt u line n = false) →
      exec (.recallAnswer tile line) s = .next s) ∧
    (tile.val / 52 = lineStack l → s.arrives (answerAt tile.val line) = some msg → s.inOrder msg = false → exec (.recallAnswer tile line) s = .next s) ∧
    (tile.val / 52 = lineStack l → s.arrives (answerAt tile.val line) = some msg → s.inOrder msg = true → e.isLong = false →
      (left ≠ [] → ∃ t, exec (.recallAnswer tile line) s = .next t ∧ t = { s with sole := t.sole, hbm.soleFlips := t.hbm.soleFlips } ∧ t.soleLine l = f ∧
        t.sole.net = net ∧ ∀ k, k ≠ l → t.soleLine k = s.soleLine k) ∧
      (left = [] → x.ask.req = .evict → e.queue = [] → ∃ t, exec (.recallAnswer tile line) s = .next t ∧
        t = { s with sole := t.sole, hbm.soleFlips := t.hbm.soleFlips } ∧ t.sole.net = net ∧
        t.soleLine l = (if f.dirty = 0 then SoleLine.absent else { f.noCopies with txn := some ⟨x.ask, [], false, false⟩, evicting := true }) ∧
        ∀ k, k ≠ l → t.soleLine k = s.soleLine k) ∧
      (∀ e', left = [] → x.ask.req ≠ .evict → e.queue = [] → e.present = true → e.evicting = false → fetches f x.ask.req = false →
        s.fit l ({ f with txn := none }.after l x.ask) [] = some e' →
        ∃ t, exec (.recallAnswer tile line) s = .next t ∧ t = { s with sole := t.sole, hbm.soleFlips := t.hbm.soleFlips, host := t.host, qos := t.qos } ∧
          ReadBy s t e' x.ask ∧ t.soleLine l = { e' with recency := s.sole.stamp + 1 } ∧ t.sole.net = net ++ replyTo line e' e.dir x.ask))) ∧
  (∀ (tile : Fin 416) (line : BitVec 32) (s : State), s.sole.net = [] →
    exec (.recallAnswer tile line) s = .next s ∧ exec (.l1Fill tile line) s = .next s ∧ exec (.ownershipGrant tile line) s = .next s) ∧
  (∀ (src : Sender) (line : BitVec 32) (h : Hdr) (s : State),
    let net := s.sole.net.erase (.ack src line h)
    (s.arrives (ackAt src) = none → exec (.writeAcknowledge src) s = .next s) ∧
    (s.arrives (ackAt src) = some (.ack src line h) →
      ((∀ x, src ≠ .thread x) → exec (.writeAcknowledge src) s = .next (({ s with sole.net := net }).replied h)) ∧
      ∀ x g, src = .thread x → s.groupAt x.tile.val x.tgp.val x.slot.val = some g →
        ∃ t u, exec (.writeAcknowledge src) s = .next t ∧ OnlyTileAndNet s t x.tile.val net h ∧
          t.groupAt x.tile.val x.tgp.val x.slot.val = some u ∧ u = { g with acks := u.acks } ∧
          ∀ k, smGet 0 u.acks k = if k = x.lane.val then smGet 0 g.acks k - 1 else smGet 0 g.acks k)) ∧
  (∀ (tile : Fin 416) (line : BitVec 32) (d : BitVec 2048) (v : BitVec 256) (own : Bool) (h : Hdr) (i : Nat) (j : Job) (s : State),
    let l := line.toNat
    let x := s.tile tile.val
    let old := s.l1Line tile.val l
    let c : L1Line := ⟨byteMerge old.data d (v &&& ~~~old.valid), old.valid ||| v, old.dirty, own || old.owned, h⟩
    let net := s.sole.net.erase (.fill tile line d v own h)
    s.arrives (fillAt tile line) = some (.fill tile line d v own h) →
    (s.lineJob l = none → exec (.l1Fill tile line) s = .next s) ∧
    (s.lineJob l = some (i, j) →
      ((∀ p ∈ x.loads, p.line ≠ line) → ∃ t, exec (.l1Fill tile line) s = .next t ∧ OnlyTileAndNet s t tile.val net h ∧
        t.tile tile.val = { x with l1 := smPut x.l1 l c, flips := (t.tile tile.val).flips } ∧ (x.flips = [] → (t.tile tile.val).flips = [])) ∧
      ∀ p g, x.loads = [p] → p.line = line → p.bypass = false → p.size = 4 → p.lane < 32 → p.rd < 255 →
        byteRange p.offset 4 &&& ~~~c.valid = 0 → smFind x.groups p.slot = some g → ∃ t u, exec (.l1Fill tile line) s = .next t ∧
        OnlyTileAndNet s t tile.val net h ∧ (t.tile tile.val).loads = [] ∧ smFind (t.tile tile.val).l1 l = some c ∧
        smFind (t.tile tile.val).groups p.slot = some u ∧ u.reg p.lane p.rd = BitVec.ofNat 32 (lineField c.data p.offset 4) ∧
        ∀ n < 32, ∀ r < 256, n ≠ p.lane ∨ r ≠ p.rd → u.reg n r = g.reg n r)) ∧
  (∀ (x : Site) (line : BitVec 32) (d : BitVec 2048) (h : Hdr) (s : State),
    let src := Sender.thread x
    s.arrives (fillAt x.tile line) = some (.ncData src line d h) →
    ∃ t, exec (.l1Fill x.tile line) s = .next t ∧ OnlyTileAndNet s t x.tile.val (s.sole.net.erase (.ncData src line d h)) h ∧
      (t.tile x.tile.val).l1 = (s.tile x.tile.val).l1 ∧ (t.tile x.tile.val).share = (s.tile x.tile.val).share ∧
      (t.tile x.tile.val).loads = (s.tile x.tile.val).loads.filter fun p => !(p.line == line && p.bypass)) ∧
  (∀ (tile : Fin 416) (line : BitVec 32) (h : Hdr) (i : Nat) (j : Job) (s : State),
    let l := line.toNat
    let x := s.tile tile.val
    let old := s.l1Line tile.val l
    (s.arrives (grantAt tile line) = none ∨ s.lineJob l = none → exec (.ownershipGrant tile line) s = .next s) ∧
    (s.arrives (grantAt tile line) = some (.grant tile line h) → s.lineJob l = some (i, j) → ∃ t c, exec (.ownershipGrant tile line) s = .next t ∧
      OnlyTileAndNet s t tile.val (s.sole.net.erase (.grant tile line h)) h ∧
      t.tile tile.val = { x with l1 := smPut x.l1 l c, stores := x.stores.filter (fun p => p.line != line), flips := (t.tile tile.val).flips } ∧
      (x.flips = [] → (t.tile tile.val).flips = []) ∧ c.owned = true ∧ c.hdr = h ∧
      ((∀ p ∈ x.stores, p.line ≠ line) → c = { old with owned := true, hdr := h }) ∧
      ∀ p, x.stores = [p] → p.line = line → c = ⟨byteMerge old.data p.data p.mask, old.valid ||| p.mask, old.dirty ||| p.mask, true, h⟩)) ∧
  (∀ (slice : Fin 512) (s : State),
    let x := s.slice slice.val
    let level := s.thrashCtl % 256
    let rate := if x.lookups = 0 then 0 else 256 * x.misses / x.lookups
    (s.sliceOk slice.val = false → exec (.thrashWindowEnd slice) s = .next s) ∧
    (s.sliceOk slice.val = true → ∃ t, exec (.thrashWindowEnd slice) s = .next t ∧ t = { s with sole.slices := t.sole.slices } ∧
      (∀ n, n ≠ slice.val → t.slice n = s.slice n) ∧ (t.slice slice.val).rate = min 255 rate ∧ (t.slice slice.val).lookups = 0 ∧
      (t.slice slice.val).misses = 0 ∧ (t.slice slice.val).counters = x.counters ∧
      (4096 ≤ x.lookups → level < rate → (t.slice slice.val).flag = true ∧ (t.slice slice.val).cool = 0) ∧
      (x.lookups < 4096 ∨ rate ≤ level → (t.slice slice.val).cool = min 15 (x.cool + 1) ∧
        ((t.slice slice.val).flag = true ↔ x.flag = true ∧ min 15 (x.cool + 1) < max 1 (s.thrashCtl / 256 % 16)))))

/-! ## HBM -/

namespace Sys2Proof.Machine

/-- A job that has not ended is ended by an uncorrectable memory error. -/
def EndedByMemory (s t : State) (j : Nat) : Prop :=
  ∀ v, s.job j = some v → v.ended = none → ∃ w e, t.job j = some w ∧ w.ended = some e ∧ e.status = 3 ∧ e.detail = 0x2C

/-- A correction is counted for a memory type, and a new location enters its table. -/
def Corrected (s t : State) (k ty loc : Nat) : Prop :=
  t.hbmCounter k (0x100 + 8 * ty) = satAdd64 (s.hbmCounter k (0x100 + 8 * ty)) 1 ∧
  ((∀ x ∈ s.eccTable k ty, x.location ≠ BitVec.ofNat 64 loc) → (s.eccTable k ty).length < 32 → s.repairLevel > 1 →
    t.eccTable k ty = s.eccTable k ty ++ [⟨BitVec.ofNat 64 loc, 1, s.aon, false⟩])

end Sys2Proof.Machine

/-- HBM and stored data (R249, R257, R260 to R268, R310): a scrub read checks the next unit of a channel's walk, or the next
sectors of a sole: a clean one only advances the walk; a correctable error is counted and entered in its table; an
uncorrectable one in the filled footprint of a job ends it, and elsewhere is rewritten, and its row is recorded; the end of a
lap records its age; a lap over its limit is late. A word with one flipped bit is corrected, one with two is not, and in a
tile's memory it ends the job. The front portion of a launch's fill becomes readable; a refresh takes one bank of a channel.
Readings of the model's own in it: log entries 3, 4, 5, 19, 52, 53, 54, 55, 163, 164, 165, 166, 167, 172, 173, 174, 182, 215.
-/
def Obligations.HbmScrubbingAndFill : Prop :=
  (∀ (h : Fin 16) (ch : Fin 32) (us : List Upset) (s : State), exec (.hbmScrubRead h ch us) s = exec (.hbmScrubRead h ch []) (us.foldl State.upset s)) ∧
  (∀ (k : Fin 8) (us : List Upset) (s : State), exec (.soleScrubRead k us) s = exec (.soleScrubRead k []) (us.foldl State.upset s)) ∧
  (∀ (h : Fin 16) (ch : Fin 32) (s : State),
    let k := h.val / 2
    let n := 32 * h.val + ch.val
    let i := s.walkAt n
    let u := s.plan.walkUnit h.val ch.val i
    let cs := s.plan.channels h.val
    let serves := s.dev.hbmTrained = true ∧ s.plan.hbmLive h.val = true ∧ ch.val ∈ cs ∧ s.hbmHalted h.val = false ∧ i < 2 ^ 25
    let last := ∀ c ∈ cs, c ≠ ch.val → 2 ^ 25 ≤ s.walkAt (32 * h.val + c)
    (¬ serves → exec (.hbmScrubRead h ch []) s = .next s) ∧
    (serves → i + 1 < 2 ^ 25 ∨ ¬ last →
      (s.readUnit u = .clean → ∃ t, exec (.hbmScrubRead h ch []) s = .next t ∧ t = { s with hbm.scrubAt := t.hbm.scrubAt } ∧
        ∀ m, t.walkAt m = if m = n then i + 1 else s.walkAt m) ∧
      (∀ es, s.readUnit u = .fixed es → ∃ t, exec (.hbmScrubRead h ch []) s = .next t ∧ smHas t.hbm.flips u = false ∧ Corrected s t k 0 u ∧
        t.hbmCounter k 0x138 = satAdd64 (s.hbmCounter k 0x138) 1 ∧ t.walkAt n = i + 1 ∧ t.jobs = s.jobs) ∧
      (s.readUnit u = .bad → ∃ t, exec (.hbmScrubRead h ch []) s = .next t ∧ t.walkAt n = i + 1 ∧
        t.hbmCounter k 0x118 = satAdd64 (s.hbmCounter k 0x118) 1 ∧
        (s.unitOwner u = none → t.jobs = s.jobs ∧ smHas t.hbm.flips u = false) ∧ (∀ j, s.unitOwner u = some j → EndedByMemory s t j) ∧
        (s.mram.hbmRows.length < 4096 → ∃ r ∈ t.mram.hbmRows, r.row = s.plan.hbmRow u))) ∧
    (serves → i + 1 = 2 ^ 25 → last → s.readUnit u = .clean → ∃ t, exec (.hbmScrubRead h ch []) s = .next t ∧
      (∀ c ∈ cs, t.walkAt (32 * h.val + c) = 0) ∧
      t.hbmCounter k (0x148 + 8 * (h.val % 2)) = s.hbmCounter k (0x160 + 8 * (h.val % 2)) ∧ t.hbmCounter k (0x160 + 8 * (h.val % 2)) = 0 ∧
      (s.hbmCounter k (0x160 + 8 * (h.val % 2)) ≤ s.scrubLimit → t.hbm.late.getLsbD h.val = false) ∧
      (s.scrubLimit < s.hbmCounter k (0x160 + 8 * (h.val % 2)) → t.hbm.late = s.hbm.late))) ∧
  (∀ (stack : Fin 8) (n : Nat) (b : BitVec 72) (s : State),
    let k := stack.val
    let ss := s.plan.stackSlices k
    let i := s.walkAt (512 + k)
    let serves := ss ≠ [] ∧ s.dev.stackUp.getLsbD k = true ∧ (s.weltStack k).quiescing = false
    (¬ serves → exec (.soleScrubRead stack []) s = .next s) ∧
    (serves → walkMore ss (i + 1) = true → (∀ x ∈ s.sole.lines, x.2.dir ≠ .br) →
      (s.hbm.soleFlips = [] → ∃ t, exec (.soleScrubRead stack []) s = .next t ∧ t = { s with hbm.scrubAt := t.hbm.scrubAt } ∧
        ∀ m, t.walkAt m = if m = 512 + k then i + 1 else s.walkAt m) ∧
      (s.hbm.soleFlips = [(2 ^ 30 * k + n, b)] → n < 2 ^ 30 → walkWords ss i n = true →
        (bitCount 72 b.toNat = 1 → ∃ t, exec (.soleScrubRead stack []) s = .next t ∧ t.hbm.soleFlips = [] ∧ Corrected s t k 1 n ∧
          t.hbmCounter k 0x138 = satAdd64 (s.hbmCounter k 0x138) 1 ∧ t.sole = s.sole ∧ t.jobs = s.jobs) ∧
        (bitCount 72 b.toNat = 2 → n / 2 ^ 29 = 1 → ∀ j, s.jobOn k = some j → ∃ t, exec (.soleScrubRead stack []) s = .next t ∧
          t.hbmCounter k 0x120 = satAdd64 (s.hbmCounter k 0x120) 1 ∧ EndedByMemory s t j)))) ∧
  (∀ (n d v : Nat), (bitCount n v ≤ 1 → readWord n d v = some 0) ∧ (bitCount n v = 2 → readWord n d v = none)) ∧
  (∀ (tile nR share n : Nat) (b : BitVec 39) (p : Nat → Bool) (s : State), (s.tile tile).flips = [(n, b)] → p n = true →
    let k := tile / 52
    let r := s.readWords tile nR share p
    (bitCount 39 b.toNat = 1 → r.1 = true ∧ (r.2.tile tile).flips = [] ∧ r.2.tile tile = { s.tile tile with flips := [] } ∧
      Corrected s r.2 k 2 (tile + 512 * (n / 2 ^ 20) + 4096 * (n % 2 ^ 20))) ∧
    (bitCount 39 b.toNat = 2 → r.1 = false ∧ r.2.hbmCounter k 0x128 = satAdd64 (s.hbmCounter k 0x128) 1 ∧
      ∀ j, s.jobOn k = some j → EndedByMemory s r.2 j)) ∧
  (∀ (n : Fin 24) (s : State),
    let age := s.hbmCounter (if n.val < 16 then n.val / 2 else n.val - 16) (if n.val < 16 then 0x160 + 8 * (n.val % 2) else 0x170)
    let limit := 2400000000 * max 1 (s.reg (indKey 2 4) 0x5A0 % 65536)
    (limit < age → exec (.scrubLate n) s = .next { s with hbm.late := s.hbm.late ||| BitVec.ofNat 24 (2 ^ n.val) }) ∧
    (age ≤ limit → exec (.scrubLate n) s = .next s)) ∧
  (∀ (h : Fin 16) (s : State),
    (s.unfilledPages h.val = [] ∨ s.hbmHalted h.val = true → exec (.launchFillPortion h) s = .next s) ∧
    (∀ p ps, s.unfilledPages h.val = p :: ps → s.hbmHalted h.val = false → ∃ t, exec (.launchFillPortion h) s = .next t ∧
      t = { s with hbm.unfilled := t.hbm.unfilled, hbm.flips := t.hbm.flips } ∧ (∀ q, q ∈ t.unfilledPages h.val ↔ q ∈ ps ∧ q ≠ p) ∧
      (∀ g, g ≠ h.val → t.unfilledPages g = s.unfilledPages g) ∧
      ∀ u, smGet 0 t.hbm.flips u = smGet 0 s.hbm.flips u ∨ (smGet 0 t.hbm.flips u = 0 ∧ u / 2 ^ 30 = h.val))) ∧
  (∀ (h : Fin 16) (ch : Fin 32) (ps : Fin 2) (bank : BitVec 7) (s : State),
    let k := 2 ^ 7 * ps.val + bank.toNat
    let b := 2 ^ 13 * h.val + 2 ^ 8 * ch.val + k
    let takes := s.class7Queued h.val ch.val k = false ∧ s.dev.hbmTrained = true ∧ s.hbm.selfRefresh.getLsbD h.val = false ∧
      ch.val ∈ s.plan.channels h.val
    (¬ takes → exec (.hbmRefresh h ch ps bank) s = .next s) ∧
    (takes → ∃ t, exec (.hbmRefresh h ch ps bank) s = .next t ∧
      t = { s with hbm.refreshing := t.hbm.refreshing } ∧ ∀ x, x ∈ t.hbm.refreshing ↔ x = b ∨ (x ∈ s.hbm.refreshing ∧ x / 2 ^ 7 ≠ b / 2 ^ 7)))

/-! ## The sequence table -/

namespace Sys2Proof.Machine

/-- The SEQ rows and their operations. -/
noncomputable def seqRows : List (Nat × (Site → BitVec 52 → Instr)) :=
  [(0, .seqOpen), (1, .seqAppend), (2, .seqGather), (3, .seqFree), (4, .seqQuery)]

/-- A SEQ instruction issues at a site: its tile has room and no word of it holds an error, and the group's earlier accesses are complete (R281, R289, R290);
its block lies at `a`. -/
def SeqBegins (s : State) (site : Site) (w : Nat) (i : Issue) (a : Nat) : Prop :=
  s.issueAt site.tile.val site.tgp.val site.slot.val site.lane.val w [insRD w, insRA w] = some i ∧ i.job.pcOk i.pc = true ∧
    insRD w < i.job.image.nR ∧ insRA w < i.job.image.nR ∧ s.seqOutstanding i.t < 32 ∧ (s.tile i.t).flips = [] ∧
    (∀ l ∈ maskLanes i.grp.live, s.fenceDone i.t i.key i.grp 4 l = true) ∧ a = (i.scalar (insRA w)).toNat

/-- The block of an operation is placed as R281 asks. -/
def SeqPlaced (i : Issue) (w a : Nat) : Prop := w % 2 ^ 38 = 0 ∧ a % 16 = 0 ∧ a + 32 ≤ i.job.image.share

/-- The operation that an instruction sends to the engine of the stack that its block names. -/
def seqOpOf (s : State) (i : Issue) (op w a : Nat) : SeqOp :=
  ⟨s.seq.nextTag, i.t, i.key, i.grp.id, i.jobId, op, insRD w, laneMask i.lanes, BitVec.ofNat 32 i.pc, BitVec.ofNat 64 w, a,
    blockField ((s.tile i.t).share.readNat a 32) 0 4 / 131072 % 8, (s.grant i.t i.grp.cls.toNat 64).1, none⟩

/-- The state once a SEQ instruction has issued: the set has moved on with RD outstanding, and the operation, charged, is on its way. -/
def SeqIssued (s u : State) (i : Issue) (w : Nat) (o : SeqOp) : Prop :=
  u = { s with seq := { s.seq with ops := s.seq.ops ++ [o], nextTag := s.seq.nextTag + 1 }, tiles := u.tiles, qos := (s.grant i.t i.grp.cls.toNat 64).2.qos } ∧
    (∀ n, n ≠ i.t → u.tile n = s.tile n) ∧ (u.tile i.t).share = (s.tile i.t).share ∧ (u.tile i.t).flips = [] ∧
    ∃ h, smFind (u.tile i.t).groups i.key = some h ∧ h = { i.grp with pc := h.pc, busy := h.busy } ∧
      (∀ l, h.pcOf l = if l ∈ i.lanes then (i.pc + 8) % 2 ^ 32 else i.grp.pcOf l) ∧ ∀ l ∈ i.lanes, h.isBusy l (insRD w) = true

/-- An engine has room for an operation, and none waits before it there, nor works on its descriptor. -/
def SeqFree (s : State) (o : SeqOp) (b : Nat) : Prop :=
  s.seqQueued o.stack < 1024 ∧ ∀ x ∈ s.seq.ops, x.stack ≠ o.stack ∨ ∃ c, x.block = some c ∧ blockField c.toNat 0 4 ≠ blockField b 0 4

/-- The job of an operation ends by a fault of it, and the operation is gone. -/
def SeqEnds (t : State) (o : SeqOp) (code : Nat) : Prop :=
  (∀ x ∈ t.seq.ops, x.tag ≠ o.tag) ∧ ∃ z x, t.job o.job = some z ∧ z.ended = some x ∧ x.status = 3 ∧ x.detail = BitVec.ofNat 8 code ∧
    x.info = BitVec.ofNat 256 (bytesToNat (natToBytes 8 o.word.toNat ++ natToBytes 4 o.base))

end Sys2Proof.Machine

/-- SEQ instructions (R281 to R293): a misplaced block faults; otherwise the set moves on and the operation goes to its
engine, which takes the waiting operations by tier; a block that fails a check faults with the code of its first failing
group; otherwise the operation runs and its result waits; one that meets a malformed list faults, and one whose line is busy
is tried again; the result word reaches RD of the set. OPEN makes a descriptor of its fields, QUERY writes its 64 bytes, FREE
of an empty one clears it, APPEND changes nothing where the pool has too few pages, and GATHER of absent pages writes zeros.
Readings of the model's own in it: log entries 24, 25, 26, 42, 57, 58, 59, 187, 188. -/
def Obligations.SequenceInstructions : Prop :=
  (∀ e ∈ seqRows, ∀ (site : Site) (low : BitVec 52) (s : State) (i : Issue) (a : Nat),
    let w := insWord 0x0A e.1 low
    let b := (s.tile i.t).share.readNat a 32
    let o := seqOpOf s i e.1 w a
    SeqBegins s site w i a →
    (¬ SeqPlaced i w a → ∃ t, exec (e.2 site low) s = .next t ∧ FaultEnds s t i 0x2D (natToBytes 8 w ++ natToBytes 4 a)) ∧
    (SeqPlaced i w a → ∃ u, SeqIssued s u i w o ∧ exec (e.2 site low) s = .next (u.seqServe o.stack) ∧
      (1024 ≤ s.seqQueued o.stack → u.seqServe o.stack = u) ∧
      (SeqFree s o b →
        let o1 := { o with block := some (BitVec.ofNat 256 b) }
        let u1 := { u with seq.ops := u.seq.ops.map fun (x : SeqOp) => if x.tag = o.tag then o1 else x }
        (∀ c, s.seqWrong e.1 i.jobId i.job.image b = some c → SeqEnds (u.seqServe o.stack) o c) ∧
        (s.seqWrong e.1 i.jobId i.job.image b = none →
          (∀ v s2, u1.seqRun o1 i.job.image b = .done v s2 → u.seqServe o.stack = { s2 with
            seq.ops := u1.seq.ops.filter (fun x => x.tag != o.tag)
            seq.results := s2.seq.results ++ [(⟨o.tag, i.t, i.key, i.grp.id, insRD w, laneMask i.lanes, BitVec.ofNat 32 v, o.stack, o.hdr⟩ : SeqResult)] }) ∧
          (∀ x, u1.seqRun o1 i.job.image b = .wait x → u.seqServe o.stack = u1.waits x) ∧
          (∀ s2, u1.seqRun o1 i.job.image b = .bad s2 → s2.present i.jobId = true →
            SeqEnds (u.seqServe o.stack) o 0x2F))))) ∧
  (∀ (k : Nat) (s : State) (o : SeqOp), firstOp (s.seq.ops.filter fun x => x.stack == k && x.block.isNone) = some o →
    o ∈ s.seq.ops ∧ o.stack = k ∧ o.block = none ∧ (∀ x ∈ s.seq.ops, x.stack = k → x.block = none → o.hdr.tier ≤ x.hdr.tier) ∧
      s.seqServe k = if 1024 ≤ s.seqQueued k then s else s.seqAccept o) ∧
  (∀ (s : State) (o : SeqOp) (im : Image) (b : Nat), (s.tile o.tile).flips = [] →
    let d := blockField b 0 4
    let k := d / 131072
    let q := SeqBlock.decode b
    let share := (s.tile o.tile).share
    let run := fun n => s.seqRun { o with op := n } im b
    (∃ u, run 0 = .done 0 u ∧ u = { s with seq := u.seq } ∧ (∀ n, n ≠ d → u.seqDesc n = s.seqDesc n) ∧
      u.seqDesc d = ⟨BitVec.ofNat 32 (blockField b 4 4), BitVec.ofNat 32 o.job, true, im.kvPage, blockField b 0x10 1, blockField b 8 2,
        blockField b 0xA 2, 0, blockField b 0xC 4, 0, 0, 0, s.aon⟩) ∧
    (∃ u, run 4 = .done 0 u ∧ u = { s with seq := u.seq, tiles := u.tiles } ∧ u.seq.descs = s.seq.descs ∧
      (∀ n, u.tile n = if n = o.tile then { s.tile n with share := share.writeBytes (blockField b 0x14 4) (s.seqDesc d).bytes } else s.tile n)) ∧
    ((s.seqDesc d).root.toNat < 2 ^ 31 →
      (∃ u, run 3 = .done 0 u ∧ u = { s with seq := u.seq } ∧ ∀ n, u.seqDesc n = if n = d then SeqDesc.free else s.seqDesc n) ∧
      (0 < q.count → 0 < q.segLen →
        (s.engine k).freeCount + im.poolSize k - (s.engine k).high <
          1 + ((((s.seqDesc d).pagesOf im q).map (· / im.listEntries)).eraseDups).length + ((s.seqDesc d).pagesOf im q).length →
        ∃ u, run 1 = .done 1 u ∧ u = { s with seq := u.seq } ∧ u.seq.descs = s.seq.descs ∧
          (u.engine k).high = (s.engine k).high ∧ (u.engine k).head = (s.engine k).head ∧ (u.engine k).freeCount = (s.engine k).freeCount) ∧
      (0 < q.count → 0 < q.segLen → q.mode = 0 → ∃ u, run 2 = .done 0 u ∧ u = { s with seq := u.seq, tiles := u.tiles } ∧
        u.seq.descs = s.seq.descs ∧ ∀ n, u.tile n = if n = o.tile then { s.tile n with
          share := share.writeRows q.lsAddr q.lsStride (List.replicate q.count (List.replicate q.segLen 0)) } else s.tile n)) ∧
    (q.count = 0 ∨ q.segLen = 0 → ∃ u x, run 1 = .done 0 u ∧ u = { s with seq.engines := u.seq.engines } ∧
      run 2 = .done 0 x ∧ x = { s with seq.engines := x.seq.engines, tiles := x.tiles } ∧ ∀ n, x.tile n = s.tile n)) ∧
  (∀ (tag : Nat) (s : State),
    (s.seq.results.find? (fun r => r.tag == tag) = none →
      (s.seq.ops.find? (fun o => o.tag == tag) = none → exec (.seqResult tag) s = .next s) ∧
      ∀ o, s.seq.ops.find? (fun o => o.tag == tag) = some o →
        (o.block = none ∨ s.job o.job = none → exec (.seqResult tag) s = .next s) ∧
        ∀ v b, s.job o.job = some v → o.block = some b → exec (.seqResult tag) s = .next (s.seqExecute o v.image b.toNat)) ∧
    (∀ r g, s.seq.results.find? (fun r => r.tag == tag) = some r → smFind (s.tile r.tile).groups r.slot = some g → g.id = r.group → r.rd < 256 →
      (∀ o ∈ s.seq.ops, o.stack = r.stack → o.block ≠ none) →
      ∃ t h, exec (.seqResult tag) s = .next t ∧
        t = { s with tiles := t.tiles, seq.results := s.seq.results.filter (fun x => x.tag != tag), qos := (s.replied r.hdr).qos } ∧
        (∀ n, n ≠ r.tile → t.tile n = s.tile n) ∧ (t.tile r.tile).share = (s.tile r.tile).share ∧ smFind (t.tile r.tile).groups r.slot = some h ∧
        ∀ l < 32, ∀ k < 256, h.reg l k = if r.lanes.getLsbD l = true ∧ k = r.rd then r.word else g.reg l k))

/-! ## Check-value units -/

namespace Sys2Proof.Machine

/-- The rows that write a unit through the indirect window, and what they do to a unit that accepts them (R391 to R396). -/
noncomputable def cvuRows (v : Word) : List (Instr × (Cvu → Cvu)) :=
  let feed := fun n (u : Cvu) => if u.done then { u with orderError := true }
    else { u with crc := cvuFeed u.poly (natToBytes n v.toNat) u.crc, bytes := (u.bytes + n) % 2 ^ 32, isOpen := true, sawAny := true }
  [(.cvuReset, fun u => { u with
      crc := cvuInit u.poly, bytes := 0, isOpen := false, sawAny := false, done := false, isMatch := false, mismatch := false }),
   (.cvuData8 v, feed 1), (.cvuData16 v, feed 2), (.cvuData32 v, feed 4),
   (.cvuFoldLo v, fun u => if u.done || u.sawAny then { u with orderError := true } else { u with foldLo := v }),
   (.cvuFoldHi v, fun u => if u.done || u.isOpen then { u with orderError := true }
      else { u with crc := cvuFeed u.poly (natToBytes 8 (u.foldLo.toNat + 2 ^ 32 * v.toNat)) u.crc, bytes := 8, isOpen := true }),
   (.cvuFinish, fun u =>
      let same := cvuFinal u.poly u.crc = cvuExpected u.poly u.expect
      if u.readout then { u with done := true }
      else { u with done := true, isMatch := decide same, mismatch := !decide same, compares := satAdd64 u.compares 1
                    mismatches := if same then u.mismatches else satAdd64 u.mismatches 1 })]

end Sys2Proof.Machine

/-- Check-value units (R391 to R397, R401): reset, feeding, folding and finishing act on the selected unit; a write that the
state or the owner does not allow sets REFUSED, and so do a reserved check and READOUT where it is not allowed; a write of
CVU_CTL is logged; the three checks of "123456789" are those of R392. Readings of the model's own in it: log entries 92, 93.
-/
def Obligations.CheckValueUnits : Prop :=
  (∀ (v : Word), ∀ e ∈ cvuRows v, ∀ s : State,
    let u := s.cvuSel
    (s.linked = false ∨ s.ideBlocks = true → exec e.1 s = .next s) ∧
    (s.linked = true → s.ideBlocks = false →
      (44 ≤ u → exec e.1 s = .next s) ∧
      (u < 44 → s.cvuWritable u = true → ∃ t, exec e.1 s = .next t ∧ t = { s with cvus := t.cvus } ∧
        ∀ n, t.cvu n = if n = u then e.2 (s.cvu n) else s.cvu n) ∧
      (u < 44 → s.cvuWritable u = false → ∃ t, exec e.1 s = .next t ∧ t = { s with cvus := t.cvus } ∧
        ∀ n, t.cvu n = if n = u then { s.cvu n with refused := true } else s.cvu n))) ∧
  (∀ (v : Word) (s : State), HostMayWrite s →
    let u := s.cvuSel
    let c := s.cvu u
    ∃ t, exec (.cvuCtlWrite v) s = .next t ∧ t = { s with cvus := t.cvus, mram.audit := t.mram.audit, mram.auditHead := t.mram.auditHead } ∧
      OneEntry s t 1 0 0 0xFFFF (regWritePayload 0x105 4 v.toNat t.cvuCtlValue) ∧ (∀ n, n ≠ u ∨ 44 ≤ u → t.cvu n = s.cvu n) ∧
      (u < 44 → t.cvu u =
        if s.cvuWritable u = false ∨ v.toNat % 4 = 3 ∨ (v.getLsbD 2 = true ∧ s.dev.mode = .ready ∧ 36 ≤ u) then { c with refused := true }
        else if c.isOpen = true then { c with orderError := true }
        else { c with poly := v.setWidth 2, readout := v.getLsbD 2, crc := cvuInit (v.setWidth 2) })) ∧
  (∀ (v : Word) (s : State), s.linked = true → s.ideBlocks = false → 15360 ≤ s.unacked → exec (.cvuCtlWrite v) s = .next (s.cntSec 0x128 1)) ∧
  (∀ (u : Nat) (s : State), u < 44 → (s.cvuWritable u = true ↔ (s.cvu u).failed = false ∧ s.dev.mode ∉ [.boot, .shutdown, .off, .aon] ∧
    ¬ (u < 36 ∧ s.dev.mode = .ready ∧ (s.port (u / 2)).up = true))) ∧
  (let digits : List Byte := [0x31, 0x32, 0x33, 0x34, 0x35, 0x36, 0x37, 0x38, 0x39]
   cvuFinal 0 (cvuFeed 0 digits (cvuInit 0)) = 0xE3069283 ∧ cvuFinal 1 (cvuFeed 1 digits (cvuInit 1)) = 0xCBF43926 ∧
     cvuFinal 2 (cvuFeed 2 digits (cvuInit 2)) = 0x6C40DF5F0B497347)

/-! ## The status page and the sideband -/

namespace Sys2Proof.Machine

/-- The status page (R351): with ENABLE set and the link up, each write raises HEARTBEAT by one and puts the 4,096 bytes in host memory, HEARTBEAT first and
again at the end; otherwise nothing is written. -/
def StatusPage : Prop :=
  ∀ s : State,
    let a := s.mgt.statusPage.toNat / 4096 * 4096
    (s.linked = false ∨ s.mgt.statusPage.getLsbD 0 = false → exec .statusPageWrite s = .next s) ∧
    (s.linked = true → s.mgt.statusPage.getLsbD 0 = true →
      (s.host.failing = [] → ∃ t, exec .statusPageWrite s = .next t ∧
        t = { s with mgt.heartbeat := s.mgt.heartbeat + 1, host.mem := t.host.mem } ∧ t.host.mem.readNat a 4 = 0x53545031 ∧
        t.host.mem.readNat (a + 6) 1 = s.dev.mode.code ∧ t.host.mem.readNat (a + 8) 8 = (s.mgt.heartbeat + 1).toNat ∧
        t.host.mem.readNat (a + 0x10) 8 = s.aon.toNat ∧ t.host.mem.readNat (a + 0xFF8) 8 = (s.mgt.heartbeat + 1).toNat ∧
        ∀ x, x < a ∨ a + 4096 ≤ x → t.host.mem.read x = s.host.mem.read x) ∧
      (s.hostOk a 64 = false → ∃ t, exec .statusPageWrite s = .next t ∧ t = { s with
        mgt.heartbeat := s.mgt.heartbeat + 1, mgt.hostErrors := BitVec.ofNat 32 (min (s.mgt.hostErrors.toNat + 1) (2 ^ 32 - 1)) }))

/-- The sideband (R353 to R355, R525): it answers in every state but OFF, and changes nothing but what an EPO does: GET_STATE, GET_TELEMETRY and READ_BLACKBOX
answer with what they name; EPO_ARM gives a nonce; EPO_FIRE with the latest nonce within 40,000,000 cycles is accepted, ends every job, records it and removes
power; any other is refused and cancels the arm; both are logged; an unknown command has an error response and no effect. -/
def Sideband : Prop :=
  (∀ (eid code : Byte) (nonce : BitVec 16) (first : BitVec 64) (s : State), s.dev.mode = .off →
    ∀ c ∈ [Instr.getState, .getTelemetry, .readBlackbox first, .epoArm eid, .epoFire eid nonce, .sidebandUnknownCommand code, .mctpControl code],
      exec c s = .next s) ∧
  (∀ (eid code : Byte) (nonce : BitVec 16) (first : BitVec 64) (s : State), s.dev.mode ≠ .off →
    exec .getState s = .next { s with host.sideband := some (natToBytes 1 s.dev.mode.code ++ [s.dev.cause] ++
      natToBytes 8 s.mgt.heartbeat.toNat ++ natToBytes 8 s.aon.toNat) } ∧
    (∃ b, exec .getTelemetry s = .next { s with host.sideband := some b } ∧ b.length = 72 ∧ bytesToNat (b.take 2) = s.pwr.millivolts % 65536 ∧
      bytesToNat ((b.drop 2).take 2) = s.pwr.average % 65536 ∧
      ∀ d < 34, bytesToNat ((b.drop (4 + 2 * d)).take 2) = (s.dieReading d / 4 % 65536).toNat) ∧
    (∃ b, exec (.readBlackbox first) s = .next { s with host.sideband := some b } ∧ b.length % 64 = 0 ∧ b.length ≤ 192 ∧
      (s.mram.bbHead ≤ first.toNat → b = [])) ∧
    (∃ t n, exec (.epoArm eid) s = .next t ∧ t = { s with
        draws := s.draws + 1, sec := t.sec, mram.audit := t.mram.audit, mram.auditHead := t.mram.auditHead, mram.auditAck := t.mram.auditAck
        host.sideband := some (natToBytes 2 n.toNat) } ∧ t.sec.epoNonce = some n ∧ t.sec.epoAt = s.aon ∧
      (s.unacked < 16384 → OneEntry s t 0x16 0 1 eid.toNat (natToBytes 1 0 ++ natToBytes 2 n.toNat))) ∧
    (s.sec.epoNonce ≠ some nonce ∨ 40000000 < (s.aon - s.sec.epoAt).toNat → ∃ t, exec (.epoFire eid nonce) s = .next t ∧ t = { s with
        sec := t.sec, mram.audit := t.mram.audit, mram.auditHead := t.mram.auditHead, mram.auditAck := t.mram.auditAck
        host.sideband := some [0] } ∧ t.sec.epoNonce = none ∧
      (s.unacked < 16384 → OneEntry s t 0x16 0 1 eid.toNat (natToBytes 1 2 ++ natToBytes 2 nonce.toNat))) ∧
    (s.sec.epoNonce = some nonce → (s.aon - s.sec.epoAt).toNat ≤ 40000000 → ∃ t, exec (.epoFire eid nonce) s = .next t ∧
      t.host.sideband = some [1] ∧ t.sec.epoNonce = none ∧ (∀ j v, t.job j = some v → v.ended.isSome = true) ∧
      (s.mram.bbHead < 65536 → Recorded s t 3 0) ∧
      (s.dev.shuttingDown = false → s.dev.mode ∉ [.aon, .shutdown] → t.dev.mode = .shutdown ∧ t.dev.cause = 7 ∧ t.dev.stackUp = 0)) ∧
    (code.toNat = 0 ∨ 5 < code.toNat → exec (.sidebandUnknownCommand code) s = .next { s with host.sideband := none }) ∧
    exec (.mctpControl code) s = .next { s with draws := s.draws + 1, host.sideband := some (Config.mctpResponse s.draws code) })

end Sys2Proof.Machine

/-- StatusPage and Sideband, together. Readings of the model's own in it: log entries 15, 82, 83, 84, 85, 89. -/
def Obligations.StatusPageAndSideband : Prop := StatusPage ∧ Sideband

/-- FINISH (R395, R396): in SERVICE the unit compares its value with CVU_EXPECT over the width of its check, sets DONE and one of MATCH and MISMATCH, and counts the
compare and a mismatch, and CVU_VALUE reads 0 at all times; in READOUT it sets DONE and compares nothing, MATCH and MISMATCH stay clear, and CVU_VALUE reads the
check of the bytes fed so far, with the final XOR. -/
def Obligations.FinishComparesOrReadsOut : Prop :=
  ∀ s : State,
    let u := s.cvuSel
    let c := s.cvu u
    let value : BitVec 64 := if c.poly = 2 then c.crc else c.crc ^^^ 0xFFFFFFFF
    let width := if c.poly = 2 then 64 else 32
    u < 44 →
    (s.linked = true → s.ideBlocks = false → s.cvuWritable u = true → ∃ t, exec .cvuFinish s = .next t ∧ t = { s with cvus := t.cvus } ∧
      (∀ n, n ≠ u → t.cvu n = s.cvu n) ∧ (t.cvu u).done = true ∧ (t.cvu u).crc = c.crc ∧
      (c.readout = false → value.toNat % 2 ^ 64 = c.expect.toNat % 2 ^ width → (t.cvu u).isMatch = true ∧ (t.cvu u).mismatch = false ∧
        (t.cvu u).compares = satAdd64 c.compares 1 ∧ (t.cvu u).mismatches = c.mismatches) ∧
      (c.readout = false → value.toNat % 2 ^ 64 ≠ c.expect.toNat % 2 ^ width → (t.cvu u).isMatch = false ∧ (t.cvu u).mismatch = true ∧
        (t.cvu u).compares = satAdd64 c.compares 1 ∧ (t.cvu u).mismatches = satAdd64 c.mismatches 1) ∧
      (c.readout = true → t.cvu u = { c with done := true })) ∧
    (c.readout = false → s.readInd 5 0x30 = 0 ∧ s.readInd 5 0x34 = 0) ∧
    (c.readout = true → s.readInd 5 0x30 = value.toNat % 2 ^ 32 ∧ s.readInd 5 0x34 = value.toNat / 2 ^ 32)

/-- QUERY (R287): where a SEQ QUERY passes its checks and its engine is free for it, the 64 bytes of the descriptor, in any state, stand at LS_ADDR of the tile's
local store, and every other byte of it stays. -/
def Obligations.QueryWritesTheDescriptor : Prop :=
  ∀ (site : Site) (low : BitVec 52) (s : State) (i : Issue) (a : Nat),
    let w := insWord 0x0A 4 low
    let b := (s.tile i.t).share.readNat a 32
    let at_ := blockField b 0x14 4
    SeqBegins s site w i a → SeqPlaced i w a → s.seqWrong 4 i.jobId i.job.image b = none → SeqFree s (seqOpOf s i 4 w a) b →
    ∃ t, exec (.seqQuery site low) s = .next t ∧ (t.tile i.t).share.readBytes at_ 64 = (s.seqDesc (b % 2 ^ 32)).bytes ∧
      ((s.seqDesc (b % 2 ^ 32)).bytes).length = 64 ∧ (∀ x, x < at_ ∨ at_ + 64 ≤ x → (t.tile i.t).share.read x = (s.tile i.t).share.read x) ∧
      t.seq.descs = s.seq.descs ∧ ∀ n, n ≠ i.t → t.tile n = s.tile n

/-- READ_BLACKBOX (R525): up to three whole records from the index asked for, without a header; an index at or beyond the head returns none; neither this path nor
BLACKBOX_READ changes the black box. -/
def Obligations.BlackBoxReadsChangeNothing : Prop :=
  (∀ (first : BitVec 64) (s : State), s.dev.mode ≠ .off → ∃ b, exec (.readBlackbox first) s = .next { s with host.sideband := some b } ∧
    b = (upTo (min (s.mram.bbHead - first.toNat) 3)).flatMap (fun i => s.bbOut (first.toNat + i)) ∧
    (∀ i, (s.bbOut i).length = 64) ∧ (s.mram.bbHead ≤ first.toNat → b = [])) ∧
  (∀ (ring : Fin 64) (idx : Word) (s t : State), exec (.blackboxRead ring idx) s = .next t →
    t.mram.bbA = s.mram.bbA ∧ t.mram.bbB = s.mram.bbB ∧ t.mram.bbHead = s.mram.bbHead)
end

