-- ==== Sys2Proof/Laws/Map.lean ====
section
/-! SUPPORT. Sparse tables and byte memories: what a read gives after a write, for any table, and that every operation
keeps the canonical form. -/

namespace Sys2Proof.Machine

/-! ## Reads after writes -/

theorem smGet_smErase {α : Type} (d : α) (m : SMap α) (n k : Nat) :
    smGet d (smErase m n) k = if k = n then d else smGet d m k := by
  induction m with
  | nil => simp [smErase, smGet]
  | cons e m ih =>
    obtain ⟨a, v⟩ := e
    simp only [smErase]
    split <;> rename_i h
    · subst h; simp only [ih, smGet]; split <;> simp_all
    · simp only [smGet, ih]; split <;> simp_all

theorem smGet_smPut {α : Type} (d : α) (m : SMap α) (n k : Nat) (v : α) :
    smGet d (smPut m n v) k = if k = n then v else smGet d m k := by
  induction m with
  | nil => simp [smPut, smGet]
  | cons e m ih =>
    obtain ⟨a, w⟩ := e
    simp only [smPut]
    split
    · simp [smGet]
    · split
      · rename_i h1 h2; subst h2; simp only [smGet]; split <;> simp_all
      · rename_i h1 h2; simp only [smGet, ih]; split
        · rename_i h3; subst h3; rw [if_neg (fun h => h2 h.symm)]
        · rfl

/-- The law of every sparse table. -/
theorem smGet_smSet {α : Type} [DecidableEq α] (d : α) (m : SMap α) (n k : Nat) (v : α) :
    smGet d (smSet d m n v) k = if k = n then v else smGet d m k := by
  unfold smSet
  split
  · rename_i h; rw [smGet_smErase, h]
  · rw [smGet_smPut]

@[simp] theorem smGet_smSet_self {α : Type} [DecidableEq α] (d : α) (m : SMap α) (n : Nat) (v : α) :
    smGet d (smSet d m n v) n = v := by simp [smGet_smSet]

theorem smGet_smSet_ne {α : Type} [DecidableEq α] (d : α) (m : SMap α) {n k : Nat} (v : α) (h : k ≠ n) :
    smGet d (smSet d m n v) k = smGet d m k := by simp [smGet_smSet, h]

theorem smFind_smPut {α : Type} (m : SMap α) (n k : Nat) (v : α) :
    smFind (smPut m n v) k = if k = n then some v else smFind m k := by
  induction m with
  | nil => simp [smPut, smFind]
  | cons e m ih =>
    obtain ⟨a, w⟩ := e
    simp only [smPut]
    split
    · simp [smFind]
    · split
      · rename_i h1 h2; subst h2; simp only [smFind]; split <;> simp_all
      · rename_i h1 h2; simp only [smFind, ih]; split
        · rename_i h3; subst h3; rw [if_neg (fun h => h2 h.symm)]
        · rfl

@[simp] theorem smFind_smPut_self {α : Type} (m : SMap α) (n : Nat) (v : α) : smFind (smPut m n v) n = some v := by
  simp [smFind_smPut]

theorem smFind_smErase {α : Type} (m : SMap α) (n k : Nat) :
    smFind (smErase m n) k = if k = n then none else smFind m k := by
  induction m with
  | nil => simp [smErase, smFind]
  | cons e m ih =>
    obtain ⟨a, w⟩ := e
    simp only [smErase]
    split <;> rename_i h
    · subst h; simp only [ih, smFind]; split <;> simp_all
    · simp only [smFind, ih]; split <;> simp_all

theorem smFind_smMap {α : Type} (f : Nat → α → α) (m : SMap α) (k : Nat) :
    smFind (smMap f m) k = (smFind m k).map (f k) := by
  induction m with
  | nil => rfl
  | cons e m ih =>
    obtain ⟨a, w⟩ := e
    simp only [smMap, smFind]
    split
    · rename_i h; subst h; rfl
    · exact ih

/-! ## The canonical form -/

/-- Every key of a table is above a bound. -/
def smAbove {α : Type} (b : Nat) (m : SMap α) : Prop := ∀ e ∈ m, b < e.1

theorem smSorted_cons {α : Type} (k : Nat) (v : α) (m : SMap α) :
    smSorted ((k, v) :: m) = true ↔ smAbove k m ∧ smSorted m = true := by
  induction m generalizing k v with
  | nil => simp [smSorted, smAbove]
  | cons e m ih =>
    obtain ⟨a, w⟩ := e
    simp only [smSorted, Bool.and_eq_true, decide_eq_true_eq]
    constructor
    · rintro ⟨h1, h2⟩
      refine ⟨?_, h2⟩
      intro x hx
      rcases List.mem_cons.mp hx with rfl | hx
      · exact h1
      · exact Nat.lt_trans h1 (((ih a w).mp h2).1 x hx)
    · rintro ⟨h1, h2⟩
      exact ⟨h1 (a, w) (by simp), h2⟩

theorem smErase_mem {α : Type} {m : SMap α} {n : Nat} {e : Nat × α} (h : e ∈ smErase m n) : e ∈ m := by
  induction m with
  | nil => simp [smErase] at h
  | cons x m ih =>
    obtain ⟨a, w⟩ := x
    simp only [smErase] at h
    split at h
    · exact List.mem_cons_of_mem _ (ih h)
    · rcases List.mem_cons.mp h with rfl | h
      · simp
      · exact List.mem_cons_of_mem _ (ih h)

theorem smPut_mem {α : Type} {m : SMap α} {n : Nat} {v : α} {e : Nat × α} (h : e ∈ smPut m n v) : e = (n, v) ∨ e ∈ m := by
  induction m with
  | nil => simp [smPut] at h; exact Or.inl h
  | cons x m ih =>
    obtain ⟨a, w⟩ := x
    simp only [smPut] at h
    split at h
    · rcases List.mem_cons.mp h with rfl | h
      · exact Or.inl rfl
      · exact Or.inr h
    · split at h
      · rename_i hn
        rcases List.mem_cons.mp h with rfl | h
        · exact Or.inl (by rw [hn])
        · exact Or.inr (List.mem_cons_of_mem _ h)
      · rcases List.mem_cons.mp h with rfl | h
        · exact Or.inr (by simp)
        · exact (ih h).imp id (List.mem_cons_of_mem _)

theorem smErase_sorted {α : Type} {m : SMap α} (n : Nat) (h : smSorted m = true) : smSorted (smErase m n) = true := by
  induction m with
  | nil => rfl
  | cons x m ih =>
    obtain ⟨a, w⟩ := x
    have hs := (smSorted_cons a w m).mp h
    simp only [smErase]
    split
    · exact ih hs.2
    · exact (smSorted_cons _ _ _).mpr ⟨fun e he => hs.1 e (smErase_mem he), ih hs.2⟩

theorem smPut_sorted {α : Type} {m : SMap α} (n : Nat) (v : α) (h : smSorted m = true) : smSorted (smPut m n v) = true := by
  induction m with
  | nil => rfl
  | cons x m ih =>
    obtain ⟨a, w⟩ := x
    have hs := (smSorted_cons a w m).mp h
    simp only [smPut]
    split
    · rename_i hn
      refine (smSorted_cons _ _ _).mpr ⟨?_, h⟩
      intro e he
      rcases List.mem_cons.mp he with rfl | he
      · exact hn
      · exact Nat.lt_trans hn (hs.1 e he)
    · split
      · exact (smSorted_cons _ _ _).mpr hs
      · rename_i h1 h2
        refine (smSorted_cons _ _ _).mpr ⟨?_, ih hs.2⟩
        intro e he
        rcases smPut_mem he with rfl | he
        · show a < n; omega
        · exact hs.1 e he

theorem smSet_wf {α : Type} [DecidableEq α] {d : α} {m : SMap α} (n : Nat) (v : α) (h : smWf d m = true) :
    smWf d (smSet d m n v) = true := by
  simp only [smWf, Bool.and_eq_true, List.all_eq_true, decide_eq_true_eq] at h ⊢
  unfold smSet
  split
  · exact ⟨smErase_sorted n h.1, fun e he => h.2 e (smErase_mem he)⟩
  · rename_i hv
    refine ⟨smPut_sorted n v h.1, fun e he => ?_⟩
    rcases smPut_mem he with rfl | he
    · exact hv
    · exact h.2 e he

theorem smFilter_mem {α : Type} {p : Nat → α → Bool} {m : SMap α} {e : Nat × α} (h : e ∈ smFilter p m) : e ∈ m := by
  induction m with
  | nil => simp [smFilter] at h
  | cons x m ih =>
    obtain ⟨a, w⟩ := x
    simp only [smFilter] at h
    split at h
    · rcases List.mem_cons.mp h with rfl | h
      · simp
      · exact List.mem_cons_of_mem _ (ih h)
    · exact List.mem_cons_of_mem _ (ih h)

theorem smFilter_sorted {α : Type} (p : Nat → α → Bool) {m : SMap α} (h : smSorted m = true) :
    smSorted (smFilter p m) = true := by
  induction m with
  | nil => rfl
  | cons x m ih =>
    obtain ⟨a, w⟩ := x
    have hs := (smSorted_cons a w m).mp h
    simp only [smFilter]
    split
    · exact (smSorted_cons _ _ _).mpr ⟨fun e he => hs.1 e (smFilter_mem he), ih hs.2⟩
    · exact ih hs.2

theorem smFilter_wf {α : Type} [DecidableEq α] {d : α} (p : Nat → α → Bool) {m : SMap α} (h : smWf d m = true) :
    smWf d (smFilter p m) = true := by
  simp only [smWf, Bool.and_eq_true, List.all_eq_true, decide_eq_true_eq] at h ⊢
  exact ⟨smFilter_sorted p h.1, fun e he => h.2 e (smFilter_mem he)⟩

/-! ## Memories -/

theorem Memory.read_write (m : Memory) (a k : Nat) (b : Byte) :
    (m.write a b).read k = if k = a then b else m.read k := smGet_smSet 0 m a k b

@[simp] theorem Memory.read_write_self (m : Memory) (a : Nat) (b : Byte) : (m.write a b).read a = b := by
  simp [Memory.read_write]

theorem Memory.write_wf {m : Memory} (a : Nat) (b : Byte) (h : m.wf = true) : (m.write a b).wf = true := smSet_wf a b h

theorem Memory.writeBytes_wf {m : Memory} (a : Nat) (bs : List Byte) (h : m.wf = true) : (m.writeBytes a bs).wf = true := by
  induction bs generalizing m a with
  | nil => exact h
  | cons b bs ih => exact ih (a + 1) (Memory.write_wf a b h)

theorem Memory.writeNat_wf {m : Memory} (a n v : Nat) (h : m.wf = true) : (m.writeNat a n v).wf = true :=
  Memory.writeBytes_wf a _ h

theorem Memory.zero_wf {m : Memory} (lo hi : Nat) (h : m.wf = true) : (m.zero lo hi).wf = true := smFilter_wf _ h

/-- A write of bytes changes the bytes of its range alone. -/
theorem Memory.read_writeBytes (m : Memory) (a k : Nat) (bs : List Byte) :
    (m.writeBytes a bs).read k = if a ≤ k ∧ k < a + bs.length then bs.getD (k - a) 0 else m.read k := by
  induction bs generalizing m a with
  | nil => rw [if_neg (by rw [List.length_nil]; omega)]; rfl
  | cons b bs ih =>
    simp only [Memory.writeBytes, ih, Memory.read_write, List.length_cons]
    by_cases h : k = a
    · subst h; rw [if_neg (by omega), if_pos rfl, if_pos (by omega), Nat.sub_self]; rfl
    · by_cases h2 : a + 1 ≤ k ∧ k < a + 1 + bs.length
      · have h3 : k - a = (k - (a + 1)) + 1 := by omega
        rw [if_pos h2, if_pos (by omega), h3, List.getD_cons_succ]
      · rw [if_neg h2, if_neg h, if_neg (by omega)]

theorem Memory.read_writeBytes_out (m : Memory) {a k : Nat} {bs : List Byte} (h : ¬ (a ≤ k ∧ k < a + bs.length)) :
    (m.writeBytes a bs).read k = m.read k := by rw [Memory.read_writeBytes, if_neg h]

@[simp] theorem Memory.readBytes_length (m : Memory) (a n : Nat) : (m.readBytes a n).length = n := by
  induction n generalizing a with
  | zero => rfl
  | succ n ih => simp [Memory.readBytes, ih]

theorem Memory.readBytes_eq (m : Memory) (a n : Nat) : m.readBytes a n = (List.range n).map fun k => m.read (a + k) := by
  induction n generalizing a with
  | zero => rfl
  | succ n ih =>
    simp only [Memory.readBytes, ih, List.range_succ_eq_map, List.map_cons, List.map_map]
    rw [Nat.add_zero]
    congr 1
    refine List.map_congr_left fun x _ => ?_
    simp only [Function.comp, Nat.succ_eq_add_one]
    rw [Nat.add_assoc, Nat.add_comm 1 x]

theorem natToBytes_length (n v : Nat) : (natToBytes n v).length = n := by
  induction n generalizing v with
  | zero => rfl
  | succ n ih => simp [natToBytes, ih]

theorem bytesToNat_natToBytes (n v : Nat) : bytesToNat (natToBytes n v) = v % 256 ^ n := by
  induction n generalizing v with
  | zero => simp [natToBytes, bytesToNat, Nat.mod_one]
  | succ n ih =>
    simp only [natToBytes, bytesToNat, ih, BitVec.toNat_ofNat]
    have h : 256 ^ (n + 1) = 256 * 256 ^ n := by omega
    rw [h, Nat.mod_mul]

/-- Bytes read back as they were written. -/
theorem Memory.readBytes_writeBytes (m : Memory) (a : Nat) (bs : List Byte) :
    (m.writeBytes a bs).readBytes a bs.length = bs := by
  rw [Memory.readBytes_eq]
  apply List.ext_getElem
  · simp
  · intro i h1 h2
    simp only [List.getElem_map, List.getElem_range, Memory.read_writeBytes]
    rw [if_pos (by omega)]
    simp [List.getD_eq_getElem?_getD, h2]

/-- A number reads back as it was written, modulo its bytes. -/
theorem Memory.readNat_writeNat (m : Memory) (a n v : Nat) : (m.writeNat a n v).readNat a n = v % 256 ^ n := by
  have h := Memory.readBytes_writeBytes m a (natToBytes n v)
  rw [natToBytes_length] at h
  rw [Memory.readNat, Memory.writeNat, h, bytesToNat_natToBytes]

/-! ## Counters -/

theorem Counters.get_add (c : Counters) (off k n : Nat) :
    (c.add off n).get k = if k = off then satAdd64 (c.get off) n else c.get k := smGet_smSet 0 c off k _

end Sys2Proof.Machine
end

