-- ==== Sys2Proof/Laws/State.lean ====
section
/-! SUPPORT. What each update of one part of the state leaves alone, field by field, and what it writes. -/

namespace Sys2Proof.Machine

/-! ## What an update writes -/

@[simp] theorem State.setTile_tile_self (s : State) (n : Nat) (v : Tile) : (s.setTile n v).tile n = v := smGet_smSet_self _ _ _ _
theorem State.setTile_tile_ne (s : State) {n k : Nat} (v : Tile) (h : k ≠ n) : (s.setTile n v).tile k = s.tile k := smGet_smSet_ne _ _ _ h
@[simp] theorem State.setRing_ring_self (s : State) (n : Nat) (v : Ring) : (s.setRing n v).ring n = v := smGet_smSet_self _ _ _ _
theorem State.setRing_ring_ne (s : State) {n k : Nat} (v : Ring) (h : k ≠ n) : (s.setRing n v).ring k = s.ring k := smGet_smSet_ne _ _ _ h
@[simp] theorem State.setCvu_cvu_self (s : State) (n : Nat) (v : Cvu) : (s.setCvu n v).cvu n = v := smGet_smSet_self _ _ _ _
theorem State.setCvu_cvu_ne (s : State) {n k : Nat} (v : Cvu) (h : k ≠ n) : (s.setCvu n v).cvu k = s.cvu k := smGet_smSet_ne _ _ _ h
@[simp] theorem State.setPort_port_self (s : State) (n : Nat) (v : FabPort) : (s.setPort n v).port n = v := smGet_smSet_self _ _ _ _
theorem State.setPort_port_ne (s : State) {n k : Nat} (v : FabPort) (h : k ≠ n) : (s.setPort n v).port k = s.port k := smGet_smSet_ne _ _ _ h
@[simp] theorem State.setChan_chan_self (s : State) (n : Nat) (v : WeltChan) : (s.setChan n v).chan n = v := smGet_smSet_self _ _ _ _
theorem State.setChan_chan_ne (s : State) {n k : Nat} (v : WeltChan) (h : k ≠ n) : (s.setChan n v).chan k = s.chan k := smGet_smSet_ne _ _ _ h
@[simp] theorem State.setWeltStack_weltStack_self (s : State) (n : Nat) (v : WeltStack) : (s.setWeltStack n v).weltStack n = v := smGet_smSet_self _ _ _ _
theorem State.setWeltStack_weltStack_ne (s : State) {n k : Nat} (v : WeltStack) (h : k ≠ n) : (s.setWeltStack n v).weltStack k = s.weltStack k := smGet_smSet_ne _ _ _ h
@[simp] theorem State.setSlice_slice_self (s : State) (n : Nat) (v : Slice) : (s.setSlice n v).slice n = v := smGet_smSet_self _ _ _ _
theorem State.setSlice_slice_ne (s : State) {n k : Nat} (v : Slice) (h : k ≠ n) : (s.setSlice n v).slice k = s.slice k := smGet_smSet_ne _ _ _ h
@[simp] theorem State.setLine_soleLine_self (s : State) (n : Nat) (v : SoleLine) : (s.setLine n v).soleLine n = v := smGet_smSet_self _ _ _ _
theorem State.setLine_soleLine_ne (s : State) {n k : Nat} (v : SoleLine) (h : k ≠ n) : (s.setLine n v).soleLine k = s.soleLine k := smGet_smSet_ne _ _ _ h
@[simp] theorem State.setEngine_engine_self (s : State) (n : Nat) (v : SeqEngine) : (s.setEngine n v).engine n = v := smGet_smSet_self _ _ _ _
theorem State.setEngine_engine_ne (s : State) {n k : Nat} (v : SeqEngine) (h : k ≠ n) : (s.setEngine n v).engine k = s.engine k := smGet_smSet_ne _ _ _ h
@[simp] theorem State.setSeqDesc_seqDesc_self (s : State) (n : Nat) (v : SeqDesc) : (s.setSeqDesc n v).seqDesc n = v := smGet_smSet_self _ _ _ _
theorem State.setSeqDesc_seqDesc_ne (s : State) {n k : Nat} (v : SeqDesc) (h : k ≠ n) : (s.setSeqDesc n v).seqDesc k = s.seqDesc k := smGet_smSet_ne _ _ _ h
@[simp] theorem State.setMaster_master_self (s : State) (n : Nat) (v : Master) : (s.setMaster n v).master n = v := smGet_smSet_self _ _ _ _
theorem State.setMaster_master_ne (s : State) {n k : Nat} (v : Master) (h : k ≠ n) : (s.setMaster n v).master k = s.master k := smGet_smSet_ne _ _ _ h
@[simp] theorem State.setDie_die_self (s : State) (n : Nat) (v : Die) : (s.setDie n v).die n = v := smGet_smSet_self _ _ _ _
theorem State.setDie_die_ne (s : State) {n k : Nat} (v : Die) (h : k ≠ n) : (s.setDie n v).die k = s.die k := smGet_smSet_ne _ _ _ h
@[simp] theorem State.setKeySlot_keySlot_self (s : State) (n : Nat) (v : SecSlot) : (s.setKeySlot n v).keySlot n = v := smGet_smSet_self _ _ _ _
theorem State.setKeySlot_keySlot_ne (s : State) {n k : Nat} (v : SecSlot) (h : k ≠ n) : (s.setKeySlot n v).keySlot k = s.keySlot k := smGet_smSet_ne _ _ _ h

@[simp] theorem State.updTile_tile_self (s : State) (n : Nat) (f : Tile → Tile) : (s.updTile n f).tile n = f (s.tile n) :=
  smGet_smSet_self _ _ _ _
theorem State.updTile_tile_ne (s : State) {n k : Nat} (f : Tile → Tile) (h : k ≠ n) : (s.updTile n f).tile k = s.tile k :=
  smGet_smSet_ne _ _ _ h
@[simp] theorem State.updRing_ring_self (s : State) (n : Nat) (f : Ring → Ring) : (s.updRing n f).ring n = f (s.ring n) :=
  smGet_smSet_self _ _ _ _
theorem State.updRing_ring_ne (s : State) {n k : Nat} (f : Ring → Ring) (h : k ≠ n) : (s.updRing n f).ring k = s.ring k :=
  smGet_smSet_ne _ _ _ h
@[simp] theorem State.updPort_port_self (s : State) (n : Nat) (f : FabPort → FabPort) : (s.updPort n f).port n = f (s.port n) :=
  smGet_smSet_self _ _ _ _
theorem State.updPort_port_ne (s : State) {n k : Nat} (f : FabPort → FabPort) (h : k ≠ n) : (s.updPort n f).port k = s.port k :=
  smGet_smSet_ne _ _ _ h
@[simp] theorem State.setJob_job_self (s : State) (j : Nat) (v : Job) : (s.setJob j v).job j = some v := smFind_smPut_self _ _ _
theorem State.setJob_job_ne (s : State) {j k : Nat} (v : Job) (h : k ≠ j) : (s.setJob j v).job k = s.job k := by
  unfold State.setJob State.job; rw [smFind_smPut, if_neg h]

/-! ## What an update leaves alone -/

@[simp] theorem State.setTile_pending (s : State) (t : Nat) (v : Tile) : (s.setTile t v).pending = s.pending := rfl
@[simp] theorem State.setTile_aon (s : State) (t : Nat) (v : Tile) : (s.setTile t v).aon = s.aon := rfl
@[simp] theorem State.setTile_draws (s : State) (t : Nat) (v : Tile) : (s.setTile t v).draws = s.draws := rfl
@[simp] theorem State.setTile_part (s : State) (t : Nat) (v : Tile) : (s.setTile t v).part = s.part := rfl
@[simp] theorem State.setTile_dev (s : State) (t : Nat) (v : Tile) : (s.setTile t v).dev = s.dev := rfl
@[simp] theorem State.setTile_mram (s : State) (t : Nat) (v : Tile) : (s.setTile t v).mram = s.mram := rfl
@[simp] theorem State.setTile_flash (s : State) (t : Nat) (v : Tile) : (s.setTile t v).flash = s.flash := rfl
@[simp] theorem State.setTile_plan (s : State) (t : Nat) (v : Tile) : (s.setTile t v).plan = s.plan := rfl
@[simp] theorem State.setTile_host (s : State) (t : Nat) (v : Tile) : (s.setTile t v).host = s.host := rfl
@[simp] theorem State.setTile_mgt (s : State) (t : Nat) (v : Tile) : (s.setTile t v).mgt = s.mgt := rfl
@[simp] theorem State.setTile_regs (s : State) (t : Nat) (v : Tile) : (s.setTile t v).regs = s.regs := rfl
@[simp] theorem State.setTile_latches (s : State) (t : Nat) (v : Tile) : (s.setTile t v).latches = s.latches := rfl
@[simp] theorem State.setTile_rings (s : State) (t : Nat) (v : Tile) : (s.setTile t v).rings = s.rings := rfl
@[simp] theorem State.setTile_inflight (s : State) (t : Nat) (v : Tile) : (s.setTile t v).inflight = s.inflight := rfl
@[simp] theorem State.setTile_dcClock (s : State) (t : Nat) (v : Tile) : (s.setTile t v).dcClock = s.dcClock := rfl
@[simp] theorem State.setTile_jobs (s : State) (t : Nat) (v : Tile) : (s.setTile t v).jobs = s.jobs := rfl
@[simp] theorem State.setTile_sole (s : State) (t : Nat) (v : Tile) : (s.setTile t v).sole = s.sole := rfl
@[simp] theorem State.setTile_hbm (s : State) (t : Nat) (v : Tile) : (s.setTile t v).hbm = s.hbm := rfl
@[simp] theorem State.setTile_welt (s : State) (t : Nat) (v : Tile) : (s.setTile t v).welt = s.welt := rfl
@[simp] theorem State.setTile_seq (s : State) (t : Nat) (v : Tile) : (s.setTile t v).seq = s.seq := rfl
@[simp] theorem State.setTile_qos (s : State) (t : Nat) (v : Tile) : (s.setTile t v).qos = s.qos := rfl
@[simp] theorem State.setTile_fabric (s : State) (t : Nat) (v : Tile) : (s.setTile t v).fabric = s.fabric := rfl
@[simp] theorem State.setTile_cvus (s : State) (t : Nat) (v : Tile) : (s.setTile t v).cvus = s.cvus := rfl
@[simp] theorem State.setTile_pwr (s : State) (t : Nat) (v : Tile) : (s.setTile t v).pwr = s.pwr := rfl
@[simp] theorem State.setTile_thm (s : State) (t : Nat) (v : Tile) : (s.setTile t v).thm = s.thm := rfl
@[simp] theorem State.setTile_sec (s : State) (t : Nat) (v : Tile) : (s.setTile t v).sec = s.sec := rfl
@[simp] theorem State.updTile_pending (s : State) (t : Nat) (f : Tile → Tile) : (s.updTile t f).pending = s.pending := rfl
@[simp] theorem State.updTile_aon (s : State) (t : Nat) (f : Tile → Tile) : (s.updTile t f).aon = s.aon := rfl
@[simp] theorem State.updTile_draws (s : State) (t : Nat) (f : Tile → Tile) : (s.updTile t f).draws = s.draws := rfl
@[simp] theorem State.updTile_part (s : State) (t : Nat) (f : Tile → Tile) : (s.updTile t f).part = s.part := rfl
@[simp] theorem State.updTile_dev (s : State) (t : Nat) (f : Tile → Tile) : (s.updTile t f).dev = s.dev := rfl
@[simp] theorem State.updTile_mram (s : State) (t : Nat) (f : Tile → Tile) : (s.updTile t f).mram = s.mram := rfl
@[simp] theorem State.updTile_flash (s : State) (t : Nat) (f : Tile → Tile) : (s.updTile t f).flash = s.flash := rfl
@[simp] theorem State.updTile_plan (s : State) (t : Nat) (f : Tile → Tile) : (s.updTile t f).plan = s.plan := rfl
@[simp] theorem State.updTile_host (s : State) (t : Nat) (f : Tile → Tile) : (s.updTile t f).host = s.host := rfl
@[simp] theorem State.updTile_mgt (s : State) (t : Nat) (f : Tile → Tile) : (s.updTile t f).mgt = s.mgt := rfl
@[simp] theorem State.updTile_regs (s : State) (t : Nat) (f : Tile → Tile) : (s.updTile t f).regs = s.regs := rfl
@[simp] theorem State.updTile_latches (s : State) (t : Nat) (f : Tile → Tile) : (s.updTile t f).latches = s.latches := rfl
@[simp] theorem State.updTile_rings (s : State) (t : Nat) (f : Tile → Tile) : (s.updTile t f).rings = s.rings := rfl
@[simp] theorem State.updTile_inflight (s : State) (t : Nat) (f : Tile → Tile) : (s.updTile t f).inflight = s.inflight := rfl
@[simp] theorem State.updTile_dcClock (s : State) (t : Nat) (f : Tile → Tile) : (s.updTile t f).dcClock = s.dcClock := rfl
@[simp] theorem State.updTile_jobs (s : State) (t : Nat) (f : Tile → Tile) : (s.updTile t f).jobs = s.jobs := rfl
@[simp] theorem State.updTile_sole (s : State) (t : Nat) (f : Tile → Tile) : (s.updTile t f).sole = s.sole := rfl
@[simp] theorem State.updTile_hbm (s : State) (t : Nat) (f : Tile → Tile) : (s.updTile t f).hbm = s.hbm := rfl
@[simp] theorem State.updTile_welt (s : State) (t : Nat) (f : Tile → Tile) : (s.updTile t f).welt = s.welt := rfl
@[simp] theorem State.updTile_seq (s : State) (t : Nat) (f : Tile → Tile) : (s.updTile t f).seq = s.seq := rfl
@[simp] theorem State.updTile_qos (s : State) (t : Nat) (f : Tile → Tile) : (s.updTile t f).qos = s.qos := rfl
@[simp] theorem State.updTile_fabric (s : State) (t : Nat) (f : Tile → Tile) : (s.updTile t f).fabric = s.fabric := rfl
@[simp] theorem State.updTile_cvus (s : State) (t : Nat) (f : Tile → Tile) : (s.updTile t f).cvus = s.cvus := rfl
@[simp] theorem State.updTile_pwr (s : State) (t : Nat) (f : Tile → Tile) : (s.updTile t f).pwr = s.pwr := rfl
@[simp] theorem State.updTile_thm (s : State) (t : Nat) (f : Tile → Tile) : (s.updTile t f).thm = s.thm := rfl
@[simp] theorem State.updTile_sec (s : State) (t : Nat) (f : Tile → Tile) : (s.updTile t f).sec = s.sec := rfl
@[simp] theorem State.setRing_pending (s : State) (r : Nat) (v : Ring) : (s.setRing r v).pending = s.pending := rfl
@[simp] theorem State.setRing_aon (s : State) (r : Nat) (v : Ring) : (s.setRing r v).aon = s.aon := rfl
@[simp] theorem State.setRing_draws (s : State) (r : Nat) (v : Ring) : (s.setRing r v).draws = s.draws := rfl
@[simp] theorem State.setRing_part (s : State) (r : Nat) (v : Ring) : (s.setRing r v).part = s.part := rfl
@[simp] theorem State.setRing_dev (s : State) (r : Nat) (v : Ring) : (s.setRing r v).dev = s.dev := rfl
@[simp] theorem State.setRing_mram (s : State) (r : Nat) (v : Ring) : (s.setRing r v).mram = s.mram := rfl
@[simp] theorem State.setRing_flash (s : State) (r : Nat) (v : Ring) : (s.setRing r v).flash = s.flash := rfl
@[simp] theorem State.setRing_plan (s : State) (r : Nat) (v : Ring) : (s.setRing r v).plan = s.plan := rfl
@[simp] theorem State.setRing_host (s : State) (r : Nat) (v : Ring) : (s.setRing r v).host = s.host := rfl
@[simp] theorem State.setRing_mgt (s : State) (r : Nat) (v : Ring) : (s.setRing r v).mgt = s.mgt := rfl
@[simp] theorem State.setRing_regs (s : State) (r : Nat) (v : Ring) : (s.setRing r v).regs = s.regs := rfl
@[simp] theorem State.setRing_latches (s : State) (r : Nat) (v : Ring) : (s.setRing r v).latches = s.latches := rfl
@[simp] theorem State.setRing_inflight (s : State) (r : Nat) (v : Ring) : (s.setRing r v).inflight = s.inflight := rfl
@[simp] theorem State.setRing_dcClock (s : State) (r : Nat) (v : Ring) : (s.setRing r v).dcClock = s.dcClock := rfl
@[simp] theorem State.setRing_jobs (s : State) (r : Nat) (v : Ring) : (s.setRing r v).jobs = s.jobs := rfl
@[simp] theorem State.setRing_tiles (s : State) (r : Nat) (v : Ring) : (s.setRing r v).tiles = s.tiles := rfl
@[simp] theorem State.setRing_sole (s : State) (r : Nat) (v : Ring) : (s.setRing r v).sole = s.sole := rfl
@[simp] theorem State.setRing_hbm (s : State) (r : Nat) (v : Ring) : (s.setRing r v).hbm = s.hbm := rfl
@[simp] theorem State.setRing_welt (s : State) (r : Nat) (v : Ring) : (s.setRing r v).welt = s.welt := rfl
@[simp] theorem State.setRing_seq (s : State) (r : Nat) (v : Ring) : (s.setRing r v).seq = s.seq := rfl
@[simp] theorem State.setRing_qos (s : State) (r : Nat) (v : Ring) : (s.setRing r v).qos = s.qos := rfl
@[simp] theorem State.setRing_fabric (s : State) (r : Nat) (v : Ring) : (s.setRing r v).fabric = s.fabric := rfl
@[simp] theorem State.setRing_cvus (s : State) (r : Nat) (v : Ring) : (s.setRing r v).cvus = s.cvus := rfl
@[simp] theorem State.setRing_pwr (s : State) (r : Nat) (v : Ring) : (s.setRing r v).pwr = s.pwr := rfl
@[simp] theorem State.setRing_thm (s : State) (r : Nat) (v : Ring) : (s.setRing r v).thm = s.thm := rfl
@[simp] theorem State.setRing_sec (s : State) (r : Nat) (v : Ring) : (s.setRing r v).sec = s.sec := rfl
@[simp] theorem State.updRing_pending (s : State) (r : Nat) (f : Ring → Ring) : (s.updRing r f).pending = s.pending := rfl
@[simp] theorem State.updRing_aon (s : State) (r : Nat) (f : Ring → Ring) : (s.updRing r f).aon = s.aon := rfl
@[simp] theorem State.updRing_draws (s : State) (r : Nat) (f : Ring → Ring) : (s.updRing r f).draws = s.draws := rfl
@[simp] theorem State.updRing_part (s : State) (r : Nat) (f : Ring → Ring) : (s.updRing r f).part = s.part := rfl
@[simp] theorem State.updRing_dev (s : State) (r : Nat) (f : Ring → Ring) : (s.updRing r f).dev = s.dev := rfl
@[simp] theorem State.updRing_mram (s : State) (r : Nat) (f : Ring → Ring) : (s.updRing r f).mram = s.mram := rfl
@[simp] theorem State.updRing_flash (s : State) (r : Nat) (f : Ring → Ring) : (s.updRing r f).flash = s.flash := rfl
@[simp] theorem State.updRing_plan (s : State) (r : Nat) (f : Ring → Ring) : (s.updRing r f).plan = s.plan := rfl
@[simp] theorem State.updRing_host (s : State) (r : Nat) (f : Ring → Ring) : (s.updRing r f).host = s.host := rfl
@[simp] theorem State.updRing_mgt (s : State) (r : Nat) (f : Ring → Ring) : (s.updRing r f).mgt = s.mgt := rfl
@[simp] theorem State.updRing_regs (s : State) (r : Nat) (f : Ring → Ring) : (s.updRing r f).regs = s.regs := rfl
@[simp] theorem State.updRing_latches (s : State) (r : Nat) (f : Ring → Ring) : (s.updRing r f).latches = s.latches := rfl
@[simp] theorem State.updRing_inflight (s : State) (r : Nat) (f : Ring → Ring) : (s.updRing r f).inflight = s.inflight := rfl
@[simp] theorem State.updRing_dcClock (s : State) (r : Nat) (f : Ring → Ring) : (s.updRing r f).dcClock = s.dcClock := rfl
@[simp] theorem State.updRing_jobs (s : State) (r : Nat) (f : Ring → Ring) : (s.updRing r f).jobs = s.jobs := rfl
@[simp] theorem State.updRing_tiles (s : State) (r : Nat) (f : Ring → Ring) : (s.updRing r f).tiles = s.tiles := rfl
@[simp] theorem State.updRing_sole (s : State) (r : Nat) (f : Ring → Ring) : (s.updRing r f).sole = s.sole := rfl
@[simp] theorem State.updRing_hbm (s : State) (r : Nat) (f : Ring → Ring) : (s.updRing r f).hbm = s.hbm := rfl
@[simp] theorem State.updRing_welt (s : State) (r : Nat) (f : Ring → Ring) : (s.updRing r f).welt = s.welt := rfl
@[simp] theorem State.updRing_seq (s : State) (r : Nat) (f : Ring → Ring) : (s.updRing r f).seq = s.seq := rfl
@[simp] theorem State.updRing_qos (s : State) (r : Nat) (f : Ring → Ring) : (s.updRing r f).qos = s.qos := rfl
@[simp] theorem State.updRing_fabric (s : State) (r : Nat) (f : Ring → Ring) : (s.updRing r f).fabric = s.fabric := rfl
@[simp] theorem State.updRing_cvus (s : State) (r : Nat) (f : Ring → Ring) : (s.updRing r f).cvus = s.cvus := rfl
@[simp] theorem State.updRing_pwr (s : State) (r : Nat) (f : Ring → Ring) : (s.updRing r f).pwr = s.pwr := rfl
@[simp] theorem State.updRing_thm (s : State) (r : Nat) (f : Ring → Ring) : (s.updRing r f).thm = s.thm := rfl
@[simp] theorem State.updRing_sec (s : State) (r : Nat) (f : Ring → Ring) : (s.updRing r f).sec = s.sec := rfl
@[simp] theorem State.setJob_pending (s : State) (j : Nat) (v : Job) : (s.setJob j v).pending = s.pending := rfl
@[simp] theorem State.setJob_aon (s : State) (j : Nat) (v : Job) : (s.setJob j v).aon = s.aon := rfl
@[simp] theorem State.setJob_draws (s : State) (j : Nat) (v : Job) : (s.setJob j v).draws = s.draws := rfl
@[simp] theorem State.setJob_part (s : State) (j : Nat) (v : Job) : (s.setJob j v).part = s.part := rfl
@[simp] theorem State.setJob_dev (s : State) (j : Nat) (v : Job) : (s.setJob j v).dev = s.dev := rfl
@[simp] theorem State.setJob_mram (s : State) (j : Nat) (v : Job) : (s.setJob j v).mram = s.mram := rfl
@[simp] theorem State.setJob_flash (s : State) (j : Nat) (v : Job) : (s.setJob j v).flash = s.flash := rfl
@[simp] theorem State.setJob_plan (s : State) (j : Nat) (v : Job) : (s.setJob j v).plan = s.plan := rfl
@[simp] theorem State.setJob_host (s : State) (j : Nat) (v : Job) : (s.setJob j v).host = s.host := rfl
@[simp] theorem State.setJob_mgt (s : State) (j : Nat) (v : Job) : (s.setJob j v).mgt = s.mgt := rfl
@[simp] theorem State.setJob_regs (s : State) (j : Nat) (v : Job) : (s.setJob j v).regs = s.regs := rfl
@[simp] theorem State.setJob_latches (s : State) (j : Nat) (v : Job) : (s.setJob j v).latches = s.latches := rfl
@[simp] theorem State.setJob_rings (s : State) (j : Nat) (v : Job) : (s.setJob j v).rings = s.rings := rfl
@[simp] theorem State.setJob_inflight (s : State) (j : Nat) (v : Job) : (s.setJob j v).inflight = s.inflight := rfl
@[simp] theorem State.setJob_dcClock (s : State) (j : Nat) (v : Job) : (s.setJob j v).dcClock = s.dcClock := rfl
@[simp] theorem State.setJob_tiles (s : State) (j : Nat) (v : Job) : (s.setJob j v).tiles = s.tiles := rfl
@[simp] theorem State.setJob_sole (s : State) (j : Nat) (v : Job) : (s.setJob j v).sole = s.sole := rfl
@[simp] theorem State.setJob_hbm (s : State) (j : Nat) (v : Job) : (s.setJob j v).hbm = s.hbm := rfl
@[simp] theorem State.setJob_welt (s : State) (j : Nat) (v : Job) : (s.setJob j v).welt = s.welt := rfl
@[simp] theorem State.setJob_seq (s : State) (j : Nat) (v : Job) : (s.setJob j v).seq = s.seq := rfl
@[simp] theorem State.setJob_qos (s : State) (j : Nat) (v : Job) : (s.setJob j v).qos = s.qos := rfl
@[simp] theorem State.setJob_fabric (s : State) (j : Nat) (v : Job) : (s.setJob j v).fabric = s.fabric := rfl
@[simp] theorem State.setJob_cvus (s : State) (j : Nat) (v : Job) : (s.setJob j v).cvus = s.cvus := rfl
@[simp] theorem State.setJob_pwr (s : State) (j : Nat) (v : Job) : (s.setJob j v).pwr = s.pwr := rfl
@[simp] theorem State.setJob_thm (s : State) (j : Nat) (v : Job) : (s.setJob j v).thm = s.thm := rfl
@[simp] theorem State.setJob_sec (s : State) (j : Nat) (v : Job) : (s.setJob j v).sec = s.sec := rfl
@[simp] theorem State.setCvu_pending (s : State) (u : Nat) (v : Cvu) : (s.setCvu u v).pending = s.pending := rfl
@[simp] theorem State.setCvu_aon (s : State) (u : Nat) (v : Cvu) : (s.setCvu u v).aon = s.aon := rfl
@[simp] theorem State.setCvu_draws (s : State) (u : Nat) (v : Cvu) : (s.setCvu u v).draws = s.draws := rfl
@[simp] theorem State.setCvu_part (s : State) (u : Nat) (v : Cvu) : (s.setCvu u v).part = s.part := rfl
@[simp] theorem State.setCvu_dev (s : State) (u : Nat) (v : Cvu) : (s.setCvu u v).dev = s.dev := rfl
@[simp] theorem State.setCvu_mram (s : State) (u : Nat) (v : Cvu) : (s.setCvu u v).mram = s.mram := rfl
@[simp] theorem State.setCvu_flash (s : State) (u : Nat) (v : Cvu) : (s.setCvu u v).flash = s.flash := rfl
@[simp] theorem State.setCvu_plan (s : State) (u : Nat) (v : Cvu) : (s.setCvu u v).plan = s.plan := rfl
@[simp] theorem State.setCvu_host (s : State) (u : Nat) (v : Cvu) : (s.setCvu u v).host = s.host := rfl
@[simp] theorem State.setCvu_mgt (s : State) (u : Nat) (v : Cvu) : (s.setCvu u v).mgt = s.mgt := rfl
@[simp] theorem State.setCvu_regs (s : State) (u : Nat) (v : Cvu) : (s.setCvu u v).regs = s.regs := rfl
@[simp] theorem State.setCvu_latches (s : State) (u : Nat) (v : Cvu) : (s.setCvu u v).latches = s.latches := rfl
@[simp] theorem State.setCvu_rings (s : State) (u : Nat) (v : Cvu) : (s.setCvu u v).rings = s.rings := rfl
@[simp] theorem State.setCvu_inflight (s : State) (u : Nat) (v : Cvu) : (s.setCvu u v).inflight = s.inflight := rfl
@[simp] theorem State.setCvu_dcClock (s : State) (u : Nat) (v : Cvu) : (s.setCvu u v).dcClock = s.dcClock := rfl
@[simp] theorem State.setCvu_jobs (s : State) (u : Nat) (v : Cvu) : (s.setCvu u v).jobs = s.jobs := rfl
@[simp] theorem State.setCvu_tiles (s : State) (u : Nat) (v : Cvu) : (s.setCvu u v).tiles = s.tiles := rfl
@[simp] theorem State.setCvu_sole (s : State) (u : Nat) (v : Cvu) : (s.setCvu u v).sole = s.sole := rfl
@[simp] theorem State.setCvu_hbm (s : State) (u : Nat) (v : Cvu) : (s.setCvu u v).hbm = s.hbm := rfl
@[simp] theorem State.setCvu_welt (s : State) (u : Nat) (v : Cvu) : (s.setCvu u v).welt = s.welt := rfl
@[simp] theorem State.setCvu_seq (s : State) (u : Nat) (v : Cvu) : (s.setCvu u v).seq = s.seq := rfl
@[simp] theorem State.setCvu_qos (s : State) (u : Nat) (v : Cvu) : (s.setCvu u v).qos = s.qos := rfl
@[simp] theorem State.setCvu_fabric (s : State) (u : Nat) (v : Cvu) : (s.setCvu u v).fabric = s.fabric := rfl
@[simp] theorem State.setCvu_pwr (s : State) (u : Nat) (v : Cvu) : (s.setCvu u v).pwr = s.pwr := rfl
@[simp] theorem State.setCvu_thm (s : State) (u : Nat) (v : Cvu) : (s.setCvu u v).thm = s.thm := rfl
@[simp] theorem State.setCvu_sec (s : State) (u : Nat) (v : Cvu) : (s.setCvu u v).sec = s.sec := rfl
@[simp] theorem State.setPort_pending (s : State) (p : Nat) (v : FabPort) : (s.setPort p v).pending = s.pending := rfl
@[simp] theorem State.setPort_aon (s : State) (p : Nat) (v : FabPort) : (s.setPort p v).aon = s.aon := rfl
@[simp] theorem State.setPort_draws (s : State) (p : Nat) (v : FabPort) : (s.setPort p v).draws = s.draws := rfl
@[simp] theorem State.setPort_part (s : State) (p : Nat) (v : FabPort) : (s.setPort p v).part = s.part := rfl
@[simp] theorem State.setPort_dev (s : State) (p : Nat) (v : FabPort) : (s.setPort p v).dev = s.dev := rfl
@[simp] theorem State.setPort_mram (s : State) (p : Nat) (v : FabPort) : (s.setPort p v).mram = s.mram := rfl
@[simp] theorem State.setPort_flash (s : State) (p : Nat) (v : FabPort) : (s.setPort p v).flash = s.flash := rfl
@[simp] theorem State.setPort_plan (s : State) (p : Nat) (v : FabPort) : (s.setPort p v).plan = s.plan := rfl
@[simp] theorem State.setPort_host (s : State) (p : Nat) (v : FabPort) : (s.setPort p v).host = s.host := rfl
@[simp] theorem State.setPort_mgt (s : State) (p : Nat) (v : FabPort) : (s.setPort p v).mgt = s.mgt := rfl
@[simp] theorem State.setPort_regs (s : State) (p : Nat) (v : FabPort) : (s.setPort p v).regs = s.regs := rfl
@[simp] theorem State.setPort_latches (s : State) (p : Nat) (v : FabPort) : (s.setPort p v).latches = s.latches := rfl
@[simp] theorem State.setPort_rings (s : State) (p : Nat) (v : FabPort) : (s.setPort p v).rings = s.rings := rfl
@[simp] theorem State.setPort_inflight (s : State) (p : Nat) (v : FabPort) : (s.setPort p v).inflight = s.inflight := rfl
@[simp] theorem State.setPort_dcClock (s : State) (p : Nat) (v : FabPort) : (s.setPort p v).dcClock = s.dcClock := rfl
@[simp] theorem State.setPort_jobs (s : State) (p : Nat) (v : FabPort) : (s.setPort p v).jobs = s.jobs := rfl
@[simp] theorem State.setPort_tiles (s : State) (p : Nat) (v : FabPort) : (s.setPort p v).tiles = s.tiles := rfl
@[simp] theorem State.setPort_sole (s : State) (p : Nat) (v : FabPort) : (s.setPort p v).sole = s.sole := rfl
@[simp] theorem State.setPort_hbm (s : State) (p : Nat) (v : FabPort) : (s.setPort p v).hbm = s.hbm := rfl
@[simp] theorem State.setPort_welt (s : State) (p : Nat) (v : FabPort) : (s.setPort p v).welt = s.welt := rfl
@[simp] theorem State.setPort_seq (s : State) (p : Nat) (v : FabPort) : (s.setPort p v).seq = s.seq := rfl
@[simp] theorem State.setPort_qos (s : State) (p : Nat) (v : FabPort) : (s.setPort p v).qos = s.qos := rfl
@[simp] theorem State.setPort_cvus (s : State) (p : Nat) (v : FabPort) : (s.setPort p v).cvus = s.cvus := rfl
@[simp] theorem State.setPort_pwr (s : State) (p : Nat) (v : FabPort) : (s.setPort p v).pwr = s.pwr := rfl
@[simp] theorem State.setPort_thm (s : State) (p : Nat) (v : FabPort) : (s.setPort p v).thm = s.thm := rfl
@[simp] theorem State.setPort_sec (s : State) (p : Nat) (v : FabPort) : (s.setPort p v).sec = s.sec := rfl
@[simp] theorem State.updPort_pending (s : State) (p : Nat) (f : FabPort → FabPort) : (s.updPort p f).pending = s.pending := rfl
@[simp] theorem State.updPort_aon (s : State) (p : Nat) (f : FabPort → FabPort) : (s.updPort p f).aon = s.aon := rfl
@[simp] theorem State.updPort_draws (s : State) (p : Nat) (f : FabPort → FabPort) : (s.updPort p f).draws = s.draws := rfl
@[simp] theorem State.updPort_part (s : State) (p : Nat) (f : FabPort → FabPort) : (s.updPort p f).part = s.part := rfl
@[simp] theorem State.updPort_dev (s : State) (p : Nat) (f : FabPort → FabPort) : (s.updPort p f).dev = s.dev := rfl
@[simp] theorem State.updPort_mram (s : State) (p : Nat) (f : FabPort → FabPort) : (s.updPort p f).mram = s.mram := rfl
@[simp] theorem State.updPort_flash (s : State) (p : Nat) (f : FabPort → FabPort) : (s.updPort p f).flash = s.flash := rfl
@[simp] theorem State.updPort_plan (s : State) (p : Nat) (f : FabPort → FabPort) : (s.updPort p f).plan = s.plan := rfl
@[simp] theorem State.updPort_host (s : State) (p : Nat) (f : FabPort → FabPort) : (s.updPort p f).host = s.host := rfl
@[simp] theorem State.updPort_mgt (s : State) (p : Nat) (f : FabPort → FabPort) : (s.updPort p f).mgt = s.mgt := rfl
@[simp] theorem State.updPort_regs (s : State) (p : Nat) (f : FabPort → FabPort) : (s.updPort p f).regs = s.regs := rfl
@[simp] theorem State.updPort_latches (s : State) (p : Nat) (f : FabPort → FabPort) : (s.updPort p f).latches = s.latches := rfl
@[simp] theorem State.updPort_rings (s : State) (p : Nat) (f : FabPort → FabPort) : (s.updPort p f).rings = s.rings := rfl
@[simp] theorem State.updPort_inflight (s : State) (p : Nat) (f : FabPort → FabPort) : (s.updPort p f).inflight = s.inflight := rfl
@[simp] theorem State.updPort_dcClock (s : State) (p : Nat) (f : FabPort → FabPort) : (s.updPort p f).dcClock = s.dcClock := rfl
@[simp] theorem State.updPort_jobs (s : State) (p : Nat) (f : FabPort → FabPort) : (s.updPort p f).jobs = s.jobs := rfl
@[simp] theorem State.updPort_tiles (s : State) (p : Nat) (f : FabPort → FabPort) : (s.updPort p f).tiles = s.tiles := rfl
@[simp] theorem State.updPort_sole (s : State) (p : Nat) (f : FabPort → FabPort) : (s.updPort p f).sole = s.sole := rfl
@[simp] theorem State.updPort_hbm (s : State) (p : Nat) (f : FabPort → FabPort) : (s.updPort p f).hbm = s.hbm := rfl
@[simp] theorem State.updPort_welt (s : State) (p : Nat) (f : FabPort → FabPort) : (s.updPort p f).welt = s.welt := rfl
@[simp] theorem State.updPort_seq (s : State) (p : Nat) (f : FabPort → FabPort) : (s.updPort p f).seq = s.seq := rfl
@[simp] theorem State.updPort_qos (s : State) (p : Nat) (f : FabPort → FabPort) : (s.updPort p f).qos = s.qos := rfl
@[simp] theorem State.updPort_cvus (s : State) (p : Nat) (f : FabPort → FabPort) : (s.updPort p f).cvus = s.cvus := rfl
@[simp] theorem State.updPort_pwr (s : State) (p : Nat) (f : FabPort → FabPort) : (s.updPort p f).pwr = s.pwr := rfl
@[simp] theorem State.updPort_thm (s : State) (p : Nat) (f : FabPort → FabPort) : (s.updPort p f).thm = s.thm := rfl
@[simp] theorem State.updPort_sec (s : State) (p : Nat) (f : FabPort → FabPort) : (s.updPort p f).sec = s.sec := rfl
@[simp] theorem State.setRegion_pending (s : State) (k r : Nat) (v : Region) : (s.setRegion k r v).pending = s.pending := rfl
@[simp] theorem State.setRegion_aon (s : State) (k r : Nat) (v : Region) : (s.setRegion k r v).aon = s.aon := rfl
@[simp] theorem State.setRegion_draws (s : State) (k r : Nat) (v : Region) : (s.setRegion k r v).draws = s.draws := rfl
@[simp] theorem State.setRegion_part (s : State) (k r : Nat) (v : Region) : (s.setRegion k r v).part = s.part := rfl
@[simp] theorem State.setRegion_dev (s : State) (k r : Nat) (v : Region) : (s.setRegion k r v).dev = s.dev := rfl
@[simp] theorem State.setRegion_mram (s : State) (k r : Nat) (v : Region) : (s.setRegion k r v).mram = s.mram := rfl
@[simp] theorem State.setRegion_flash (s : State) (k r : Nat) (v : Region) : (s.setRegion k r v).flash = s.flash := rfl
@[simp] theorem State.setRegion_plan (s : State) (k r : Nat) (v : Region) : (s.setRegion k r v).plan = s.plan := rfl
@[simp] theorem State.setRegion_host (s : State) (k r : Nat) (v : Region) : (s.setRegion k r v).host = s.host := rfl
@[simp] theorem State.setRegion_mgt (s : State) (k r : Nat) (v : Region) : (s.setRegion k r v).mgt = s.mgt := rfl
@[simp] theorem State.setRegion_regs (s : State) (k r : Nat) (v : Region) : (s.setRegion k r v).regs = s.regs := rfl
@[simp] theorem State.setRegion_latches (s : State) (k r : Nat) (v : Region) : (s.setRegion k r v).latches = s.latches := rfl
@[simp] theorem State.setRegion_rings (s : State) (k r : Nat) (v : Region) : (s.setRegion k r v).rings = s.rings := rfl
@[simp] theorem State.setRegion_inflight (s : State) (k r : Nat) (v : Region) : (s.setRegion k r v).inflight = s.inflight := rfl
@[simp] theorem State.setRegion_dcClock (s : State) (k r : Nat) (v : Region) : (s.setRegion k r v).dcClock = s.dcClock := rfl
@[simp] theorem State.setRegion_jobs (s : State) (k r : Nat) (v : Region) : (s.setRegion k r v).jobs = s.jobs := rfl
@[simp] theorem State.setRegion_tiles (s : State) (k r : Nat) (v : Region) : (s.setRegion k r v).tiles = s.tiles := rfl
@[simp] theorem State.setRegion_sole (s : State) (k r : Nat) (v : Region) : (s.setRegion k r v).sole = s.sole := rfl
@[simp] theorem State.setRegion_hbm (s : State) (k r : Nat) (v : Region) : (s.setRegion k r v).hbm = s.hbm := rfl
@[simp] theorem State.setRegion_welt (s : State) (k r : Nat) (v : Region) : (s.setRegion k r v).welt = s.welt := rfl
@[simp] theorem State.setRegion_seq (s : State) (k r : Nat) (v : Region) : (s.setRegion k r v).seq = s.seq := rfl
@[simp] theorem State.setRegion_qos (s : State) (k r : Nat) (v : Region) : (s.setRegion k r v).qos = s.qos := rfl
@[simp] theorem State.setRegion_fabric (s : State) (k r : Nat) (v : Region) : (s.setRegion k r v).fabric = s.fabric := rfl
@[simp] theorem State.setRegion_cvus (s : State) (k r : Nat) (v : Region) : (s.setRegion k r v).cvus = s.cvus := rfl
@[simp] theorem State.setRegion_thm (s : State) (k r : Nat) (v : Region) : (s.setRegion k r v).thm = s.thm := rfl
@[simp] theorem State.setRegion_sec (s : State) (k r : Nat) (v : Region) : (s.setRegion k r v).sec = s.sec := rfl
@[simp] theorem State.setChan_pending (s : State) (c : Nat) (v : WeltChan) : (s.setChan c v).pending = s.pending := rfl
@[simp] theorem State.setChan_aon (s : State) (c : Nat) (v : WeltChan) : (s.setChan c v).aon = s.aon := rfl
@[simp] theorem State.setChan_draws (s : State) (c : Nat) (v : WeltChan) : (s.setChan c v).draws = s.draws := rfl
@[simp] theorem State.setChan_part (s : State) (c : Nat) (v : WeltChan) : (s.setChan c v).part = s.part := rfl
@[simp] theorem State.setChan_dev (s : State) (c : Nat) (v : WeltChan) : (s.setChan c v).dev = s.dev := rfl
@[simp] theorem State.setChan_mram (s : State) (c : Nat) (v : WeltChan) : (s.setChan c v).mram = s.mram := rfl
@[simp] theorem State.setChan_flash (s : State) (c : Nat) (v : WeltChan) : (s.setChan c v).flash = s.flash := rfl
@[simp] theorem State.setChan_plan (s : State) (c : Nat) (v : WeltChan) : (s.setChan c v).plan = s.plan := rfl
@[simp] theorem State.setChan_host (s : State) (c : Nat) (v : WeltChan) : (s.setChan c v).host = s.host := rfl
@[simp] theorem State.setChan_mgt (s : State) (c : Nat) (v : WeltChan) : (s.setChan c v).mgt = s.mgt := rfl
@[simp] theorem State.setChan_regs (s : State) (c : Nat) (v : WeltChan) : (s.setChan c v).regs = s.regs := rfl
@[simp] theorem State.setChan_latches (s : State) (c : Nat) (v : WeltChan) : (s.setChan c v).latches = s.latches := rfl
@[simp] theorem State.setChan_rings (s : State) (c : Nat) (v : WeltChan) : (s.setChan c v).rings = s.rings := rfl
@[simp] theorem State.setChan_inflight (s : State) (c : Nat) (v : WeltChan) : (s.setChan c v).inflight = s.inflight := rfl
@[simp] theorem State.setChan_dcClock (s : State) (c : Nat) (v : WeltChan) : (s.setChan c v).dcClock = s.dcClock := rfl
@[simp] theorem State.setChan_jobs (s : State) (c : Nat) (v : WeltChan) : (s.setChan c v).jobs = s.jobs := rfl
@[simp] theorem State.setChan_tiles (s : State) (c : Nat) (v : WeltChan) : (s.setChan c v).tiles = s.tiles := rfl
@[simp] theorem State.setChan_sole (s : State) (c : Nat) (v : WeltChan) : (s.setChan c v).sole = s.sole := rfl
@[simp] theorem State.setChan_hbm (s : State) (c : Nat) (v : WeltChan) : (s.setChan c v).hbm = s.hbm := rfl
@[simp] theorem State.setChan_seq (s : State) (c : Nat) (v : WeltChan) : (s.setChan c v).seq = s.seq := rfl
@[simp] theorem State.setChan_qos (s : State) (c : Nat) (v : WeltChan) : (s.setChan c v).qos = s.qos := rfl
@[simp] theorem State.setChan_fabric (s : State) (c : Nat) (v : WeltChan) : (s.setChan c v).fabric = s.fabric := rfl
@[simp] theorem State.setChan_cvus (s : State) (c : Nat) (v : WeltChan) : (s.setChan c v).cvus = s.cvus := rfl
@[simp] theorem State.setChan_pwr (s : State) (c : Nat) (v : WeltChan) : (s.setChan c v).pwr = s.pwr := rfl
@[simp] theorem State.setChan_thm (s : State) (c : Nat) (v : WeltChan) : (s.setChan c v).thm = s.thm := rfl
@[simp] theorem State.setChan_sec (s : State) (c : Nat) (v : WeltChan) : (s.setChan c v).sec = s.sec := rfl
@[simp] theorem State.setWeltStack_pending (s : State) (k : Nat) (v : WeltStack) : (s.setWeltStack k v).pending = s.pending := rfl
@[simp] theorem State.setWeltStack_aon (s : State) (k : Nat) (v : WeltStack) : (s.setWeltStack k v).aon = s.aon := rfl
@[simp] theorem State.setWeltStack_draws (s : State) (k : Nat) (v : WeltStack) : (s.setWeltStack k v).draws = s.draws := rfl
@[simp] theorem State.setWeltStack_part (s : State) (k : Nat) (v : WeltStack) : (s.setWeltStack k v).part = s.part := rfl
@[simp] theorem State.setWeltStack_dev (s : State) (k : Nat) (v : WeltStack) : (s.setWeltStack k v).dev = s.dev := rfl
@[simp] theorem State.setWeltStack_mram (s : State) (k : Nat) (v : WeltStack) : (s.setWeltStack k v).mram = s.mram := rfl
@[simp] theorem State.setWeltStack_flash (s : State) (k : Nat) (v : WeltStack) : (s.setWeltStack k v).flash = s.flash := rfl
@[simp] theorem State.setWeltStack_plan (s : State) (k : Nat) (v : WeltStack) : (s.setWeltStack k v).plan = s.plan := rfl
@[simp] theorem State.setWeltStack_host (s : State) (k : Nat) (v : WeltStack) : (s.setWeltStack k v).host = s.host := rfl
@[simp] theorem State.setWeltStack_mgt (s : State) (k : Nat) (v : WeltStack) : (s.setWeltStack k v).mgt = s.mgt := rfl
@[simp] theorem State.setWeltStack_regs (s : State) (k : Nat) (v : WeltStack) : (s.setWeltStack k v).regs = s.regs := rfl
@[simp] theorem State.setWeltStack_latches (s : State) (k : Nat) (v : WeltStack) : (s.setWeltStack k v).latches = s.latches := rfl
@[simp] theorem State.setWeltStack_rings (s : State) (k : Nat) (v : WeltStack) : (s.setWeltStack k v).rings = s.rings := rfl
@[simp] theorem State.setWeltStack_inflight (s : State) (k : Nat) (v : WeltStack) : (s.setWeltStack k v).inflight = s.inflight := rfl
@[simp] theorem State.setWeltStack_dcClock (s : State) (k : Nat) (v : WeltStack) : (s.setWeltStack k v).dcClock = s.dcClock := rfl
@[simp] theorem State.setWeltStack_jobs (s : State) (k : Nat) (v : WeltStack) : (s.setWeltStack k v).jobs = s.jobs := rfl
@[simp] theorem State.setWeltStack_tiles (s : State) (k : Nat) (v : WeltStack) : (s.setWeltStack k v).tiles = s.tiles := rfl
@[simp] theorem State.setWeltStack_sole (s : State) (k : Nat) (v : WeltStack) : (s.setWeltStack k v).sole = s.sole := rfl
@[simp] theorem State.setWeltStack_hbm (s : State) (k : Nat) (v : WeltStack) : (s.setWeltStack k v).hbm = s.hbm := rfl
@[simp] theorem State.setWeltStack_seq (s : State) (k : Nat) (v : WeltStack) : (s.setWeltStack k v).seq = s.seq := rfl
@[simp] theorem State.setWeltStack_qos (s : State) (k : Nat) (v : WeltStack) : (s.setWeltStack k v).qos = s.qos := rfl
@[simp] theorem State.setWeltStack_fabric (s : State) (k : Nat) (v : WeltStack) : (s.setWeltStack k v).fabric = s.fabric := rfl
@[simp] theorem State.setWeltStack_cvus (s : State) (k : Nat) (v : WeltStack) : (s.setWeltStack k v).cvus = s.cvus := rfl
@[simp] theorem State.setWeltStack_pwr (s : State) (k : Nat) (v : WeltStack) : (s.setWeltStack k v).pwr = s.pwr := rfl
@[simp] theorem State.setWeltStack_thm (s : State) (k : Nat) (v : WeltStack) : (s.setWeltStack k v).thm = s.thm := rfl
@[simp] theorem State.setWeltStack_sec (s : State) (k : Nat) (v : WeltStack) : (s.setWeltStack k v).sec = s.sec := rfl
@[simp] theorem State.setSlice_pending (s : State) (k : Nat) (v : Slice) : (s.setSlice k v).pending = s.pending := rfl
@[simp] theorem State.setSlice_aon (s : State) (k : Nat) (v : Slice) : (s.setSlice k v).aon = s.aon := rfl
@[simp] theorem State.setSlice_draws (s : State) (k : Nat) (v : Slice) : (s.setSlice k v).draws = s.draws := rfl
@[simp] theorem State.setSlice_part (s : State) (k : Nat) (v : Slice) : (s.setSlice k v).part = s.part := rfl
@[simp] theorem State.setSlice_dev (s : State) (k : Nat) (v : Slice) : (s.setSlice k v).dev = s.dev := rfl
@[simp] theorem State.setSlice_mram (s : State) (k : Nat) (v : Slice) : (s.setSlice k v).mram = s.mram := rfl
@[simp] theorem State.setSlice_flash (s : State) (k : Nat) (v : Slice) : (s.setSlice k v).flash = s.flash := rfl
@[simp] theorem State.setSlice_plan (s : State) (k : Nat) (v : Slice) : (s.setSlice k v).plan = s.plan := rfl
@[simp] theorem State.setSlice_host (s : State) (k : Nat) (v : Slice) : (s.setSlice k v).host = s.host := rfl
@[simp] theorem State.setSlice_mgt (s : State) (k : Nat) (v : Slice) : (s.setSlice k v).mgt = s.mgt := rfl
@[simp] theorem State.setSlice_regs (s : State) (k : Nat) (v : Slice) : (s.setSlice k v).regs = s.regs := rfl
@[simp] theorem State.setSlice_latches (s : State) (k : Nat) (v : Slice) : (s.setSlice k v).latches = s.latches := rfl
@[simp] theorem State.setSlice_rings (s : State) (k : Nat) (v : Slice) : (s.setSlice k v).rings = s.rings := rfl
@[simp] theorem State.setSlice_inflight (s : State) (k : Nat) (v : Slice) : (s.setSlice k v).inflight = s.inflight := rfl
@[simp] theorem State.setSlice_dcClock (s : State) (k : Nat) (v : Slice) : (s.setSlice k v).dcClock = s.dcClock := rfl
@[simp] theorem State.setSlice_jobs (s : State) (k : Nat) (v : Slice) : (s.setSlice k v).jobs = s.jobs := rfl
@[simp] theorem State.setSlice_tiles (s : State) (k : Nat) (v : Slice) : (s.setSlice k v).tiles = s.tiles := rfl
@[simp] theorem State.setSlice_hbm (s : State) (k : Nat) (v : Slice) : (s.setSlice k v).hbm = s.hbm := rfl
@[simp] theorem State.setSlice_welt (s : State) (k : Nat) (v : Slice) : (s.setSlice k v).welt = s.welt := rfl
@[simp] theorem State.setSlice_seq (s : State) (k : Nat) (v : Slice) : (s.setSlice k v).seq = s.seq := rfl
@[simp] theorem State.setSlice_qos (s : State) (k : Nat) (v : Slice) : (s.setSlice k v).qos = s.qos := rfl
@[simp] theorem State.setSlice_fabric (s : State) (k : Nat) (v : Slice) : (s.setSlice k v).fabric = s.fabric := rfl
@[simp] theorem State.setSlice_cvus (s : State) (k : Nat) (v : Slice) : (s.setSlice k v).cvus = s.cvus := rfl
@[simp] theorem State.setSlice_pwr (s : State) (k : Nat) (v : Slice) : (s.setSlice k v).pwr = s.pwr := rfl
@[simp] theorem State.setSlice_thm (s : State) (k : Nat) (v : Slice) : (s.setSlice k v).thm = s.thm := rfl
@[simp] theorem State.setSlice_sec (s : State) (k : Nat) (v : Slice) : (s.setSlice k v).sec = s.sec := rfl
@[simp] theorem State.cntSlice_pending (s : State) (k off n : Nat) : (s.cntSlice k off n).pending = s.pending := rfl
@[simp] theorem State.cntSlice_aon (s : State) (k off n : Nat) : (s.cntSlice k off n).aon = s.aon := rfl
@[simp] theorem State.cntSlice_draws (s : State) (k off n : Nat) : (s.cntSlice k off n).draws = s.draws := rfl
@[simp] theorem State.cntSlice_part (s : State) (k off n : Nat) : (s.cntSlice k off n).part = s.part := rfl
@[simp] theorem State.cntSlice_dev (s : State) (k off n : Nat) : (s.cntSlice k off n).dev = s.dev := rfl
@[simp] theorem State.cntSlice_mram (s : State) (k off n : Nat) : (s.cntSlice k off n).mram = s.mram := rfl
@[simp] theorem State.cntSlice_flash (s : State) (k off n : Nat) : (s.cntSlice k off n).flash = s.flash := rfl
@[simp] theorem State.cntSlice_plan (s : State) (k off n : Nat) : (s.cntSlice k off n).plan = s.plan := rfl
@[simp] theorem State.cntSlice_host (s : State) (k off n : Nat) : (s.cntSlice k off n).host = s.host := rfl
@[simp] theorem State.cntSlice_mgt (s : State) (k off n : Nat) : (s.cntSlice k off n).mgt = s.mgt := rfl
@[simp] theorem State.cntSlice_regs (s : State) (k off n : Nat) : (s.cntSlice k off n).regs = s.regs := rfl
@[simp] theorem State.cntSlice_latches (s : State) (k off n : Nat) : (s.cntSlice k off n).latches = s.latches := rfl
@[simp] theorem State.cntSlice_rings (s : State) (k off n : Nat) : (s.cntSlice k off n).rings = s.rings := rfl
@[simp] theorem State.cntSlice_inflight (s : State) (k off n : Nat) : (s.cntSlice k off n).inflight = s.inflight := rfl
@[simp] theorem State.cntSlice_dcClock (s : State) (k off n : Nat) : (s.cntSlice k off n).dcClock = s.dcClock := rfl
@[simp] theorem State.cntSlice_jobs (s : State) (k off n : Nat) : (s.cntSlice k off n).jobs = s.jobs := rfl
@[simp] theorem State.cntSlice_tiles (s : State) (k off n : Nat) : (s.cntSlice k off n).tiles = s.tiles := rfl
@[simp] theorem State.cntSlice_hbm (s : State) (k off n : Nat) : (s.cntSlice k off n).hbm = s.hbm := rfl
@[simp] theorem State.cntSlice_welt (s : State) (k off n : Nat) : (s.cntSlice k off n).welt = s.welt := rfl
@[simp] theorem State.cntSlice_seq (s : State) (k off n : Nat) : (s.cntSlice k off n).seq = s.seq := rfl
@[simp] theorem State.cntSlice_qos (s : State) (k off n : Nat) : (s.cntSlice k off n).qos = s.qos := rfl
@[simp] theorem State.cntSlice_fabric (s : State) (k off n : Nat) : (s.cntSlice k off n).fabric = s.fabric := rfl
@[simp] theorem State.cntSlice_cvus (s : State) (k off n : Nat) : (s.cntSlice k off n).cvus = s.cvus := rfl
@[simp] theorem State.cntSlice_pwr (s : State) (k off n : Nat) : (s.cntSlice k off n).pwr = s.pwr := rfl
@[simp] theorem State.cntSlice_thm (s : State) (k off n : Nat) : (s.cntSlice k off n).thm = s.thm := rfl
@[simp] theorem State.cntSlice_sec (s : State) (k off n : Nat) : (s.cntSlice k off n).sec = s.sec := rfl
@[simp] theorem State.setLine_pending (s : State) (l : Nat) (v : SoleLine) : (s.setLine l v).pending = s.pending := rfl
@[simp] theorem State.setLine_aon (s : State) (l : Nat) (v : SoleLine) : (s.setLine l v).aon = s.aon := rfl
@[simp] theorem State.setLine_draws (s : State) (l : Nat) (v : SoleLine) : (s.setLine l v).draws = s.draws := rfl
@[simp] theorem State.setLine_part (s : State) (l : Nat) (v : SoleLine) : (s.setLine l v).part = s.part := rfl
@[simp] theorem State.setLine_dev (s : State) (l : Nat) (v : SoleLine) : (s.setLine l v).dev = s.dev := rfl
@[simp] theorem State.setLine_mram (s : State) (l : Nat) (v : SoleLine) : (s.setLine l v).mram = s.mram := rfl
@[simp] theorem State.setLine_flash (s : State) (l : Nat) (v : SoleLine) : (s.setLine l v).flash = s.flash := rfl
@[simp] theorem State.setLine_plan (s : State) (l : Nat) (v : SoleLine) : (s.setLine l v).plan = s.plan := rfl
@[simp] theorem State.setLine_host (s : State) (l : Nat) (v : SoleLine) : (s.setLine l v).host = s.host := rfl
@[simp] theorem State.setLine_mgt (s : State) (l : Nat) (v : SoleLine) : (s.setLine l v).mgt = s.mgt := rfl
@[simp] theorem State.setLine_regs (s : State) (l : Nat) (v : SoleLine) : (s.setLine l v).regs = s.regs := rfl
@[simp] theorem State.setLine_latches (s : State) (l : Nat) (v : SoleLine) : (s.setLine l v).latches = s.latches := rfl
@[simp] theorem State.setLine_rings (s : State) (l : Nat) (v : SoleLine) : (s.setLine l v).rings = s.rings := rfl
@[simp] theorem State.setLine_inflight (s : State) (l : Nat) (v : SoleLine) : (s.setLine l v).inflight = s.inflight := rfl
@[simp] theorem State.setLine_dcClock (s : State) (l : Nat) (v : SoleLine) : (s.setLine l v).dcClock = s.dcClock := rfl
@[simp] theorem State.setLine_jobs (s : State) (l : Nat) (v : SoleLine) : (s.setLine l v).jobs = s.jobs := rfl
@[simp] theorem State.setLine_tiles (s : State) (l : Nat) (v : SoleLine) : (s.setLine l v).tiles = s.tiles := rfl
@[simp] theorem State.setLine_hbm (s : State) (l : Nat) (v : SoleLine) : (s.setLine l v).hbm = s.hbm := rfl
@[simp] theorem State.setLine_welt (s : State) (l : Nat) (v : SoleLine) : (s.setLine l v).welt = s.welt := rfl
@[simp] theorem State.setLine_seq (s : State) (l : Nat) (v : SoleLine) : (s.setLine l v).seq = s.seq := rfl
@[simp] theorem State.setLine_qos (s : State) (l : Nat) (v : SoleLine) : (s.setLine l v).qos = s.qos := rfl
@[simp] theorem State.setLine_fabric (s : State) (l : Nat) (v : SoleLine) : (s.setLine l v).fabric = s.fabric := rfl
@[simp] theorem State.setLine_cvus (s : State) (l : Nat) (v : SoleLine) : (s.setLine l v).cvus = s.cvus := rfl
@[simp] theorem State.setLine_pwr (s : State) (l : Nat) (v : SoleLine) : (s.setLine l v).pwr = s.pwr := rfl
@[simp] theorem State.setLine_thm (s : State) (l : Nat) (v : SoleLine) : (s.setLine l v).thm = s.thm := rfl
@[simp] theorem State.setLine_sec (s : State) (l : Nat) (v : SoleLine) : (s.setLine l v).sec = s.sec := rfl
@[simp] theorem State.setEngine_pending (s : State) (k : Nat) (v : SeqEngine) : (s.setEngine k v).pending = s.pending := rfl
@[simp] theorem State.setEngine_aon (s : State) (k : Nat) (v : SeqEngine) : (s.setEngine k v).aon = s.aon := rfl
@[simp] theorem State.setEngine_draws (s : State) (k : Nat) (v : SeqEngine) : (s.setEngine k v).draws = s.draws := rfl
@[simp] theorem State.setEngine_part (s : State) (k : Nat) (v : SeqEngine) : (s.setEngine k v).part = s.part := rfl
@[simp] theorem State.setEngine_dev (s : State) (k : Nat) (v : SeqEngine) : (s.setEngine k v).dev = s.dev := rfl
@[simp] theorem State.setEngine_mram (s : State) (k : Nat) (v : SeqEngine) : (s.setEngine k v).mram = s.mram := rfl
@[simp] theorem State.setEngine_flash (s : State) (k : Nat) (v : SeqEngine) : (s.setEngine k v).flash = s.flash := rfl
@[simp] theorem State.setEngine_plan (s : State) (k : Nat) (v : SeqEngine) : (s.setEngine k v).plan = s.plan := rfl
@[simp] theorem State.setEngine_host (s : State) (k : Nat) (v : SeqEngine) : (s.setEngine k v).host = s.host := rfl
@[simp] theorem State.setEngine_mgt (s : State) (k : Nat) (v : SeqEngine) : (s.setEngine k v).mgt = s.mgt := rfl
@[simp] theorem State.setEngine_regs (s : State) (k : Nat) (v : SeqEngine) : (s.setEngine k v).regs = s.regs := rfl
@[simp] theorem State.setEngine_latches (s : State) (k : Nat) (v : SeqEngine) : (s.setEngine k v).latches = s.latches := rfl
@[simp] theorem State.setEngine_rings (s : State) (k : Nat) (v : SeqEngine) : (s.setEngine k v).rings = s.rings := rfl
@[simp] theorem State.setEngine_inflight (s : State) (k : Nat) (v : SeqEngine) : (s.setEngine k v).inflight = s.inflight := rfl
@[simp] theorem State.setEngine_dcClock (s : State) (k : Nat) (v : SeqEngine) : (s.setEngine k v).dcClock = s.dcClock := rfl
@[simp] theorem State.setEngine_jobs (s : State) (k : Nat) (v : SeqEngine) : (s.setEngine k v).jobs = s.jobs := rfl
@[simp] theorem State.setEngine_tiles (s : State) (k : Nat) (v : SeqEngine) : (s.setEngine k v).tiles = s.tiles := rfl
@[simp] theorem State.setEngine_sole (s : State) (k : Nat) (v : SeqEngine) : (s.setEngine k v).sole = s.sole := rfl
@[simp] theorem State.setEngine_hbm (s : State) (k : Nat) (v : SeqEngine) : (s.setEngine k v).hbm = s.hbm := rfl
@[simp] theorem State.setEngine_welt (s : State) (k : Nat) (v : SeqEngine) : (s.setEngine k v).welt = s.welt := rfl
@[simp] theorem State.setEngine_qos (s : State) (k : Nat) (v : SeqEngine) : (s.setEngine k v).qos = s.qos := rfl
@[simp] theorem State.setEngine_fabric (s : State) (k : Nat) (v : SeqEngine) : (s.setEngine k v).fabric = s.fabric := rfl
@[simp] theorem State.setEngine_cvus (s : State) (k : Nat) (v : SeqEngine) : (s.setEngine k v).cvus = s.cvus := rfl
@[simp] theorem State.setEngine_pwr (s : State) (k : Nat) (v : SeqEngine) : (s.setEngine k v).pwr = s.pwr := rfl
@[simp] theorem State.setEngine_thm (s : State) (k : Nat) (v : SeqEngine) : (s.setEngine k v).thm = s.thm := rfl
@[simp] theorem State.setEngine_sec (s : State) (k : Nat) (v : SeqEngine) : (s.setEngine k v).sec = s.sec := rfl
@[simp] theorem State.cntSeq_pending (s : State) (k off n : Nat) : (s.cntSeq k off n).pending = s.pending := rfl
@[simp] theorem State.cntSeq_aon (s : State) (k off n : Nat) : (s.cntSeq k off n).aon = s.aon := rfl
@[simp] theorem State.cntSeq_draws (s : State) (k off n : Nat) : (s.cntSeq k off n).draws = s.draws := rfl
@[simp] theorem State.cntSeq_part (s : State) (k off n : Nat) : (s.cntSeq k off n).part = s.part := rfl
@[simp] theorem State.cntSeq_dev (s : State) (k off n : Nat) : (s.cntSeq k off n).dev = s.dev := rfl
@[simp] theorem State.cntSeq_mram (s : State) (k off n : Nat) : (s.cntSeq k off n).mram = s.mram := rfl
@[simp] theorem State.cntSeq_flash (s : State) (k off n : Nat) : (s.cntSeq k off n).flash = s.flash := rfl
@[simp] theorem State.cntSeq_plan (s : State) (k off n : Nat) : (s.cntSeq k off n).plan = s.plan := rfl
@[simp] theorem State.cntSeq_host (s : State) (k off n : Nat) : (s.cntSeq k off n).host = s.host := rfl
@[simp] theorem State.cntSeq_mgt (s : State) (k off n : Nat) : (s.cntSeq k off n).mgt = s.mgt := rfl
@[simp] theorem State.cntSeq_regs (s : State) (k off n : Nat) : (s.cntSeq k off n).regs = s.regs := rfl
@[simp] theorem State.cntSeq_latches (s : State) (k off n : Nat) : (s.cntSeq k off n).latches = s.latches := rfl
@[simp] theorem State.cntSeq_rings (s : State) (k off n : Nat) : (s.cntSeq k off n).rings = s.rings := rfl
@[simp] theorem State.cntSeq_inflight (s : State) (k off n : Nat) : (s.cntSeq k off n).inflight = s.inflight := rfl
@[simp] theorem State.cntSeq_dcClock (s : State) (k off n : Nat) : (s.cntSeq k off n).dcClock = s.dcClock := rfl
@[simp] theorem State.cntSeq_jobs (s : State) (k off n : Nat) : (s.cntSeq k off n).jobs = s.jobs := rfl
@[simp] theorem State.cntSeq_tiles (s : State) (k off n : Nat) : (s.cntSeq k off n).tiles = s.tiles := rfl
@[simp] theorem State.cntSeq_sole (s : State) (k off n : Nat) : (s.cntSeq k off n).sole = s.sole := rfl
@[simp] theorem State.cntSeq_hbm (s : State) (k off n : Nat) : (s.cntSeq k off n).hbm = s.hbm := rfl
@[simp] theorem State.cntSeq_welt (s : State) (k off n : Nat) : (s.cntSeq k off n).welt = s.welt := rfl
@[simp] theorem State.cntSeq_qos (s : State) (k off n : Nat) : (s.cntSeq k off n).qos = s.qos := rfl
@[simp] theorem State.cntSeq_fabric (s : State) (k off n : Nat) : (s.cntSeq k off n).fabric = s.fabric := rfl
@[simp] theorem State.cntSeq_cvus (s : State) (k off n : Nat) : (s.cntSeq k off n).cvus = s.cvus := rfl
@[simp] theorem State.cntSeq_pwr (s : State) (k off n : Nat) : (s.cntSeq k off n).pwr = s.pwr := rfl
@[simp] theorem State.cntSeq_thm (s : State) (k off n : Nat) : (s.cntSeq k off n).thm = s.thm := rfl
@[simp] theorem State.cntSeq_sec (s : State) (k off n : Nat) : (s.cntSeq k off n).sec = s.sec := rfl
@[simp] theorem State.setSeqDesc_pending (s : State) (d : Nat) (v : SeqDesc) : (s.setSeqDesc d v).pending = s.pending := rfl
@[simp] theorem State.setSeqDesc_aon (s : State) (d : Nat) (v : SeqDesc) : (s.setSeqDesc d v).aon = s.aon := rfl
@[simp] theorem State.setSeqDesc_draws (s : State) (d : Nat) (v : SeqDesc) : (s.setSeqDesc d v).draws = s.draws := rfl
@[simp] theorem State.setSeqDesc_part (s : State) (d : Nat) (v : SeqDesc) : (s.setSeqDesc d v).part = s.part := rfl
@[simp] theorem State.setSeqDesc_dev (s : State) (d : Nat) (v : SeqDesc) : (s.setSeqDesc d v).dev = s.dev := rfl
@[simp] theorem State.setSeqDesc_mram (s : State) (d : Nat) (v : SeqDesc) : (s.setSeqDesc d v).mram = s.mram := rfl
@[simp] theorem State.setSeqDesc_flash (s : State) (d : Nat) (v : SeqDesc) : (s.setSeqDesc d v).flash = s.flash := rfl
@[simp] theorem State.setSeqDesc_plan (s : State) (d : Nat) (v : SeqDesc) : (s.setSeqDesc d v).plan = s.plan := rfl
@[simp] theorem State.setSeqDesc_host (s : State) (d : Nat) (v : SeqDesc) : (s.setSeqDesc d v).host = s.host := rfl
@[simp] theorem State.setSeqDesc_mgt (s : State) (d : Nat) (v : SeqDesc) : (s.setSeqDesc d v).mgt = s.mgt := rfl
@[simp] theorem State.setSeqDesc_regs (s : State) (d : Nat) (v : SeqDesc) : (s.setSeqDesc d v).regs = s.regs := rfl
@[simp] theorem State.setSeqDesc_latches (s : State) (d : Nat) (v : SeqDesc) : (s.setSeqDesc d v).latches = s.latches := rfl
@[simp] theorem State.setSeqDesc_rings (s : State) (d : Nat) (v : SeqDesc) : (s.setSeqDesc d v).rings = s.rings := rfl
@[simp] theorem State.setSeqDesc_inflight (s : State) (d : Nat) (v : SeqDesc) : (s.setSeqDesc d v).inflight = s.inflight := rfl
@[simp] theorem State.setSeqDesc_dcClock (s : State) (d : Nat) (v : SeqDesc) : (s.setSeqDesc d v).dcClock = s.dcClock := rfl
@[simp] theorem State.setSeqDesc_jobs (s : State) (d : Nat) (v : SeqDesc) : (s.setSeqDesc d v).jobs = s.jobs := rfl
@[simp] theorem State.setSeqDesc_tiles (s : State) (d : Nat) (v : SeqDesc) : (s.setSeqDesc d v).tiles = s.tiles := rfl
@[simp] theorem State.setSeqDesc_sole (s : State) (d : Nat) (v : SeqDesc) : (s.setSeqDesc d v).sole = s.sole := rfl
@[simp] theorem State.setSeqDesc_hbm (s : State) (d : Nat) (v : SeqDesc) : (s.setSeqDesc d v).hbm = s.hbm := rfl
@[simp] theorem State.setSeqDesc_welt (s : State) (d : Nat) (v : SeqDesc) : (s.setSeqDesc d v).welt = s.welt := rfl
@[simp] theorem State.setSeqDesc_qos (s : State) (d : Nat) (v : SeqDesc) : (s.setSeqDesc d v).qos = s.qos := rfl
@[simp] theorem State.setSeqDesc_fabric (s : State) (d : Nat) (v : SeqDesc) : (s.setSeqDesc d v).fabric = s.fabric := rfl
@[simp] theorem State.setSeqDesc_cvus (s : State) (d : Nat) (v : SeqDesc) : (s.setSeqDesc d v).cvus = s.cvus := rfl
@[simp] theorem State.setSeqDesc_pwr (s : State) (d : Nat) (v : SeqDesc) : (s.setSeqDesc d v).pwr = s.pwr := rfl
@[simp] theorem State.setSeqDesc_thm (s : State) (d : Nat) (v : SeqDesc) : (s.setSeqDesc d v).thm = s.thm := rfl
@[simp] theorem State.setSeqDesc_sec (s : State) (d : Nat) (v : SeqDesc) : (s.setSeqDesc d v).sec = s.sec := rfl
@[simp] theorem State.setMaster_pending (s : State) (m : Nat) (v : Master) : (s.setMaster m v).pending = s.pending := rfl
@[simp] theorem State.setMaster_aon (s : State) (m : Nat) (v : Master) : (s.setMaster m v).aon = s.aon := rfl
@[simp] theorem State.setMaster_draws (s : State) (m : Nat) (v : Master) : (s.setMaster m v).draws = s.draws := rfl
@[simp] theorem State.setMaster_part (s : State) (m : Nat) (v : Master) : (s.setMaster m v).part = s.part := rfl
@[simp] theorem State.setMaster_dev (s : State) (m : Nat) (v : Master) : (s.setMaster m v).dev = s.dev := rfl
@[simp] theorem State.setMaster_mram (s : State) (m : Nat) (v : Master) : (s.setMaster m v).mram = s.mram := rfl
@[simp] theorem State.setMaster_flash (s : State) (m : Nat) (v : Master) : (s.setMaster m v).flash = s.flash := rfl
@[simp] theorem State.setMaster_plan (s : State) (m : Nat) (v : Master) : (s.setMaster m v).plan = s.plan := rfl
@[simp] theorem State.setMaster_host (s : State) (m : Nat) (v : Master) : (s.setMaster m v).host = s.host := rfl
@[simp] theorem State.setMaster_mgt (s : State) (m : Nat) (v : Master) : (s.setMaster m v).mgt = s.mgt := rfl
@[simp] theorem State.setMaster_regs (s : State) (m : Nat) (v : Master) : (s.setMaster m v).regs = s.regs := rfl
@[simp] theorem State.setMaster_latches (s : State) (m : Nat) (v : Master) : (s.setMaster m v).latches = s.latches := rfl
@[simp] theorem State.setMaster_rings (s : State) (m : Nat) (v : Master) : (s.setMaster m v).rings = s.rings := rfl
@[simp] theorem State.setMaster_inflight (s : State) (m : Nat) (v : Master) : (s.setMaster m v).inflight = s.inflight := rfl
@[simp] theorem State.setMaster_dcClock (s : State) (m : Nat) (v : Master) : (s.setMaster m v).dcClock = s.dcClock := rfl
@[simp] theorem State.setMaster_jobs (s : State) (m : Nat) (v : Master) : (s.setMaster m v).jobs = s.jobs := rfl
@[simp] theorem State.setMaster_tiles (s : State) (m : Nat) (v : Master) : (s.setMaster m v).tiles = s.tiles := rfl
@[simp] theorem State.setMaster_sole (s : State) (m : Nat) (v : Master) : (s.setMaster m v).sole = s.sole := rfl
@[simp] theorem State.setMaster_hbm (s : State) (m : Nat) (v : Master) : (s.setMaster m v).hbm = s.hbm := rfl
@[simp] theorem State.setMaster_welt (s : State) (m : Nat) (v : Master) : (s.setMaster m v).welt = s.welt := rfl
@[simp] theorem State.setMaster_seq (s : State) (m : Nat) (v : Master) : (s.setMaster m v).seq = s.seq := rfl
@[simp] theorem State.setMaster_fabric (s : State) (m : Nat) (v : Master) : (s.setMaster m v).fabric = s.fabric := rfl
@[simp] theorem State.setMaster_cvus (s : State) (m : Nat) (v : Master) : (s.setMaster m v).cvus = s.cvus := rfl
@[simp] theorem State.setMaster_pwr (s : State) (m : Nat) (v : Master) : (s.setMaster m v).pwr = s.pwr := rfl
@[simp] theorem State.setMaster_thm (s : State) (m : Nat) (v : Master) : (s.setMaster m v).thm = s.thm := rfl
@[simp] theorem State.setMaster_sec (s : State) (m : Nat) (v : Master) : (s.setMaster m v).sec = s.sec := rfl
@[simp] theorem State.setSensor_pending (s : State) (d n : Nat) (v : Sensor) : (s.setSensor d n v).pending = s.pending := rfl
@[simp] theorem State.setSensor_aon (s : State) (d n : Nat) (v : Sensor) : (s.setSensor d n v).aon = s.aon := rfl
@[simp] theorem State.setSensor_draws (s : State) (d n : Nat) (v : Sensor) : (s.setSensor d n v).draws = s.draws := rfl
@[simp] theorem State.setSensor_part (s : State) (d n : Nat) (v : Sensor) : (s.setSensor d n v).part = s.part := rfl
@[simp] theorem State.setSensor_dev (s : State) (d n : Nat) (v : Sensor) : (s.setSensor d n v).dev = s.dev := rfl
@[simp] theorem State.setSensor_mram (s : State) (d n : Nat) (v : Sensor) : (s.setSensor d n v).mram = s.mram := rfl
@[simp] theorem State.setSensor_flash (s : State) (d n : Nat) (v : Sensor) : (s.setSensor d n v).flash = s.flash := rfl
@[simp] theorem State.setSensor_plan (s : State) (d n : Nat) (v : Sensor) : (s.setSensor d n v).plan = s.plan := rfl
@[simp] theorem State.setSensor_host (s : State) (d n : Nat) (v : Sensor) : (s.setSensor d n v).host = s.host := rfl
@[simp] theorem State.setSensor_mgt (s : State) (d n : Nat) (v : Sensor) : (s.setSensor d n v).mgt = s.mgt := rfl
@[simp] theorem State.setSensor_regs (s : State) (d n : Nat) (v : Sensor) : (s.setSensor d n v).regs = s.regs := rfl
@[simp] theorem State.setSensor_latches (s : State) (d n : Nat) (v : Sensor) : (s.setSensor d n v).latches = s.latches := rfl
@[simp] theorem State.setSensor_rings (s : State) (d n : Nat) (v : Sensor) : (s.setSensor d n v).rings = s.rings := rfl
@[simp] theorem State.setSensor_inflight (s : State) (d n : Nat) (v : Sensor) : (s.setSensor d n v).inflight = s.inflight := rfl
@[simp] theorem State.setSensor_dcClock (s : State) (d n : Nat) (v : Sensor) : (s.setSensor d n v).dcClock = s.dcClock := rfl
@[simp] theorem State.setSensor_jobs (s : State) (d n : Nat) (v : Sensor) : (s.setSensor d n v).jobs = s.jobs := rfl
@[simp] theorem State.setSensor_tiles (s : State) (d n : Nat) (v : Sensor) : (s.setSensor d n v).tiles = s.tiles := rfl
@[simp] theorem State.setSensor_sole (s : State) (d n : Nat) (v : Sensor) : (s.setSensor d n v).sole = s.sole := rfl
@[simp] theorem State.setSensor_hbm (s : State) (d n : Nat) (v : Sensor) : (s.setSensor d n v).hbm = s.hbm := rfl
@[simp] theorem State.setSensor_welt (s : State) (d n : Nat) (v : Sensor) : (s.setSensor d n v).welt = s.welt := rfl
@[simp] theorem State.setSensor_seq (s : State) (d n : Nat) (v : Sensor) : (s.setSensor d n v).seq = s.seq := rfl
@[simp] theorem State.setSensor_qos (s : State) (d n : Nat) (v : Sensor) : (s.setSensor d n v).qos = s.qos := rfl
@[simp] theorem State.setSensor_fabric (s : State) (d n : Nat) (v : Sensor) : (s.setSensor d n v).fabric = s.fabric := rfl
@[simp] theorem State.setSensor_cvus (s : State) (d n : Nat) (v : Sensor) : (s.setSensor d n v).cvus = s.cvus := rfl
@[simp] theorem State.setSensor_pwr (s : State) (d n : Nat) (v : Sensor) : (s.setSensor d n v).pwr = s.pwr := rfl
@[simp] theorem State.setSensor_sec (s : State) (d n : Nat) (v : Sensor) : (s.setSensor d n v).sec = s.sec := rfl
@[simp] theorem State.setDie_pending (s : State) (d : Nat) (v : Die) : (s.setDie d v).pending = s.pending := rfl
@[simp] theorem State.setDie_aon (s : State) (d : Nat) (v : Die) : (s.setDie d v).aon = s.aon := rfl
@[simp] theorem State.setDie_draws (s : State) (d : Nat) (v : Die) : (s.setDie d v).draws = s.draws := rfl
@[simp] theorem State.setDie_part (s : State) (d : Nat) (v : Die) : (s.setDie d v).part = s.part := rfl
@[simp] theorem State.setDie_dev (s : State) (d : Nat) (v : Die) : (s.setDie d v).dev = s.dev := rfl
@[simp] theorem State.setDie_mram (s : State) (d : Nat) (v : Die) : (s.setDie d v).mram = s.mram := rfl
@[simp] theorem State.setDie_flash (s : State) (d : Nat) (v : Die) : (s.setDie d v).flash = s.flash := rfl
@[simp] theorem State.setDie_plan (s : State) (d : Nat) (v : Die) : (s.setDie d v).plan = s.plan := rfl
@[simp] theorem State.setDie_host (s : State) (d : Nat) (v : Die) : (s.setDie d v).host = s.host := rfl
@[simp] theorem State.setDie_mgt (s : State) (d : Nat) (v : Die) : (s.setDie d v).mgt = s.mgt := rfl
@[simp] theorem State.setDie_regs (s : State) (d : Nat) (v : Die) : (s.setDie d v).regs = s.regs := rfl
@[simp] theorem State.setDie_latches (s : State) (d : Nat) (v : Die) : (s.setDie d v).latches = s.latches := rfl
@[simp] theorem State.setDie_rings (s : State) (d : Nat) (v : Die) : (s.setDie d v).rings = s.rings := rfl
@[simp] theorem State.setDie_inflight (s : State) (d : Nat) (v : Die) : (s.setDie d v).inflight = s.inflight := rfl
@[simp] theorem State.setDie_dcClock (s : State) (d : Nat) (v : Die) : (s.setDie d v).dcClock = s.dcClock := rfl
@[simp] theorem State.setDie_jobs (s : State) (d : Nat) (v : Die) : (s.setDie d v).jobs = s.jobs := rfl
@[simp] theorem State.setDie_tiles (s : State) (d : Nat) (v : Die) : (s.setDie d v).tiles = s.tiles := rfl
@[simp] theorem State.setDie_sole (s : State) (d : Nat) (v : Die) : (s.setDie d v).sole = s.sole := rfl
@[simp] theorem State.setDie_hbm (s : State) (d : Nat) (v : Die) : (s.setDie d v).hbm = s.hbm := rfl
@[simp] theorem State.setDie_welt (s : State) (d : Nat) (v : Die) : (s.setDie d v).welt = s.welt := rfl
@[simp] theorem State.setDie_seq (s : State) (d : Nat) (v : Die) : (s.setDie d v).seq = s.seq := rfl
@[simp] theorem State.setDie_qos (s : State) (d : Nat) (v : Die) : (s.setDie d v).qos = s.qos := rfl
@[simp] theorem State.setDie_fabric (s : State) (d : Nat) (v : Die) : (s.setDie d v).fabric = s.fabric := rfl
@[simp] theorem State.setDie_cvus (s : State) (d : Nat) (v : Die) : (s.setDie d v).cvus = s.cvus := rfl
@[simp] theorem State.setDie_pwr (s : State) (d : Nat) (v : Die) : (s.setDie d v).pwr = s.pwr := rfl
@[simp] theorem State.setDie_sec (s : State) (d : Nat) (v : Die) : (s.setDie d v).sec = s.sec := rfl
@[simp] theorem State.setKeySlot_pending (s : State) (n : Nat) (v : SecSlot) : (s.setKeySlot n v).pending = s.pending := rfl
@[simp] theorem State.setKeySlot_aon (s : State) (n : Nat) (v : SecSlot) : (s.setKeySlot n v).aon = s.aon := rfl
@[simp] theorem State.setKeySlot_draws (s : State) (n : Nat) (v : SecSlot) : (s.setKeySlot n v).draws = s.draws := rfl
@[simp] theorem State.setKeySlot_part (s : State) (n : Nat) (v : SecSlot) : (s.setKeySlot n v).part = s.part := rfl
@[simp] theorem State.setKeySlot_dev (s : State) (n : Nat) (v : SecSlot) : (s.setKeySlot n v).dev = s.dev := rfl
@[simp] theorem State.setKeySlot_mram (s : State) (n : Nat) (v : SecSlot) : (s.setKeySlot n v).mram = s.mram := rfl
@[simp] theorem State.setKeySlot_flash (s : State) (n : Nat) (v : SecSlot) : (s.setKeySlot n v).flash = s.flash := rfl
@[simp] theorem State.setKeySlot_plan (s : State) (n : Nat) (v : SecSlot) : (s.setKeySlot n v).plan = s.plan := rfl
@[simp] theorem State.setKeySlot_host (s : State) (n : Nat) (v : SecSlot) : (s.setKeySlot n v).host = s.host := rfl
@[simp] theorem State.setKeySlot_mgt (s : State) (n : Nat) (v : SecSlot) : (s.setKeySlot n v).mgt = s.mgt := rfl
@[simp] theorem State.setKeySlot_regs (s : State) (n : Nat) (v : SecSlot) : (s.setKeySlot n v).regs = s.regs := rfl
@[simp] theorem State.setKeySlot_latches (s : State) (n : Nat) (v : SecSlot) : (s.setKeySlot n v).latches = s.latches := rfl
@[simp] theorem State.setKeySlot_rings (s : State) (n : Nat) (v : SecSlot) : (s.setKeySlot n v).rings = s.rings := rfl
@[simp] theorem State.setKeySlot_inflight (s : State) (n : Nat) (v : SecSlot) : (s.setKeySlot n v).inflight = s.inflight := rfl
@[simp] theorem State.setKeySlot_dcClock (s : State) (n : Nat) (v : SecSlot) : (s.setKeySlot n v).dcClock = s.dcClock := rfl
@[simp] theorem State.setKeySlot_jobs (s : State) (n : Nat) (v : SecSlot) : (s.setKeySlot n v).jobs = s.jobs := rfl
@[simp] theorem State.setKeySlot_tiles (s : State) (n : Nat) (v : SecSlot) : (s.setKeySlot n v).tiles = s.tiles := rfl
@[simp] theorem State.setKeySlot_sole (s : State) (n : Nat) (v : SecSlot) : (s.setKeySlot n v).sole = s.sole := rfl
@[simp] theorem State.setKeySlot_hbm (s : State) (n : Nat) (v : SecSlot) : (s.setKeySlot n v).hbm = s.hbm := rfl
@[simp] theorem State.setKeySlot_welt (s : State) (n : Nat) (v : SecSlot) : (s.setKeySlot n v).welt = s.welt := rfl
@[simp] theorem State.setKeySlot_seq (s : State) (n : Nat) (v : SecSlot) : (s.setKeySlot n v).seq = s.seq := rfl
@[simp] theorem State.setKeySlot_qos (s : State) (n : Nat) (v : SecSlot) : (s.setKeySlot n v).qos = s.qos := rfl
@[simp] theorem State.setKeySlot_fabric (s : State) (n : Nat) (v : SecSlot) : (s.setKeySlot n v).fabric = s.fabric := rfl
@[simp] theorem State.setKeySlot_cvus (s : State) (n : Nat) (v : SecSlot) : (s.setKeySlot n v).cvus = s.cvus := rfl
@[simp] theorem State.setKeySlot_pwr (s : State) (n : Nat) (v : SecSlot) : (s.setKeySlot n v).pwr = s.pwr := rfl
@[simp] theorem State.setKeySlot_thm (s : State) (n : Nat) (v : SecSlot) : (s.setKeySlot n v).thm = s.thm := rfl
@[simp] theorem State.cntHbm_pending (s : State) (k off n : Nat) : (s.cntHbm k off n).pending = s.pending := rfl
@[simp] theorem State.cntHbm_aon (s : State) (k off n : Nat) : (s.cntHbm k off n).aon = s.aon := rfl
@[simp] theorem State.cntHbm_draws (s : State) (k off n : Nat) : (s.cntHbm k off n).draws = s.draws := rfl
@[simp] theorem State.cntHbm_part (s : State) (k off n : Nat) : (s.cntHbm k off n).part = s.part := rfl
@[simp] theorem State.cntHbm_dev (s : State) (k off n : Nat) : (s.cntHbm k off n).dev = s.dev := rfl
@[simp] theorem State.cntHbm_mram (s : State) (k off n : Nat) : (s.cntHbm k off n).mram = s.mram := rfl
@[simp] theorem State.cntHbm_flash (s : State) (k off n : Nat) : (s.cntHbm k off n).flash = s.flash := rfl
@[simp] theorem State.cntHbm_plan (s : State) (k off n : Nat) : (s.cntHbm k off n).plan = s.plan := rfl
@[simp] theorem State.cntHbm_host (s : State) (k off n : Nat) : (s.cntHbm k off n).host = s.host := rfl
@[simp] theorem State.cntHbm_mgt (s : State) (k off n : Nat) : (s.cntHbm k off n).mgt = s.mgt := rfl
@[simp] theorem State.cntHbm_regs (s : State) (k off n : Nat) : (s.cntHbm k off n).regs = s.regs := rfl
@[simp] theorem State.cntHbm_latches (s : State) (k off n : Nat) : (s.cntHbm k off n).latches = s.latches := rfl
@[simp] theorem State.cntHbm_rings (s : State) (k off n : Nat) : (s.cntHbm k off n).rings = s.rings := rfl
@[simp] theorem State.cntHbm_inflight (s : State) (k off n : Nat) : (s.cntHbm k off n).inflight = s.inflight := rfl
@[simp] theorem State.cntHbm_dcClock (s : State) (k off n : Nat) : (s.cntHbm k off n).dcClock = s.dcClock := rfl
@[simp] theorem State.cntHbm_jobs (s : State) (k off n : Nat) : (s.cntHbm k off n).jobs = s.jobs := rfl
@[simp] theorem State.cntHbm_tiles (s : State) (k off n : Nat) : (s.cntHbm k off n).tiles = s.tiles := rfl
@[simp] theorem State.cntHbm_sole (s : State) (k off n : Nat) : (s.cntHbm k off n).sole = s.sole := rfl
@[simp] theorem State.cntHbm_welt (s : State) (k off n : Nat) : (s.cntHbm k off n).welt = s.welt := rfl
@[simp] theorem State.cntHbm_seq (s : State) (k off n : Nat) : (s.cntHbm k off n).seq = s.seq := rfl
@[simp] theorem State.cntHbm_qos (s : State) (k off n : Nat) : (s.cntHbm k off n).qos = s.qos := rfl
@[simp] theorem State.cntHbm_fabric (s : State) (k off n : Nat) : (s.cntHbm k off n).fabric = s.fabric := rfl
@[simp] theorem State.cntHbm_cvus (s : State) (k off n : Nat) : (s.cntHbm k off n).cvus = s.cvus := rfl
@[simp] theorem State.cntHbm_pwr (s : State) (k off n : Nat) : (s.cntHbm k off n).pwr = s.pwr := rfl
@[simp] theorem State.cntHbm_thm (s : State) (k off n : Nat) : (s.cntHbm k off n).thm = s.thm := rfl
@[simp] theorem State.cntHbm_sec (s : State) (k off n : Nat) : (s.cntHbm k off n).sec = s.sec := rfl
@[simp] theorem State.cntPwr_pending (s : State) (k off n : Nat) : (s.cntPwr k off n).pending = s.pending := rfl
@[simp] theorem State.cntPwr_aon (s : State) (k off n : Nat) : (s.cntPwr k off n).aon = s.aon := rfl
@[simp] theorem State.cntPwr_draws (s : State) (k off n : Nat) : (s.cntPwr k off n).draws = s.draws := rfl
@[simp] theorem State.cntPwr_part (s : State) (k off n : Nat) : (s.cntPwr k off n).part = s.part := rfl
@[simp] theorem State.cntPwr_dev (s : State) (k off n : Nat) : (s.cntPwr k off n).dev = s.dev := rfl
@[simp] theorem State.cntPwr_mram (s : State) (k off n : Nat) : (s.cntPwr k off n).mram = s.mram := rfl
@[simp] theorem State.cntPwr_flash (s : State) (k off n : Nat) : (s.cntPwr k off n).flash = s.flash := rfl
@[simp] theorem State.cntPwr_plan (s : State) (k off n : Nat) : (s.cntPwr k off n).plan = s.plan := rfl
@[simp] theorem State.cntPwr_host (s : State) (k off n : Nat) : (s.cntPwr k off n).host = s.host := rfl
@[simp] theorem State.cntPwr_mgt (s : State) (k off n : Nat) : (s.cntPwr k off n).mgt = s.mgt := rfl
@[simp] theorem State.cntPwr_regs (s : State) (k off n : Nat) : (s.cntPwr k off n).regs = s.regs := rfl
@[simp] theorem State.cntPwr_latches (s : State) (k off n : Nat) : (s.cntPwr k off n).latches = s.latches := rfl
@[simp] theorem State.cntPwr_rings (s : State) (k off n : Nat) : (s.cntPwr k off n).rings = s.rings := rfl
@[simp] theorem State.cntPwr_inflight (s : State) (k off n : Nat) : (s.cntPwr k off n).inflight = s.inflight := rfl
@[simp] theorem State.cntPwr_dcClock (s : State) (k off n : Nat) : (s.cntPwr k off n).dcClock = s.dcClock := rfl
@[simp] theorem State.cntPwr_jobs (s : State) (k off n : Nat) : (s.cntPwr k off n).jobs = s.jobs := rfl
@[simp] theorem State.cntPwr_tiles (s : State) (k off n : Nat) : (s.cntPwr k off n).tiles = s.tiles := rfl
@[simp] theorem State.cntPwr_sole (s : State) (k off n : Nat) : (s.cntPwr k off n).sole = s.sole := rfl
@[simp] theorem State.cntPwr_hbm (s : State) (k off n : Nat) : (s.cntPwr k off n).hbm = s.hbm := rfl
@[simp] theorem State.cntPwr_welt (s : State) (k off n : Nat) : (s.cntPwr k off n).welt = s.welt := rfl
@[simp] theorem State.cntPwr_seq (s : State) (k off n : Nat) : (s.cntPwr k off n).seq = s.seq := rfl
@[simp] theorem State.cntPwr_qos (s : State) (k off n : Nat) : (s.cntPwr k off n).qos = s.qos := rfl
@[simp] theorem State.cntPwr_fabric (s : State) (k off n : Nat) : (s.cntPwr k off n).fabric = s.fabric := rfl
@[simp] theorem State.cntPwr_cvus (s : State) (k off n : Nat) : (s.cntPwr k off n).cvus = s.cvus := rfl
@[simp] theorem State.cntPwr_thm (s : State) (k off n : Nat) : (s.cntPwr k off n).thm = s.thm := rfl
@[simp] theorem State.cntPwr_sec (s : State) (k off n : Nat) : (s.cntPwr k off n).sec = s.sec := rfl
@[simp] theorem State.cntThm_pending (s : State) (off n : Nat) : (s.cntThm off n).pending = s.pending := rfl
@[simp] theorem State.cntThm_aon (s : State) (off n : Nat) : (s.cntThm off n).aon = s.aon := rfl
@[simp] theorem State.cntThm_draws (s : State) (off n : Nat) : (s.cntThm off n).draws = s.draws := rfl
@[simp] theorem State.cntThm_part (s : State) (off n : Nat) : (s.cntThm off n).part = s.part := rfl
@[simp] theorem State.cntThm_dev (s : State) (off n : Nat) : (s.cntThm off n).dev = s.dev := rfl
@[simp] theorem State.cntThm_mram (s : State) (off n : Nat) : (s.cntThm off n).mram = s.mram := rfl
@[simp] theorem State.cntThm_flash (s : State) (off n : Nat) : (s.cntThm off n).flash = s.flash := rfl
@[simp] theorem State.cntThm_plan (s : State) (off n : Nat) : (s.cntThm off n).plan = s.plan := rfl
@[simp] theorem State.cntThm_host (s : State) (off n : Nat) : (s.cntThm off n).host = s.host := rfl
@[simp] theorem State.cntThm_mgt (s : State) (off n : Nat) : (s.cntThm off n).mgt = s.mgt := rfl
@[simp] theorem State.cntThm_regs (s : State) (off n : Nat) : (s.cntThm off n).regs = s.regs := rfl
@[simp] theorem State.cntThm_latches (s : State) (off n : Nat) : (s.cntThm off n).latches = s.latches := rfl
@[simp] theorem State.cntThm_rings (s : State) (off n : Nat) : (s.cntThm off n).rings = s.rings := rfl
@[simp] theorem State.cntThm_inflight (s : State) (off n : Nat) : (s.cntThm off n).inflight = s.inflight := rfl
@[simp] theorem State.cntThm_dcClock (s : State) (off n : Nat) : (s.cntThm off n).dcClock = s.dcClock := rfl
@[simp] theorem State.cntThm_jobs (s : State) (off n : Nat) : (s.cntThm off n).jobs = s.jobs := rfl
@[simp] theorem State.cntThm_tiles (s : State) (off n : Nat) : (s.cntThm off n).tiles = s.tiles := rfl
@[simp] theorem State.cntThm_sole (s : State) (off n : Nat) : (s.cntThm off n).sole = s.sole := rfl
@[simp] theorem State.cntThm_hbm (s : State) (off n : Nat) : (s.cntThm off n).hbm = s.hbm := rfl
@[simp] theorem State.cntThm_welt (s : State) (off n : Nat) : (s.cntThm off n).welt = s.welt := rfl
@[simp] theorem State.cntThm_seq (s : State) (off n : Nat) : (s.cntThm off n).seq = s.seq := rfl
@[simp] theorem State.cntThm_qos (s : State) (off n : Nat) : (s.cntThm off n).qos = s.qos := rfl
@[simp] theorem State.cntThm_fabric (s : State) (off n : Nat) : (s.cntThm off n).fabric = s.fabric := rfl
@[simp] theorem State.cntThm_cvus (s : State) (off n : Nat) : (s.cntThm off n).cvus = s.cvus := rfl
@[simp] theorem State.cntThm_pwr (s : State) (off n : Nat) : (s.cntThm off n).pwr = s.pwr := rfl
@[simp] theorem State.cntThm_sec (s : State) (off n : Nat) : (s.cntThm off n).sec = s.sec := rfl
@[simp] theorem State.cntSec_pending (s : State) (off n : Nat) : (s.cntSec off n).pending = s.pending := rfl
@[simp] theorem State.cntSec_aon (s : State) (off n : Nat) : (s.cntSec off n).aon = s.aon := rfl
@[simp] theorem State.cntSec_draws (s : State) (off n : Nat) : (s.cntSec off n).draws = s.draws := rfl
@[simp] theorem State.cntSec_part (s : State) (off n : Nat) : (s.cntSec off n).part = s.part := rfl
@[simp] theorem State.cntSec_dev (s : State) (off n : Nat) : (s.cntSec off n).dev = s.dev := rfl
@[simp] theorem State.cntSec_mram (s : State) (off n : Nat) : (s.cntSec off n).mram = s.mram := rfl
@[simp] theorem State.cntSec_flash (s : State) (off n : Nat) : (s.cntSec off n).flash = s.flash := rfl
@[simp] theorem State.cntSec_plan (s : State) (off n : Nat) : (s.cntSec off n).plan = s.plan := rfl
@[simp] theorem State.cntSec_host (s : State) (off n : Nat) : (s.cntSec off n).host = s.host := rfl
@[simp] theorem State.cntSec_mgt (s : State) (off n : Nat) : (s.cntSec off n).mgt = s.mgt := rfl
@[simp] theorem State.cntSec_regs (s : State) (off n : Nat) : (s.cntSec off n).regs = s.regs := rfl
@[simp] theorem State.cntSec_latches (s : State) (off n : Nat) : (s.cntSec off n).latches = s.latches := rfl
@[simp] theorem State.cntSec_rings (s : State) (off n : Nat) : (s.cntSec off n).rings = s.rings := rfl
@[simp] theorem State.cntSec_inflight (s : State) (off n : Nat) : (s.cntSec off n).inflight = s.inflight := rfl
@[simp] theorem State.cntSec_dcClock (s : State) (off n : Nat) : (s.cntSec off n).dcClock = s.dcClock := rfl
@[simp] theorem State.cntSec_jobs (s : State) (off n : Nat) : (s.cntSec off n).jobs = s.jobs := rfl
@[simp] theorem State.cntSec_tiles (s : State) (off n : Nat) : (s.cntSec off n).tiles = s.tiles := rfl
@[simp] theorem State.cntSec_sole (s : State) (off n : Nat) : (s.cntSec off n).sole = s.sole := rfl
@[simp] theorem State.cntSec_hbm (s : State) (off n : Nat) : (s.cntSec off n).hbm = s.hbm := rfl
@[simp] theorem State.cntSec_welt (s : State) (off n : Nat) : (s.cntSec off n).welt = s.welt := rfl
@[simp] theorem State.cntSec_seq (s : State) (off n : Nat) : (s.cntSec off n).seq = s.seq := rfl
@[simp] theorem State.cntSec_qos (s : State) (off n : Nat) : (s.cntSec off n).qos = s.qos := rfl
@[simp] theorem State.cntSec_fabric (s : State) (off n : Nat) : (s.cntSec off n).fabric = s.fabric := rfl
@[simp] theorem State.cntSec_cvus (s : State) (off n : Nat) : (s.cntSec off n).cvus = s.cvus := rfl
@[simp] theorem State.cntSec_pwr (s : State) (off n : Nat) : (s.cntSec off n).pwr = s.pwr := rfl
@[simp] theorem State.cntSec_thm (s : State) (off n : Nat) : (s.cntSec off n).thm = s.thm := rfl
@[simp] theorem State.cntDbg_pending (s : State) (off n : Nat) : (s.cntDbg off n).pending = s.pending := rfl
@[simp] theorem State.cntDbg_aon (s : State) (off n : Nat) : (s.cntDbg off n).aon = s.aon := rfl
@[simp] theorem State.cntDbg_draws (s : State) (off n : Nat) : (s.cntDbg off n).draws = s.draws := rfl
@[simp] theorem State.cntDbg_part (s : State) (off n : Nat) : (s.cntDbg off n).part = s.part := rfl
@[simp] theorem State.cntDbg_dev (s : State) (off n : Nat) : (s.cntDbg off n).dev = s.dev := rfl
@[simp] theorem State.cntDbg_mram (s : State) (off n : Nat) : (s.cntDbg off n).mram = s.mram := rfl
@[simp] theorem State.cntDbg_flash (s : State) (off n : Nat) : (s.cntDbg off n).flash = s.flash := rfl
@[simp] theorem State.cntDbg_plan (s : State) (off n : Nat) : (s.cntDbg off n).plan = s.plan := rfl
@[simp] theorem State.cntDbg_host (s : State) (off n : Nat) : (s.cntDbg off n).host = s.host := rfl
@[simp] theorem State.cntDbg_mgt (s : State) (off n : Nat) : (s.cntDbg off n).mgt = s.mgt := rfl
@[simp] theorem State.cntDbg_regs (s : State) (off n : Nat) : (s.cntDbg off n).regs = s.regs := rfl
@[simp] theorem State.cntDbg_latches (s : State) (off n : Nat) : (s.cntDbg off n).latches = s.latches := rfl
@[simp] theorem State.cntDbg_rings (s : State) (off n : Nat) : (s.cntDbg off n).rings = s.rings := rfl
@[simp] theorem State.cntDbg_inflight (s : State) (off n : Nat) : (s.cntDbg off n).inflight = s.inflight := rfl
@[simp] theorem State.cntDbg_dcClock (s : State) (off n : Nat) : (s.cntDbg off n).dcClock = s.dcClock := rfl
@[simp] theorem State.cntDbg_jobs (s : State) (off n : Nat) : (s.cntDbg off n).jobs = s.jobs := rfl
@[simp] theorem State.cntDbg_tiles (s : State) (off n : Nat) : (s.cntDbg off n).tiles = s.tiles := rfl
@[simp] theorem State.cntDbg_sole (s : State) (off n : Nat) : (s.cntDbg off n).sole = s.sole := rfl
@[simp] theorem State.cntDbg_hbm (s : State) (off n : Nat) : (s.cntDbg off n).hbm = s.hbm := rfl
@[simp] theorem State.cntDbg_welt (s : State) (off n : Nat) : (s.cntDbg off n).welt = s.welt := rfl
@[simp] theorem State.cntDbg_seq (s : State) (off n : Nat) : (s.cntDbg off n).seq = s.seq := rfl
@[simp] theorem State.cntDbg_qos (s : State) (off n : Nat) : (s.cntDbg off n).qos = s.qos := rfl
@[simp] theorem State.cntDbg_fabric (s : State) (off n : Nat) : (s.cntDbg off n).fabric = s.fabric := rfl
@[simp] theorem State.cntDbg_cvus (s : State) (off n : Nat) : (s.cntDbg off n).cvus = s.cvus := rfl
@[simp] theorem State.cntDbg_pwr (s : State) (off n : Nat) : (s.cntDbg off n).pwr = s.pwr := rfl
@[simp] theorem State.cntDbg_thm (s : State) (off n : Nat) : (s.cntDbg off n).thm = s.thm := rfl
@[simp] theorem State.cntTile_pending (s : State) (t off n : Nat) : (s.cntTile t off n).pending = s.pending := rfl
@[simp] theorem State.cntTile_aon (s : State) (t off n : Nat) : (s.cntTile t off n).aon = s.aon := rfl
@[simp] theorem State.cntTile_draws (s : State) (t off n : Nat) : (s.cntTile t off n).draws = s.draws := rfl
@[simp] theorem State.cntTile_part (s : State) (t off n : Nat) : (s.cntTile t off n).part = s.part := rfl
@[simp] theorem State.cntTile_dev (s : State) (t off n : Nat) : (s.cntTile t off n).dev = s.dev := rfl
@[simp] theorem State.cntTile_mram (s : State) (t off n : Nat) : (s.cntTile t off n).mram = s.mram := rfl
@[simp] theorem State.cntTile_flash (s : State) (t off n : Nat) : (s.cntTile t off n).flash = s.flash := rfl
@[simp] theorem State.cntTile_plan (s : State) (t off n : Nat) : (s.cntTile t off n).plan = s.plan := rfl
@[simp] theorem State.cntTile_host (s : State) (t off n : Nat) : (s.cntTile t off n).host = s.host := rfl
@[simp] theorem State.cntTile_mgt (s : State) (t off n : Nat) : (s.cntTile t off n).mgt = s.mgt := rfl
@[simp] theorem State.cntTile_regs (s : State) (t off n : Nat) : (s.cntTile t off n).regs = s.regs := rfl
@[simp] theorem State.cntTile_latches (s : State) (t off n : Nat) : (s.cntTile t off n).latches = s.latches := rfl
@[simp] theorem State.cntTile_rings (s : State) (t off n : Nat) : (s.cntTile t off n).rings = s.rings := rfl
@[simp] theorem State.cntTile_inflight (s : State) (t off n : Nat) : (s.cntTile t off n).inflight = s.inflight := rfl
@[simp] theorem State.cntTile_dcClock (s : State) (t off n : Nat) : (s.cntTile t off n).dcClock = s.dcClock := rfl
@[simp] theorem State.cntTile_jobs (s : State) (t off n : Nat) : (s.cntTile t off n).jobs = s.jobs := rfl
@[simp] theorem State.cntTile_sole (s : State) (t off n : Nat) : (s.cntTile t off n).sole = s.sole := rfl
@[simp] theorem State.cntTile_hbm (s : State) (t off n : Nat) : (s.cntTile t off n).hbm = s.hbm := rfl
@[simp] theorem State.cntTile_welt (s : State) (t off n : Nat) : (s.cntTile t off n).welt = s.welt := rfl
@[simp] theorem State.cntTile_seq (s : State) (t off n : Nat) : (s.cntTile t off n).seq = s.seq := rfl
@[simp] theorem State.cntTile_qos (s : State) (t off n : Nat) : (s.cntTile t off n).qos = s.qos := rfl
@[simp] theorem State.cntTile_fabric (s : State) (t off n : Nat) : (s.cntTile t off n).fabric = s.fabric := rfl
@[simp] theorem State.cntTile_cvus (s : State) (t off n : Nat) : (s.cntTile t off n).cvus = s.cvus := rfl
@[simp] theorem State.cntTile_pwr (s : State) (t off n : Nat) : (s.cntTile t off n).pwr = s.pwr := rfl
@[simp] theorem State.cntTile_thm (s : State) (t off n : Nat) : (s.cntTile t off n).thm = s.thm := rfl
@[simp] theorem State.cntTile_sec (s : State) (t off n : Nat) : (s.cntTile t off n).sec = s.sec := rfl
@[simp] theorem State.cntPort_pending (s : State) (p off n : Nat) : (s.cntPort p off n).pending = s.pending := rfl
@[simp] theorem State.cntPort_aon (s : State) (p off n : Nat) : (s.cntPort p off n).aon = s.aon := rfl
@[simp] theorem State.cntPort_draws (s : State) (p off n : Nat) : (s.cntPort p off n).draws = s.draws := rfl
@[simp] theorem State.cntPort_part (s : State) (p off n : Nat) : (s.cntPort p off n).part = s.part := rfl
@[simp] theorem State.cntPort_dev (s : State) (p off n : Nat) : (s.cntPort p off n).dev = s.dev := rfl
@[simp] theorem State.cntPort_mram (s : State) (p off n : Nat) : (s.cntPort p off n).mram = s.mram := rfl
@[simp] theorem State.cntPort_flash (s : State) (p off n : Nat) : (s.cntPort p off n).flash = s.flash := rfl
@[simp] theorem State.cntPort_plan (s : State) (p off n : Nat) : (s.cntPort p off n).plan = s.plan := rfl
@[simp] theorem State.cntPort_host (s : State) (p off n : Nat) : (s.cntPort p off n).host = s.host := rfl
@[simp] theorem State.cntPort_mgt (s : State) (p off n : Nat) : (s.cntPort p off n).mgt = s.mgt := rfl
@[simp] theorem State.cntPort_regs (s : State) (p off n : Nat) : (s.cntPort p off n).regs = s.regs := rfl
@[simp] theorem State.cntPort_latches (s : State) (p off n : Nat) : (s.cntPort p off n).latches = s.latches := rfl
@[simp] theorem State.cntPort_rings (s : State) (p off n : Nat) : (s.cntPort p off n).rings = s.rings := rfl
@[simp] theorem State.cntPort_inflight (s : State) (p off n : Nat) : (s.cntPort p off n).inflight = s.inflight := rfl
@[simp] theorem State.cntPort_dcClock (s : State) (p off n : Nat) : (s.cntPort p off n).dcClock = s.dcClock := rfl
@[simp] theorem State.cntPort_jobs (s : State) (p off n : Nat) : (s.cntPort p off n).jobs = s.jobs := rfl
@[simp] theorem State.cntPort_tiles (s : State) (p off n : Nat) : (s.cntPort p off n).tiles = s.tiles := rfl
@[simp] theorem State.cntPort_sole (s : State) (p off n : Nat) : (s.cntPort p off n).sole = s.sole := rfl
@[simp] theorem State.cntPort_hbm (s : State) (p off n : Nat) : (s.cntPort p off n).hbm = s.hbm := rfl
@[simp] theorem State.cntPort_welt (s : State) (p off n : Nat) : (s.cntPort p off n).welt = s.welt := rfl
@[simp] theorem State.cntPort_seq (s : State) (p off n : Nat) : (s.cntPort p off n).seq = s.seq := rfl
@[simp] theorem State.cntPort_qos (s : State) (p off n : Nat) : (s.cntPort p off n).qos = s.qos := rfl
@[simp] theorem State.cntPort_cvus (s : State) (p off n : Nat) : (s.cntPort p off n).cvus = s.cvus := rfl
@[simp] theorem State.cntPort_pwr (s : State) (p off n : Nat) : (s.cntPort p off n).pwr = s.pwr := rfl
@[simp] theorem State.cntPort_thm (s : State) (p off n : Nat) : (s.cntPort p off n).thm = s.thm := rfl
@[simp] theorem State.cntPort_sec (s : State) (p off n : Nat) : (s.cntPort p off n).sec = s.sec := rfl
@[simp] theorem State.cntChan_pending (s : State) (c off n : Nat) : (s.cntChan c off n).pending = s.pending := rfl
@[simp] theorem State.cntChan_aon (s : State) (c off n : Nat) : (s.cntChan c off n).aon = s.aon := rfl
@[simp] theorem State.cntChan_draws (s : State) (c off n : Nat) : (s.cntChan c off n).draws = s.draws := rfl
@[simp] theorem State.cntChan_part (s : State) (c off n : Nat) : (s.cntChan c off n).part = s.part := rfl
@[simp] theorem State.cntChan_dev (s : State) (c off n : Nat) : (s.cntChan c off n).dev = s.dev := rfl
@[simp] theorem State.cntChan_mram (s : State) (c off n : Nat) : (s.cntChan c off n).mram = s.mram := rfl
@[simp] theorem State.cntChan_flash (s : State) (c off n : Nat) : (s.cntChan c off n).flash = s.flash := rfl
@[simp] theorem State.cntChan_plan (s : State) (c off n : Nat) : (s.cntChan c off n).plan = s.plan := rfl
@[simp] theorem State.cntChan_host (s : State) (c off n : Nat) : (s.cntChan c off n).host = s.host := rfl
@[simp] theorem State.cntChan_mgt (s : State) (c off n : Nat) : (s.cntChan c off n).mgt = s.mgt := rfl
@[simp] theorem State.cntChan_regs (s : State) (c off n : Nat) : (s.cntChan c off n).regs = s.regs := rfl
@[simp] theorem State.cntChan_latches (s : State) (c off n : Nat) : (s.cntChan c off n).latches = s.latches := rfl
@[simp] theorem State.cntChan_rings (s : State) (c off n : Nat) : (s.cntChan c off n).rings = s.rings := rfl
@[simp] theorem State.cntChan_inflight (s : State) (c off n : Nat) : (s.cntChan c off n).inflight = s.inflight := rfl
@[simp] theorem State.cntChan_dcClock (s : State) (c off n : Nat) : (s.cntChan c off n).dcClock = s.dcClock := rfl
@[simp] theorem State.cntChan_jobs (s : State) (c off n : Nat) : (s.cntChan c off n).jobs = s.jobs := rfl
@[simp] theorem State.cntChan_tiles (s : State) (c off n : Nat) : (s.cntChan c off n).tiles = s.tiles := rfl
@[simp] theorem State.cntChan_sole (s : State) (c off n : Nat) : (s.cntChan c off n).sole = s.sole := rfl
@[simp] theorem State.cntChan_hbm (s : State) (c off n : Nat) : (s.cntChan c off n).hbm = s.hbm := rfl
@[simp] theorem State.cntChan_seq (s : State) (c off n : Nat) : (s.cntChan c off n).seq = s.seq := rfl
@[simp] theorem State.cntChan_qos (s : State) (c off n : Nat) : (s.cntChan c off n).qos = s.qos := rfl
@[simp] theorem State.cntChan_fabric (s : State) (c off n : Nat) : (s.cntChan c off n).fabric = s.fabric := rfl
@[simp] theorem State.cntChan_cvus (s : State) (c off n : Nat) : (s.cntChan c off n).cvus = s.cvus := rfl
@[simp] theorem State.cntChan_pwr (s : State) (c off n : Nat) : (s.cntChan c off n).pwr = s.pwr := rfl
@[simp] theorem State.cntChan_thm (s : State) (c off n : Nat) : (s.cntChan c off n).thm = s.thm := rfl
@[simp] theorem State.cntChan_sec (s : State) (c off n : Nat) : (s.cntChan c off n).sec = s.sec := rfl
@[simp] theorem State.setReg_pending (s : State) (key dflt : Nat) (v : Word) : (s.setReg key dflt v).pending = s.pending := rfl
@[simp] theorem State.setReg_aon (s : State) (key dflt : Nat) (v : Word) : (s.setReg key dflt v).aon = s.aon := rfl
@[simp] theorem State.setReg_draws (s : State) (key dflt : Nat) (v : Word) : (s.setReg key dflt v).draws = s.draws := rfl
@[simp] theorem State.setReg_part (s : State) (key dflt : Nat) (v : Word) : (s.setReg key dflt v).part = s.part := rfl
@[simp] theorem State.setReg_dev (s : State) (key dflt : Nat) (v : Word) : (s.setReg key dflt v).dev = s.dev := rfl
@[simp] theorem State.setReg_mram (s : State) (key dflt : Nat) (v : Word) : (s.setReg key dflt v).mram = s.mram := rfl
@[simp] theorem State.setReg_flash (s : State) (key dflt : Nat) (v : Word) : (s.setReg key dflt v).flash = s.flash := rfl
@[simp] theorem State.setReg_plan (s : State) (key dflt : Nat) (v : Word) : (s.setReg key dflt v).plan = s.plan := rfl
@[simp] theorem State.setReg_host (s : State) (key dflt : Nat) (v : Word) : (s.setReg key dflt v).host = s.host := rfl
@[simp] theorem State.setReg_mgt (s : State) (key dflt : Nat) (v : Word) : (s.setReg key dflt v).mgt = s.mgt := rfl
@[simp] theorem State.setReg_latches (s : State) (key dflt : Nat) (v : Word) : (s.setReg key dflt v).latches = s.latches := rfl
@[simp] theorem State.setReg_rings (s : State) (key dflt : Nat) (v : Word) : (s.setReg key dflt v).rings = s.rings := rfl
@[simp] theorem State.setReg_inflight (s : State) (key dflt : Nat) (v : Word) : (s.setReg key dflt v).inflight = s.inflight := rfl
@[simp] theorem State.setReg_dcClock (s : State) (key dflt : Nat) (v : Word) : (s.setReg key dflt v).dcClock = s.dcClock := rfl
@[simp] theorem State.setReg_jobs (s : State) (key dflt : Nat) (v : Word) : (s.setReg key dflt v).jobs = s.jobs := rfl
@[simp] theorem State.setReg_tiles (s : State) (key dflt : Nat) (v : Word) : (s.setReg key dflt v).tiles = s.tiles := rfl
@[simp] theorem State.setReg_sole (s : State) (key dflt : Nat) (v : Word) : (s.setReg key dflt v).sole = s.sole := rfl
@[simp] theorem State.setReg_hbm (s : State) (key dflt : Nat) (v : Word) : (s.setReg key dflt v).hbm = s.hbm := rfl
@[simp] theorem State.setReg_welt (s : State) (key dflt : Nat) (v : Word) : (s.setReg key dflt v).welt = s.welt := rfl
@[simp] theorem State.setReg_seq (s : State) (key dflt : Nat) (v : Word) : (s.setReg key dflt v).seq = s.seq := rfl
@[simp] theorem State.setReg_qos (s : State) (key dflt : Nat) (v : Word) : (s.setReg key dflt v).qos = s.qos := rfl
@[simp] theorem State.setReg_fabric (s : State) (key dflt : Nat) (v : Word) : (s.setReg key dflt v).fabric = s.fabric := rfl
@[simp] theorem State.setReg_cvus (s : State) (key dflt : Nat) (v : Word) : (s.setReg key dflt v).cvus = s.cvus := rfl
@[simp] theorem State.setReg_pwr (s : State) (key dflt : Nat) (v : Word) : (s.setReg key dflt v).pwr = s.pwr := rfl
@[simp] theorem State.setReg_thm (s : State) (key dflt : Nat) (v : Word) : (s.setReg key dflt v).thm = s.thm := rfl
@[simp] theorem State.setReg_sec (s : State) (key dflt : Nat) (v : Word) : (s.setReg key dflt v).sec = s.sec := rfl
@[simp] theorem State.setDefects_pending (s : State) (d : Defects) : (s.setDefects d).pending = s.pending := rfl
@[simp] theorem State.setDefects_aon (s : State) (d : Defects) : (s.setDefects d).aon = s.aon := rfl
@[simp] theorem State.setDefects_draws (s : State) (d : Defects) : (s.setDefects d).draws = s.draws := rfl
@[simp] theorem State.setDefects_part (s : State) (d : Defects) : (s.setDefects d).part = s.part := rfl
@[simp] theorem State.setDefects_dev (s : State) (d : Defects) : (s.setDefects d).dev = s.dev := rfl
@[simp] theorem State.setDefects_flash (s : State) (d : Defects) : (s.setDefects d).flash = s.flash := rfl
@[simp] theorem State.setDefects_plan (s : State) (d : Defects) : (s.setDefects d).plan = s.plan := rfl
@[simp] theorem State.setDefects_host (s : State) (d : Defects) : (s.setDefects d).host = s.host := rfl
@[simp] theorem State.setDefects_mgt (s : State) (d : Defects) : (s.setDefects d).mgt = s.mgt := rfl
@[simp] theorem State.setDefects_regs (s : State) (d : Defects) : (s.setDefects d).regs = s.regs := rfl
@[simp] theorem State.setDefects_latches (s : State) (d : Defects) : (s.setDefects d).latches = s.latches := rfl
@[simp] theorem State.setDefects_rings (s : State) (d : Defects) : (s.setDefects d).rings = s.rings := rfl
@[simp] theorem State.setDefects_inflight (s : State) (d : Defects) : (s.setDefects d).inflight = s.inflight := rfl
@[simp] theorem State.setDefects_dcClock (s : State) (d : Defects) : (s.setDefects d).dcClock = s.dcClock := rfl
@[simp] theorem State.setDefects_jobs (s : State) (d : Defects) : (s.setDefects d).jobs = s.jobs := rfl
@[simp] theorem State.setDefects_tiles (s : State) (d : Defects) : (s.setDefects d).tiles = s.tiles := rfl
@[simp] theorem State.setDefects_sole (s : State) (d : Defects) : (s.setDefects d).sole = s.sole := rfl
@[simp] theorem State.setDefects_hbm (s : State) (d : Defects) : (s.setDefects d).hbm = s.hbm := rfl
@[simp] theorem State.setDefects_welt (s : State) (d : Defects) : (s.setDefects d).welt = s.welt := rfl
@[simp] theorem State.setDefects_seq (s : State) (d : Defects) : (s.setDefects d).seq = s.seq := rfl
@[simp] theorem State.setDefects_qos (s : State) (d : Defects) : (s.setDefects d).qos = s.qos := rfl
@[simp] theorem State.setDefects_fabric (s : State) (d : Defects) : (s.setDefects d).fabric = s.fabric := rfl
@[simp] theorem State.setDefects_cvus (s : State) (d : Defects) : (s.setDefects d).cvus = s.cvus := rfl
@[simp] theorem State.setDefects_pwr (s : State) (d : Defects) : (s.setDefects d).pwr = s.pwr := rfl
@[simp] theorem State.setDefects_thm (s : State) (d : Defects) : (s.setDefects d).thm = s.thm := rfl
@[simp] theorem State.setDefects_sec (s : State) (d : Defects) : (s.setDefects d).sec = s.sec := rfl
@[simp] theorem State.setGroup_pending (s : State) (t key : Nat) (v : Group) : (s.setGroup t key v).pending = s.pending := rfl
@[simp] theorem State.setGroup_aon (s : State) (t key : Nat) (v : Group) : (s.setGroup t key v).aon = s.aon := rfl
@[simp] theorem State.setGroup_draws (s : State) (t key : Nat) (v : Group) : (s.setGroup t key v).draws = s.draws := rfl
@[simp] theorem State.setGroup_part (s : State) (t key : Nat) (v : Group) : (s.setGroup t key v).part = s.part := rfl
@[simp] theorem State.setGroup_dev (s : State) (t key : Nat) (v : Group) : (s.setGroup t key v).dev = s.dev := rfl
@[simp] theorem State.setGroup_mram (s : State) (t key : Nat) (v : Group) : (s.setGroup t key v).mram = s.mram := rfl
@[simp] theorem State.setGroup_flash (s : State) (t key : Nat) (v : Group) : (s.setGroup t key v).flash = s.flash := rfl
@[simp] theorem State.setGroup_plan (s : State) (t key : Nat) (v : Group) : (s.setGroup t key v).plan = s.plan := rfl
@[simp] theorem State.setGroup_host (s : State) (t key : Nat) (v : Group) : (s.setGroup t key v).host = s.host := rfl
@[simp] theorem State.setGroup_mgt (s : State) (t key : Nat) (v : Group) : (s.setGroup t key v).mgt = s.mgt := rfl
@[simp] theorem State.setGroup_regs (s : State) (t key : Nat) (v : Group) : (s.setGroup t key v).regs = s.regs := rfl
@[simp] theorem State.setGroup_latches (s : State) (t key : Nat) (v : Group) : (s.setGroup t key v).latches = s.latches := rfl
@[simp] theorem State.setGroup_rings (s : State) (t key : Nat) (v : Group) : (s.setGroup t key v).rings = s.rings := rfl
@[simp] theorem State.setGroup_inflight (s : State) (t key : Nat) (v : Group) : (s.setGroup t key v).inflight = s.inflight := rfl
@[simp] theorem State.setGroup_dcClock (s : State) (t key : Nat) (v : Group) : (s.setGroup t key v).dcClock = s.dcClock := rfl
@[simp] theorem State.setGroup_jobs (s : State) (t key : Nat) (v : Group) : (s.setGroup t key v).jobs = s.jobs := rfl
@[simp] theorem State.setGroup_sole (s : State) (t key : Nat) (v : Group) : (s.setGroup t key v).sole = s.sole := rfl
@[simp] theorem State.setGroup_hbm (s : State) (t key : Nat) (v : Group) : (s.setGroup t key v).hbm = s.hbm := rfl
@[simp] theorem State.setGroup_welt (s : State) (t key : Nat) (v : Group) : (s.setGroup t key v).welt = s.welt := rfl
@[simp] theorem State.setGroup_seq (s : State) (t key : Nat) (v : Group) : (s.setGroup t key v).seq = s.seq := rfl
@[simp] theorem State.setGroup_qos (s : State) (t key : Nat) (v : Group) : (s.setGroup t key v).qos = s.qos := rfl
@[simp] theorem State.setGroup_fabric (s : State) (t key : Nat) (v : Group) : (s.setGroup t key v).fabric = s.fabric := rfl
@[simp] theorem State.setGroup_cvus (s : State) (t key : Nat) (v : Group) : (s.setGroup t key v).cvus = s.cvus := rfl
@[simp] theorem State.setGroup_pwr (s : State) (t key : Nat) (v : Group) : (s.setGroup t key v).pwr = s.pwr := rfl
@[simp] theorem State.setGroup_thm (s : State) (t key : Nat) (v : Group) : (s.setGroup t key v).thm = s.thm := rfl
@[simp] theorem State.setGroup_sec (s : State) (t key : Nat) (v : Group) : (s.setGroup t key v).sec = s.sec := rfl
@[simp] theorem State.extendMr_pending (s : State) (n : Nat) (d : List Byte) : (s.extendMr n d).pending = s.pending := rfl
@[simp] theorem State.extendMr_aon (s : State) (n : Nat) (d : List Byte) : (s.extendMr n d).aon = s.aon := rfl
@[simp] theorem State.extendMr_draws (s : State) (n : Nat) (d : List Byte) : (s.extendMr n d).draws = s.draws := rfl
@[simp] theorem State.extendMr_part (s : State) (n : Nat) (d : List Byte) : (s.extendMr n d).part = s.part := rfl
@[simp] theorem State.extendMr_dev (s : State) (n : Nat) (d : List Byte) : (s.extendMr n d).dev = s.dev := rfl
@[simp] theorem State.extendMr_mram (s : State) (n : Nat) (d : List Byte) : (s.extendMr n d).mram = s.mram := rfl
@[simp] theorem State.extendMr_flash (s : State) (n : Nat) (d : List Byte) : (s.extendMr n d).flash = s.flash := rfl
@[simp] theorem State.extendMr_plan (s : State) (n : Nat) (d : List Byte) : (s.extendMr n d).plan = s.plan := rfl
@[simp] theorem State.extendMr_host (s : State) (n : Nat) (d : List Byte) : (s.extendMr n d).host = s.host := rfl
@[simp] theorem State.extendMr_mgt (s : State) (n : Nat) (d : List Byte) : (s.extendMr n d).mgt = s.mgt := rfl
@[simp] theorem State.extendMr_regs (s : State) (n : Nat) (d : List Byte) : (s.extendMr n d).regs = s.regs := rfl
@[simp] theorem State.extendMr_latches (s : State) (n : Nat) (d : List Byte) : (s.extendMr n d).latches = s.latches := rfl
@[simp] theorem State.extendMr_rings (s : State) (n : Nat) (d : List Byte) : (s.extendMr n d).rings = s.rings := rfl
@[simp] theorem State.extendMr_inflight (s : State) (n : Nat) (d : List Byte) : (s.extendMr n d).inflight = s.inflight := rfl
@[simp] theorem State.extendMr_dcClock (s : State) (n : Nat) (d : List Byte) : (s.extendMr n d).dcClock = s.dcClock := rfl
@[simp] theorem State.extendMr_jobs (s : State) (n : Nat) (d : List Byte) : (s.extendMr n d).jobs = s.jobs := rfl
@[simp] theorem State.extendMr_tiles (s : State) (n : Nat) (d : List Byte) : (s.extendMr n d).tiles = s.tiles := rfl
@[simp] theorem State.extendMr_sole (s : State) (n : Nat) (d : List Byte) : (s.extendMr n d).sole = s.sole := rfl
@[simp] theorem State.extendMr_hbm (s : State) (n : Nat) (d : List Byte) : (s.extendMr n d).hbm = s.hbm := rfl
@[simp] theorem State.extendMr_welt (s : State) (n : Nat) (d : List Byte) : (s.extendMr n d).welt = s.welt := rfl
@[simp] theorem State.extendMr_seq (s : State) (n : Nat) (d : List Byte) : (s.extendMr n d).seq = s.seq := rfl
@[simp] theorem State.extendMr_qos (s : State) (n : Nat) (d : List Byte) : (s.extendMr n d).qos = s.qos := rfl
@[simp] theorem State.extendMr_fabric (s : State) (n : Nat) (d : List Byte) : (s.extendMr n d).fabric = s.fabric := rfl
@[simp] theorem State.extendMr_cvus (s : State) (n : Nat) (d : List Byte) : (s.extendMr n d).cvus = s.cvus := rfl
@[simp] theorem State.extendMr_pwr (s : State) (n : Nat) (d : List Byte) : (s.extendMr n d).pwr = s.pwr := rfl
@[simp] theorem State.extendMr_thm (s : State) (n : Nat) (d : List Byte) : (s.extendMr n d).thm = s.thm := rfl
@[simp] theorem State.clearMr_pending (s : State) (n : Nat) : (s.clearMr n).pending = s.pending := rfl
@[simp] theorem State.clearMr_aon (s : State) (n : Nat) : (s.clearMr n).aon = s.aon := rfl
@[simp] theorem State.clearMr_draws (s : State) (n : Nat) : (s.clearMr n).draws = s.draws := rfl
@[simp] theorem State.clearMr_part (s : State) (n : Nat) : (s.clearMr n).part = s.part := rfl
@[simp] theorem State.clearMr_dev (s : State) (n : Nat) : (s.clearMr n).dev = s.dev := rfl
@[simp] theorem State.clearMr_mram (s : State) (n : Nat) : (s.clearMr n).mram = s.mram := rfl
@[simp] theorem State.clearMr_flash (s : State) (n : Nat) : (s.clearMr n).flash = s.flash := rfl
@[simp] theorem State.clearMr_plan (s : State) (n : Nat) : (s.clearMr n).plan = s.plan := rfl
@[simp] theorem State.clearMr_host (s : State) (n : Nat) : (s.clearMr n).host = s.host := rfl
@[simp] theorem State.clearMr_mgt (s : State) (n : Nat) : (s.clearMr n).mgt = s.mgt := rfl
@[simp] theorem State.clearMr_regs (s : State) (n : Nat) : (s.clearMr n).regs = s.regs := rfl
@[simp] theorem State.clearMr_latches (s : State) (n : Nat) : (s.clearMr n).latches = s.latches := rfl
@[simp] theorem State.clearMr_rings (s : State) (n : Nat) : (s.clearMr n).rings = s.rings := rfl
@[simp] theorem State.clearMr_inflight (s : State) (n : Nat) : (s.clearMr n).inflight = s.inflight := rfl
@[simp] theorem State.clearMr_dcClock (s : State) (n : Nat) : (s.clearMr n).dcClock = s.dcClock := rfl
@[simp] theorem State.clearMr_jobs (s : State) (n : Nat) : (s.clearMr n).jobs = s.jobs := rfl
@[simp] theorem State.clearMr_tiles (s : State) (n : Nat) : (s.clearMr n).tiles = s.tiles := rfl
@[simp] theorem State.clearMr_sole (s : State) (n : Nat) : (s.clearMr n).sole = s.sole := rfl
@[simp] theorem State.clearMr_hbm (s : State) (n : Nat) : (s.clearMr n).hbm = s.hbm := rfl
@[simp] theorem State.clearMr_welt (s : State) (n : Nat) : (s.clearMr n).welt = s.welt := rfl
@[simp] theorem State.clearMr_seq (s : State) (n : Nat) : (s.clearMr n).seq = s.seq := rfl
@[simp] theorem State.clearMr_qos (s : State) (n : Nat) : (s.clearMr n).qos = s.qos := rfl
@[simp] theorem State.clearMr_fabric (s : State) (n : Nat) : (s.clearMr n).fabric = s.fabric := rfl
@[simp] theorem State.clearMr_cvus (s : State) (n : Nat) : (s.clearMr n).cvus = s.cvus := rfl
@[simp] theorem State.clearMr_pwr (s : State) (n : Nat) : (s.clearMr n).pwr = s.pwr := rfl
@[simp] theorem State.clearMr_thm (s : State) (n : Nat) : (s.clearMr n).thm = s.thm := rfl
@[simp] theorem State.hostError_pending (s : State) : (s.hostError).pending = s.pending := rfl
@[simp] theorem State.hostError_aon (s : State) : (s.hostError).aon = s.aon := rfl
@[simp] theorem State.hostError_draws (s : State) : (s.hostError).draws = s.draws := rfl
@[simp] theorem State.hostError_part (s : State) : (s.hostError).part = s.part := rfl
@[simp] theorem State.hostError_dev (s : State) : (s.hostError).dev = s.dev := rfl
@[simp] theorem State.hostError_mram (s : State) : (s.hostError).mram = s.mram := rfl
@[simp] theorem State.hostError_flash (s : State) : (s.hostError).flash = s.flash := rfl
@[simp] theorem State.hostError_plan (s : State) : (s.hostError).plan = s.plan := rfl
@[simp] theorem State.hostError_host (s : State) : (s.hostError).host = s.host := rfl
@[simp] theorem State.hostError_regs (s : State) : (s.hostError).regs = s.regs := rfl
@[simp] theorem State.hostError_latches (s : State) : (s.hostError).latches = s.latches := rfl
@[simp] theorem State.hostError_rings (s : State) : (s.hostError).rings = s.rings := rfl
@[simp] theorem State.hostError_inflight (s : State) : (s.hostError).inflight = s.inflight := rfl
@[simp] theorem State.hostError_dcClock (s : State) : (s.hostError).dcClock = s.dcClock := rfl
@[simp] theorem State.hostError_jobs (s : State) : (s.hostError).jobs = s.jobs := rfl
@[simp] theorem State.hostError_tiles (s : State) : (s.hostError).tiles = s.tiles := rfl
@[simp] theorem State.hostError_sole (s : State) : (s.hostError).sole = s.sole := rfl
@[simp] theorem State.hostError_hbm (s : State) : (s.hostError).hbm = s.hbm := rfl
@[simp] theorem State.hostError_welt (s : State) : (s.hostError).welt = s.welt := rfl
@[simp] theorem State.hostError_seq (s : State) : (s.hostError).seq = s.seq := rfl
@[simp] theorem State.hostError_qos (s : State) : (s.hostError).qos = s.qos := rfl
@[simp] theorem State.hostError_fabric (s : State) : (s.hostError).fabric = s.fabric := rfl
@[simp] theorem State.hostError_cvus (s : State) : (s.hostError).cvus = s.cvus := rfl
@[simp] theorem State.hostError_pwr (s : State) : (s.hostError).pwr = s.pwr := rfl
@[simp] theorem State.hostError_thm (s : State) : (s.hostError).thm = s.thm := rfl
@[simp] theorem State.hostError_sec (s : State) : (s.hostError).sec = s.sec := rfl
@[simp] theorem State.hostWrite_pending (s : State) (a : Nat) (bs : List Byte) : (s.hostWrite a bs).pending = s.pending := rfl
@[simp] theorem State.hostWrite_aon (s : State) (a : Nat) (bs : List Byte) : (s.hostWrite a bs).aon = s.aon := rfl
@[simp] theorem State.hostWrite_draws (s : State) (a : Nat) (bs : List Byte) : (s.hostWrite a bs).draws = s.draws := rfl
@[simp] theorem State.hostWrite_part (s : State) (a : Nat) (bs : List Byte) : (s.hostWrite a bs).part = s.part := rfl
@[simp] theorem State.hostWrite_dev (s : State) (a : Nat) (bs : List Byte) : (s.hostWrite a bs).dev = s.dev := rfl
@[simp] theorem State.hostWrite_mram (s : State) (a : Nat) (bs : List Byte) : (s.hostWrite a bs).mram = s.mram := rfl
@[simp] theorem State.hostWrite_flash (s : State) (a : Nat) (bs : List Byte) : (s.hostWrite a bs).flash = s.flash := rfl
@[simp] theorem State.hostWrite_plan (s : State) (a : Nat) (bs : List Byte) : (s.hostWrite a bs).plan = s.plan := rfl
@[simp] theorem State.hostWrite_mgt (s : State) (a : Nat) (bs : List Byte) : (s.hostWrite a bs).mgt = s.mgt := rfl
@[simp] theorem State.hostWrite_regs (s : State) (a : Nat) (bs : List Byte) : (s.hostWrite a bs).regs = s.regs := rfl
@[simp] theorem State.hostWrite_latches (s : State) (a : Nat) (bs : List Byte) : (s.hostWrite a bs).latches = s.latches := rfl
@[simp] theorem State.hostWrite_rings (s : State) (a : Nat) (bs : List Byte) : (s.hostWrite a bs).rings = s.rings := rfl
@[simp] theorem State.hostWrite_inflight (s : State) (a : Nat) (bs : List Byte) : (s.hostWrite a bs).inflight = s.inflight := rfl
@[simp] theorem State.hostWrite_dcClock (s : State) (a : Nat) (bs : List Byte) : (s.hostWrite a bs).dcClock = s.dcClock := rfl
@[simp] theorem State.hostWrite_jobs (s : State) (a : Nat) (bs : List Byte) : (s.hostWrite a bs).jobs = s.jobs := rfl
@[simp] theorem State.hostWrite_tiles (s : State) (a : Nat) (bs : List Byte) : (s.hostWrite a bs).tiles = s.tiles := rfl
@[simp] theorem State.hostWrite_sole (s : State) (a : Nat) (bs : List Byte) : (s.hostWrite a bs).sole = s.sole := rfl
@[simp] theorem State.hostWrite_hbm (s : State) (a : Nat) (bs : List Byte) : (s.hostWrite a bs).hbm = s.hbm := rfl
@[simp] theorem State.hostWrite_welt (s : State) (a : Nat) (bs : List Byte) : (s.hostWrite a bs).welt = s.welt := rfl
@[simp] theorem State.hostWrite_seq (s : State) (a : Nat) (bs : List Byte) : (s.hostWrite a bs).seq = s.seq := rfl
@[simp] theorem State.hostWrite_qos (s : State) (a : Nat) (bs : List Byte) : (s.hostWrite a bs).qos = s.qos := rfl
@[simp] theorem State.hostWrite_fabric (s : State) (a : Nat) (bs : List Byte) : (s.hostWrite a bs).fabric = s.fabric := rfl
@[simp] theorem State.hostWrite_cvus (s : State) (a : Nat) (bs : List Byte) : (s.hostWrite a bs).cvus = s.cvus := rfl
@[simp] theorem State.hostWrite_pwr (s : State) (a : Nat) (bs : List Byte) : (s.hostWrite a bs).pwr = s.pwr := rfl
@[simp] theorem State.hostWrite_thm (s : State) (a : Nat) (bs : List Byte) : (s.hostWrite a bs).thm = s.thm := rfl
@[simp] theorem State.hostWrite_sec (s : State) (a : Nat) (bs : List Byte) : (s.hostWrite a bs).sec = s.sec := rfl

end Sys2Proof.Machine
end

