-- ==== Sys2Proof/Laws/Group.lean ====
section
/-! SUPPORT. Thread groups: registers and PCs after writes, the issue of an instruction, and what replacing the issuing group
changes. -/

namespace Sys2Proof.Machine

theorem Group.reg_setReg (g : Group) (l r k q : Nat) (v : Word) (hl : l < 32) (hk : k < 32) :
    (g.setReg l r v).reg k q = if k = l ∧ q = r then v else g.reg k q := by
  unfold Group.setReg Group.reg
  rw [smGet_smSet]
  by_cases h : k = l ∧ q = r
  · rw [if_pos h, if_pos (by rw [h.1, h.2])]
  · rw [if_neg h, if_neg (by omega)]

@[simp] theorem Group.pcOf_setReg (g : Group) (l r k : Nat) (v : Word) : (g.setReg l r v).pcOf k = g.pcOf k := rfl

theorem Group.pcOf_setPc (g : Group) (l k v : Nat) :
    (g.setPc l v).pcOf k = if k = l then v % 2 ^ 32 else g.pcOf k := by
  unfold Group.setPc Group.pcOf
  rw [smGet_smSet]
  split <;> simp [BitVec.toNat_ofNat]

@[simp] theorem Group.reg_setPc (g : Group) (l k q v : Nat) : (g.setPc l v).reg k q = g.reg k q := rfl

/-- One register of several threads. -/
theorem Group.reg_setLanes (g : Group) (r : Nat) (f : Nat → Word) (ls : List Nat) (k q : Nat)
    (hl : ∀ x ∈ ls, x < 32) (hk : k < 32) :
    (g.setLanes r f ls).reg k q = if k ∈ ls ∧ q = r then f k else g.reg k q := by
  unfold Group.setLanes
  induction ls generalizing g with
  | nil => simp
  | cons a ls ih =>
    rw [List.foldl_cons, ih _ (fun x hx => hl x (List.mem_cons_of_mem _ hx)),
      Group.reg_setReg _ _ _ _ _ _ (hl a (by simp)) hk]
    by_cases h1 : k ∈ ls ∧ q = r
    · simp [h1]
    · by_cases h2 : k = a ∧ q = r
      · simp [h2]
      · rw [if_neg h1, if_neg h2, if_neg]
        rintro ⟨hm, hq⟩
        rcases List.mem_cons.mp hm with rfl | hm
        · exact h2 ⟨rfl, hq⟩
        · exact h1 ⟨hm, hq⟩

/-- A fold that keeps a part of a group keeps it. -/
theorem Group.foldl_keeps {α β : Type} (q : Group → β) (f : Group → α → Group) (h : ∀ g a, q (f g a) = q g) (ls : List α)
    (g : Group) : q (ls.foldl f g) = q g := by
  induction ls generalizing g with
  | nil => rfl
  | cons a ls ih => rw [List.foldl_cons, ih, h]

@[simp] theorem Group.bare_setLanes (g : Group) (r : Nat) (f : Nat → Word) (ls : List Nat) :
    (g.setLanes r f ls).bare = g.bare :=
  Group.foldl_keeps Group.bare (fun g l => g.setReg l r (f l)) (fun _ _ => rfl) ls g

@[simp] theorem Group.pcOf_setLanes (g : Group) (r : Nat) (f : Nat → Word) (ls : List Nat) (k : Nat) :
    (g.setLanes r f ls).pcOf k = g.pcOf k :=
  Group.foldl_keeps (fun g => g.pcOf k) (fun g l => g.setReg l r (f l)) (fun _ _ => rfl) ls g

/-- Threads sent to their own PCs. -/
theorem Group.pcOf_foldl_setPc (g : Group) (f : Nat → Nat) (ls : List Nat) (k : Nat) :
    (ls.foldl (fun g l => g.setPc l (f l)) g).pcOf k = if k ∈ ls then f k % 2 ^ 32 else g.pcOf k := by
  induction ls generalizing g with
  | nil => simp
  | cons a ls ih =>
    rw [List.foldl_cons, ih, Group.pcOf_setPc]
    by_cases h1 : k ∈ ls
    · simp [h1]
    · by_cases h2 : k = a <;> simp [h1, h2]


theorem Group.pcOf_advance (g : Group) (pc : Nat) (ls : List Nat) (k : Nat) :
    (g.advance pc ls).pcOf k = if k ∈ ls then (pc + 8) % 2 ^ 32 else g.pcOf k :=
  Group.pcOf_foldl_setPc g (fun _ => pc + 8) ls k

@[simp] theorem Group.bare_advance (g : Group) (pc : Nat) (ls : List Nat) : (g.advance pc ls).bare = g.bare :=
  Group.foldl_keeps Group.bare (fun g l => g.setPc l (pc + 8)) (fun _ _ => rfl) ls g

@[simp] theorem Group.reg_advance (g : Group) (pc : Nat) (ls : List Nat) (k q : Nat) :
    (g.advance pc ls).reg k q = g.reg k q :=
  Group.foldl_keeps (fun g => g.reg k q) (fun g l => g.setPc l (pc + 8)) (fun _ _ => rfl) ls g

/-! ## Issues -/

theorem State.issueAt_some {s : State} {t p slot lane word : Nat} {regs : List Nat} {i : Issue}
    (h : s.issueAt t p slot lane word regs = some i) :
    i.t = t ∧ i.p = p ∧ i.slot = slot ∧ i.word = word ∧ s.groupAt t p slot = some i.grp ∧
      i.jobId = i.grp.job.toNat ∧ s.job i.jobId = some i.job ∧ i.lanes = i.grp.setOf lane regs ∧ i.pc = i.grp.pcOf lane ∧
      lane ∈ i.lanes ∧ i.job.runs = true ∧ i.grp.halted = false ∧ (s.tile t).power = .on := by
  unfold State.issueAt at h
  split at h
  · cases h
  · rename_i g hg
    split at h
    · cases h
    · rename_i j hj
      dsimp only at h
      split at h
      · rename_i hc
        cases h
        simp only [Bool.and_eq_true, decide_eq_true_eq, Bool.not_eq_true', List.contains_eq_mem] at hc
        exact ⟨rfl, rfl, rfl, rfl, hg, rfl, hj, rfl, rfl, hc.2, hc.1.1.1, hc.1.1.2, hc.1.2⟩
      · cases h

theorem Group.setOf_lt {g : Group} {lane : Nat} {regs : List Nat} {l : Nat} (h : l ∈ g.setOf lane regs) : l < 32 := by
  unfold Group.setOf upTo at h
  exact List.mem_range.mp (List.mem_filter.mp h).1

theorem Issues.lanes_lt {s : State} {site : Site} {w : Nat} {h : Shape} {i : Issue} (hi : Issues s site w h i) :
    ∀ l ∈ i.lanes, l < 32 := by
  intro l hl
  rw [(State.issueAt_some hi.1).2.2.2.2.2.2.2.1] at hl
  exact Group.setOf_lt hl

theorem Issues.word_eq {s : State} {site : Site} {w : Nat} {h : Shape} {i : Issue} (hi : Issues s site w h i) : i.word = w :=
  (State.issueAt_some hi.1).2.2.2.1

/-- An instruction that issues has the effect of its body. -/
theorem Issues.issueIns {s : State} {site : Site} {w : Nat} {h : Shape} {i : Issue} (hi : Issues s site w h i)
    (body : Issue → State → State) : s.issueIns site w h body = body i (s.cntTile i.t 0x100 1) := by
  have ht : i.t = site.tile.val := (State.issueAt_some hi.1).1
  have hf : ((s.cntTile i.t 0x100 1).tile i.t).flips = [] := by
    unfold State.cntTile
    rw [State.updTile_tile_self, ht]
    exact hi.2.2.2
  unfold State.issueIns
  rw [hi.1]
  simp [hi.2.1, hi.2.2.1, hf]

/-- Replacing the issuing group changes nothing else. -/
theorem GroupOnly.putGroup (s : State) (i : Issue) (g : Group) :
    GroupOnly s ((s.cntTile i.t 0x100 1).putGroup i g) i g := by
  refine ⟨rfl, fun n hn => ?_, ?_⟩
  · unfold State.putGroup State.setGroup State.cntTile
    rw [State.updTile_tile_ne _ _ hn, State.updTile_tile_ne _ _ hn]
  · unfold State.putGroup State.setGroup State.cntTile
    rw [State.updTile_tile_self, State.updTile_tile_self]

/-- RD written and the instruction passed. -/
theorem Issue.alu_effect {i : Issue} (hl : ∀ l ∈ i.lanes, l < 32) (rd : Nat) (f : Nat → Word) :
    Writes i ((i.grp.setLanes rd f i.lanes).advance i.pc i.lanes) rd f ∧
      Passes i ((i.grp.setLanes rd f i.lanes).advance i.pc i.lanes) ∧
      ((i.grp.setLanes rd f i.lanes).advance i.pc i.lanes).bare = i.grp.bare :=
  ⟨fun l r h => by rw [Group.reg_advance, Group.reg_setLanes _ _ _ _ _ _ hl h],
    fun l => by rw [Group.pcOf_advance, Group.pcOf_setLanes], by simp⟩

end Sys2Proof.Machine
end

