-- ==== Sys2Proof/Laws/Kept.lean ====
section
/-! SUPPORT. `Kept` for every shape of answer an operation gives, and the rules by which it passes through updates, choices and
folds. -/

namespace Sys2Proof.Machine

/-! ## Shapes of answers -/

def OnSome {α : Type} (P : α → Prop) : Option α → Prop
  | some x => P x
  | none => True
def OnSnd {α β : Type} (P : β → Prop) (p : α × β) : Prop := P p.2
def OnFst {α β : Type} (P : α → Prop) (p : α × β) : Prop := P p.1
/-- The state a command goes on with, if any. -/
def OnNext (P : State → Prop) : Out → Prop
  | .next t => P t
  | .fault _ => True
  | .refused _ => True
def OnSeal (P : State → Prop) : SealRun → Prop
  | .done t => P t
  | .failed t => P t
  | .host t => P t
  | .ended t => P t
  | .wait _ => True
def OnServed (P : State → Prop) : Served → Prop
  | .done t _ => P t
  | .refused _ => True
  | .waits _ => True
def OnExchange (P : State → Prop) : Exchange → Prop
  | .failed t => P t
  | .keyed t _ _ _ => P t
  | .waits => True
def OnAttempt (P : State → Prop) : Attempt → Prop
  | .failed t => P t
  | .trained t => P t
  | .waits => True
def OnSeqStep {α : Type} (P : State → Prop) : SeqStep α → Prop
  | .done _ t => P t
  | .bad t => P t
  | .wait _ => True
/-- An access that is made whole, or that waits for a line. -/
def OnWhole {α : Type} (P : α → Prop) : Whole α → Prop
  | .ok x => P x
  | .error _ => True
/-- A fill of a line answers with the state in which the line is present, if any, and the state it leaves. -/
def OnFill (P : State → Prop) (p : Option State × Bool × State) : Prop := OnSome P p.1 ∧ P p.2.2

/-! ## An answer written out -/

theorem on_some {α : Type} {P : α → Prop} {x : α} (h : P x) : OnSome P (some x) := h
theorem on_none {α : Type} {P : α → Prop} : OnSome P none := trivial
theorem on_ok {α : Type} {P : α → Prop} {x : α} (h : P x) : OnWhole P (.ok x) := h
theorem on_error {α : Type} {P : α → Prop} {w : Option Nat} : OnWhole P (.error w : Whole α) := trivial
theorem on_pair {α β : Type} {P : β → Prop} {a : α} {b : β} (h : P b) : OnSnd P (a, b) := h
theorem on_left {α β : Type} {P : α → Prop} {a : α} {b : β} (h : P a) : OnFst P (a, b) := h
theorem on_next {P : State → Prop} {t : State} (h : P t) : OnNext P (.next t) := h
theorem on_fault {P : State → Prop} {f : Fault} : OnNext P (.fault f) := trivial
theorem on_refused {P : State → Prop} {r : Refusal} : OnNext P (.refused r) := trivial
theorem on_fill {P : State → Prop} {o : Option State} {b : Bool} {t : State} (ho : OnSome P o) (h : P t) : OnFill P (o, b, t) := ⟨ho, h⟩
theorem on_sealDone {P : State → Prop} {t : State} (h : P t) : OnSeal P (.done t) := h
theorem on_sealFailed {P : State → Prop} {t : State} (h : P t) : OnSeal P (.failed t) := h
theorem on_sealHost {P : State → Prop} {t : State} (h : P t) : OnSeal P (.host t) := h
theorem on_sealEnded {P : State → Prop} {t : State} (h : P t) : OnSeal P (.ended t) := h
theorem on_sealWait {P : State → Prop} {w : Option Nat} : OnSeal P (.wait w) := trivial
theorem on_served {P : State → Prop} {t : State} {d : List Byte} (h : P t) : OnServed P (.done t d) := h
theorem on_keyed {P : State → Prop} {t : State} {x y : BitVec 256} {k : Word} (h : P t) : OnExchange P (.keyed t x y k) := h
theorem on_keyFailed {P : State → Prop} {t : State} (h : P t) : OnExchange P (.failed t) := h
theorem on_trained {P : State → Prop} {t : State} (h : P t) : OnAttempt P (.trained t) := h
theorem on_notTrained {P : State → Prop} {t : State} (h : P t) : OnAttempt P (.failed t) := h
theorem on_seqDone {α : Type} {P : State → Prop} {a : α} {t : State} (h : P t) : OnSeqStep P (.done a t : SeqStep α) := h
theorem on_seqBad {α : Type} {P : State → Prop} {t : State} (h : P t) : OnSeqStep P (.bad t : SeqStep α) := h

/-! ## What an answer is read as -/

theorem of_some {c t : State} {o : Option State} (h : OnSome (Kept c) o) (e : o = some t) : Kept c t := by subst e; exact h
theorem of_ok {α : Type} {P : α → Prop} {x : α} {o : Whole α} (h : OnWhole P o) (e : o = .ok x) : P x := by subst e; exact h
theorem of_pair {α : Type} {c t : State} {a : α} {p : α × State} (h : OnSnd (Kept c) p) (e : p = (a, t)) : Kept c t := by subst e; exact h
theorem of_snd {α β : Type} {P : β → Prop} {p : α × β} (h : OnSnd P p) : P p.2 := h
theorem of_fst {α β : Type} {P : α → Prop} {p : α × β} (h : OnFst P p) : P p.1 := h
theorem of_triple {α β : Type} {c t : State} {a : α} {b : β} {p : α × β × State} (h : OnSnd (OnSnd (Kept c)) p) (e : p = (a, b, t)) :
    Kept c t := by subst e; exact h
theorem of_left {β : Type} {c t : State} {b : β} {p : State × β} (h : OnFst (Kept c) p) (e : p = (t, b)) : Kept c t := by subst e; exact h
theorem of_somePair {α : Type} {c t : State} {a : α} {o : Option (α × State)} (h : OnSome (OnSnd (Kept c)) o) (e : o = some (a, t)) :
    Kept c t := by subst e; exact h
theorem of_fillSome {c t u : State} {b : Bool} {p : Option State × Bool × State} (h : OnFill (Kept c) p) (e : p = (some t, b, u)) :
    Kept c t := by subst e; exact h.1
theorem of_fillRest {c u : State} {o : Option State} {b : Bool} {p : Option State × Bool × State} (h : OnFill (Kept c) p)
    (e : p = (o, b, u)) : Kept c u := by subst e; exact h.2
theorem of_fillSnd {c : State} {p : Option State × Bool × State} (h : OnFill (Kept c) p) : Kept c p.2.2 := h.2
theorem of_next {c t : State} {o : Out} (h : OnNext (Kept c) o) (e : o = .next t) : Kept c t := by subst e; exact h
theorem of_sealDone {c t : State} {o : SealRun} (h : OnSeal (Kept c) o) (e : o = .done t) : Kept c t := by subst e; exact h
theorem of_sealFailed {c t : State} {o : SealRun} (h : OnSeal (Kept c) o) (e : o = .failed t) : Kept c t := by subst e; exact h
theorem of_sealHost {c t : State} {o : SealRun} (h : OnSeal (Kept c) o) (e : o = .host t) : Kept c t := by subst e; exact h
theorem of_sealEnded {c t : State} {o : SealRun} (h : OnSeal (Kept c) o) (e : o = .ended t) : Kept c t := by subst e; exact h
theorem of_served {c t : State} {o : Served} {d : List Byte} (h : OnServed (Kept c) o) (e : o = .done t d) : Kept c t := by subst e; exact h
theorem of_keyed {c t : State} {o : Exchange} {x y : BitVec 256} {k : Word} (h : OnExchange (Kept c) o) (e : o = .keyed t x y k) :
    Kept c t := by subst e; exact h
theorem of_keyFailed {c t : State} {o : Exchange} (h : OnExchange (Kept c) o) (e : o = .failed t) : Kept c t := by subst e; exact h
theorem of_trained {c t : State} {o : Attempt} (h : OnAttempt (Kept c) o) (e : o = .trained t) : Kept c t := by subst e; exact h
theorem of_notTrained {c t : State} {o : Attempt} (h : OnAttempt (Kept c) o) (e : o = .failed t) : Kept c t := by subst e; exact h
theorem of_seqDone {α : Type} {c t : State} {a : α} {o : SeqStep α} (h : OnSeqStep (Kept c) o) (e : o = .done a t) : Kept c t := by
  subst e; exact h
theorem of_seqBad {α : Type} {c t : State} {o : SeqStep α} (h : OnSeqStep (Kept c) o) (e : o = .bad t) : Kept c t := by subst e; exact h

/-! ## Updates, choices and folds -/

theorem Kept.hostWf {c s : State} (h : Kept c s) : s.host.mem.wf = true := by
  have := h.2.2.2; unfold State.memoriesWf at this; simp only [Bool.and_eq_true] at this; exact this.1
theorem Kept.hbmWf {c s : State} (h : Kept c s) : s.hbm.mem.wf = true := by
  have := h.2.2.2; unfold State.memoriesWf at this; simp only [Bool.and_eq_true] at this; exact this.2

/-- An update whose memories are in canonical form. -/
theorem kept_mkWf {c s : State} {draws : Nat} {dev : Dev} {mram : Mram} {flash : Flash} {plan : Plan} {host : HostLink} {mgt : Mgt}
    {regs latches : SMap Word} {rings : SMap Ring} {inflight : List InFlight} {dcClock : Bool} {jobs : SMap Job} {tiles : SMap Tile}
    {sole : Sole} {hbm : Hbm} {welt : Welt} {seq : Seq} {qos : Qos} {fabric : Fabric} {cvus : SMap Cvu} {pwr : Pwr} {thm : Thm}
    {sec : Sec} (h : Kept c s) (h1 : host.mem.wf = true) (h2 : hbm.mem.wf = true) :
    Kept c ⟨s.pending, s.aon, draws, s.part, dev, mram, flash, plan, host, mgt, regs, latches, rings, inflight, dcClock, jobs, tiles,
      sole, hbm, welt, seq, qos, fabric, cvus, pwr, thm, sec⟩ := by
  obtain ⟨a, b, d, e⟩ := h
  refine ⟨a, b, d, ?_⟩
  unfold State.memoriesWf
  simp only [h1, h2, Bool.and_self]

/-- An update of parts other than the queue, the clock, the fused data and the memories. -/
theorem kept_mk {c s : State} {draws : Nat} {dev : Dev} {mram : Mram} {flash : Flash} {plan : Plan} {host : HostLink} {mgt : Mgt}
    {regs latches : SMap Word} {rings : SMap Ring} {inflight : List InFlight} {dcClock : Bool} {jobs : SMap Job} {tiles : SMap Tile}
    {sole : Sole} {hbm : Hbm} {welt : Welt} {seq : Seq} {qos : Qos} {fabric : Fabric} {cvus : SMap Cvu} {pwr : Pwr} {thm : Thm}
    {sec : Sec} (h : Kept c s) (h1 : host.mem = s.host.mem) (h2 : hbm.mem = s.hbm.mem) :
    Kept c ⟨s.pending, s.aon, draws, s.part, dev, mram, flash, plan, host, mgt, regs, latches, rings, inflight, dcClock, jobs, tiles,
      sole, hbm, welt, seq, qos, fabric, cvus, pwr, thm, sec⟩ :=
  kept_mkWf h (h1 ▸ h.hostWf) (h2 ▸ h.hbmWf)

/-- An update that writes bytes of host memory. -/
theorem kept_hostWrite {c s : State} {draws : Nat} {dev : Dev} {mram : Mram} {flash : Flash} {plan : Plan} {host : HostLink} {mgt : Mgt}
    {regs latches : SMap Word} {rings : SMap Ring} {inflight : List InFlight} {dcClock : Bool} {jobs : SMap Job} {tiles : SMap Tile}
    {sole : Sole} {hbm : Hbm} {welt : Welt} {seq : Seq} {qos : Qos} {fabric : Fabric} {cvus : SMap Cvu} {pwr : Pwr} {thm : Thm}
    {sec : Sec} {a : Nat} {bs : List Byte} (h : Kept c s) (h1 : host.mem = s.host.mem.writeBytes a bs)
    (h2 : hbm.mem = s.hbm.mem) :
    Kept c ⟨s.pending, s.aon, draws, s.part, dev, mram, flash, plan, host, mgt, regs, latches, rings, inflight, dcClock, jobs, tiles,
      sole, hbm, welt, seq, qos, fabric, cvus, pwr, thm, sec⟩ :=
  kept_mkWf h (h1 ▸ Memory.writeBytes_wf a bs h.hostWf) (h2 ▸ h.hbmWf)

/-- An update that writes a number to device memory. -/
theorem kept_hbmWrite {c s : State} {draws : Nat} {dev : Dev} {mram : Mram} {flash : Flash} {plan : Plan} {host : HostLink} {mgt : Mgt}
    {regs latches : SMap Word} {rings : SMap Ring} {inflight : List InFlight} {dcClock : Bool} {jobs : SMap Job} {tiles : SMap Tile}
    {sole : Sole} {hbm : Hbm} {welt : Welt} {seq : Seq} {qos : Qos} {fabric : Fabric} {cvus : SMap Cvu} {pwr : Pwr} {thm : Thm}
    {sec : Sec} {a n v : Nat} (h : Kept c s) (h1 : host.mem = s.host.mem)
    (h2 : hbm.mem = s.hbm.mem.writeNat a n v) :
    Kept c ⟨s.pending, s.aon, draws, s.part, dev, mram, flash, plan, host, mgt, regs, latches, rings, inflight, dcClock, jobs, tiles,
      sole, hbm, welt, seq, qos, fabric, cvus, pwr, thm, sec⟩ :=
  kept_mkWf h (h1 ▸ h.hostWf) (h2 ▸ Memory.writeNat_wf a n v h.hbmWf)

/-- An update that empties part of device memory. -/
theorem kept_hbmFilter {c s : State} {draws : Nat} {dev : Dev} {mram : Mram} {flash : Flash} {plan : Plan} {host : HostLink} {mgt : Mgt}
    {regs latches : SMap Word} {rings : SMap Ring} {inflight : List InFlight} {dcClock : Bool} {jobs : SMap Job} {tiles : SMap Tile}
    {sole : Sole} {hbm : Hbm} {welt : Welt} {seq : Seq} {qos : Qos} {fabric : Fabric} {cvus : SMap Cvu} {pwr : Pwr} {thm : Thm}
    {sec : Sec} {f : Nat → Byte → Bool} (h : Kept c s) (h1 : host.mem = s.host.mem)
    (h2 : hbm.mem = smFilter f s.hbm.mem) :
    Kept c ⟨s.pending, s.aon, draws, s.part, dev, mram, flash, plan, host, mgt, regs, latches, rings, inflight, dcClock, jobs, tiles,
      sole, hbm, welt, seq, qos, fabric, cvus, pwr, thm, sec⟩ :=
  kept_mkWf h (h1 ▸ h.hostWf) (h2 ▸ smFilter_wf f h.hbmWf)

/-- An update that empties device memory. -/
theorem kept_hbmEmpty {c s : State} {draws : Nat} {dev : Dev} {mram : Mram} {flash : Flash} {plan : Plan} {host : HostLink} {mgt : Mgt}
    {regs latches : SMap Word} {rings : SMap Ring} {inflight : List InFlight} {dcClock : Bool} {jobs : SMap Job} {tiles : SMap Tile}
    {sole : Sole} {hbm : Hbm} {welt : Welt} {seq : Seq} {qos : Qos} {fabric : Fabric} {cvus : SMap Cvu} {pwr : Pwr} {thm : Thm}
    {sec : Sec} (h : Kept c s) (h1 : host.mem = s.host.mem) (h2 : hbm.mem = []) :
    Kept c ⟨s.pending, s.aon, draws, s.part, dev, mram, flash, plan, host, mgt, regs, latches, rings, inflight, dcClock, jobs, tiles,
      sole, hbm, welt, seq, qos, fabric, cvus, pwr, thm, sec⟩ :=
  kept_mkWf h (h1 ▸ h.hostWf) (h2 ▸ rfl)

theorem holds_ite {α : Type} {P : α → Prop} {p : Prop} [Decidable p] {a b : α} (ha : P a) (hb : P b) : P (if p then a else b) := by
  split
  · exact ha
  · exact hb

theorem holds_foldl {α β : Type} {P : β → Prop} {f : β → α → β} {l : List α} {s : β} (hf : ∀ t a, P t → P (f t a)) (h : P s) :
    P (l.foldl f s) := by
  induction l generalizing s with
  | nil => exact h
  | cons a l ih => exact ih (hf _ _ h)

theorem holds_getD {α : Type} {P : α → Prop} {o : Option α} {d : α} (ho : OnSome P o) (hd : P d) : P (o.getD d) := by
  cases o with
  | none => exact hd
  | some x => exact ho

theorem holds_map {α β : Type} {P : β → Prop} {o : Option α} {f : α → β} (h : ∀ a, P (f a)) : OnSome P (o.map f) := by
  cases o with
  | none => trivial
  | some x => exact h x

end Sys2Proof.Machine
end

