-- ==== Sys2Proof/Tests/Slice0.lean ====
section
/-! SUPPORT. Tests of the model: for every statement a state and operands that meet its hypotheses, an ill-formed command for
each check of WellFormed, and results that the spec works out. -/

namespace Sys2Proof.Tests
open Machine

set_option Elab.async false

/-! ## Small states -/

/-- A site: tile 0, its first processor and slot, a thread. -/
def at0 (lane : Fin 32) : Site := ⟨0, 0, 0, lane⟩

/-- An image of one stack: 64 registers, 8 vector registers, one kernel of one group, 64 bytes of code. -/
def img : Image where
  stackBits := 1
  l1Split := 0
  nR := 64
  nV := 8
  lG := 131072
  rngLane := true
  rekey := false
  kvPage := 0
  seed := 5
  fI := 65536
  fS := [65536, 0, 0, 0, 0, 0, 0, 0]
  descriptors := List.replicate 8 0
  poolBase := List.replicate 8 0
  poolPages := List.replicate 8 0
  argBase := 0
  argLength := 0
  kernels := [⟨0, 0, 1, 4⟩]
  lmodes := []
  code := List.replicate 64 0
  digest := 0

/-- Job 1 of that image, launched by descriptor 0 of ring 0. -/
def job1 : Job where
  image := img
  ring := 0
  idx := 0
  hostTag := 9
  faultAddr := 0
  nextGroup := 1
  exited := 0
  suspended := false
  everStarted := true
  context := none
  flags := 0x6C
  keySlot := none
  d2hCounter := 0
  h2dHighest := none
  ended := none
  suppressed := 0
  suspending := false

/-- A group of job 1 with threads 0 and 31 live at PC 0, and the given registers. -/
def grp (regs : SMap Word) : Group where
  id := 0
  job := 1
  cls := 4
  live := 0x80000001
  atBarrier := 0
  pc := []
  regs := regs
  vl := 4
  ssum := 0
  vacc := 0
  vaccTag := 0
  engVl := 4
  engVacc := 0
  engVaccTag := 0
  cstat := 0
  aflags := 0
  aout := 0
  vout := 0
  halted := false
  busy := []
  acks := []
  peerAcks := []
  stepped := false

/-- READY with the host link up and nothing else. -/
def up : State := { State.reset with dev.mode := .ready, host.up := true }

/-- READY with job 1 on tile 0, whose first slot holds the group. -/
def run (g : Group) : State :=
  { up with jobs := [(1, job1)], tiles := [(0, { Tile.reset with power := .on, groups := [(0, g)] })] }

/-- Registers 1 and 2 of threads 0 and 31. -/
def regs2 (a b : Word) : SMap Word :=
  [(32, a), (63, a), (64, b), (95, b)]

/-- The fields of a register-form word: RD, RA, RB, RC, RND, MOD and OFF. -/
def lowR (rd ra rb rc rnd md off : Nat) : BitVec 52 :=
  BitVec.ofNat 52 (rd * 2 ^ 45 + ra * 2 ^ 38 + rb * 2 ^ 30 + rc * 2 ^ 23 + rnd * 2 ^ 21 + md * 2 ^ 16 + off)
/-- The fields of an immediate-form word: RD, RA, MOD and IMM. -/
def lowI (rd ra md imm : Nat) : BitVec 52 :=
  BitVec.ofNat 52 (rd * 2 ^ 45 + ra * 2 ^ 38 + 2 ^ 37 + md * 2 ^ 32 + imm)

/-- An instruction issues at a site and its issue satisfies a test. -/
def met (s : State) (site : Site) (w : Nat) (h : Shape) (p : Issue → Bool) : Bool :=
  match s.issueAt site.tile.val site.tgp.val site.slot.val site.lane.val w (h.regs w) with
  | none => false
  | some i => i.job.pcOk i.pc && h.ok w i.job.image.nR && (s.tile site.tile.val).flips.isEmpty && p i

theorem issues_of_met {s : State} {site : Site} {w : Nat} {h : Shape} {p : Issue → Bool} (m : met s site w h p = true) :
    ∃ i, Issues s site w h i ∧ p i = true := by
  unfold met at m
  split at m
  · cases m
  · next i e => simp only [Bool.and_eq_true, List.isEmpty_iff] at m; exact ⟨i, ⟨e, m.1.1.1, m.1.1.2, m.1.2⟩, m.2⟩

/-- The state a command leads to. -/
def next (c : Instr) (s : State) : State :=
  match exec c s with
  | .next t => t
  | _ => s

/-- A register of the group of tile 0's first slot, after a command. -/
def regAfter (c : Instr) (s : State) (lane r : Nat) : Option Word := ((next c s).groupAt 0 0 0).map fun g => g.reg lane r

/-- How job 1 has ended: status and detail code. -/
def endOf (s : State) : Option (Byte × Byte) := (s.job 1).bind fun j => j.ended.map fun e => (e.status, e.detail)

/-! ## Witnesses: scalar instructions -/

/-- Words that together give every operand shape. -/
def words : List (BitVec 52) :=
  [lowR 3 1 2 0 0 0 0, lowR 3 1 2 1 0 0 0, lowR 3 1 0 0 0 0 0, lowI 3 0 0 7, lowI 3 1 0 7, lowR 0 1 0 0 0 0 0, lowI 0 1 0 1, lowI 0 0 0 1]

theorem witness_IntegerInstructionResults :
    (∀ e ∈ integerRows ++ [setRow], words.any (fun low => met (run (grp (regs2 1 2))) (at0 31) (insWord e.cls e.op low)
      (e.shape (insWord e.cls e.op low)) fun _ => true) = true) := by decide

theorem witness_FloatInstructionResults :
    (∀ e ∈ floatRows, words.any (fun low => met (run (grp (regs2 1 2))) (at0 31) (insWord 1 e.op low)
      (e.shape (insWord 1 e.op low)) fun _ => true) = true) := by decide

theorem witness_ConversionResults :
    met (run (grp (regs2 1 2))) (at0 0) (insWord 2 0 (lowR 3 1 0 0 1 0 0x0900)) (cvtShape (insWord 2 0 (lowR 3 1 0 0 1 0 0x0900)))
      (fun i => insRND i.word != 2) = true ∧
    met (run (grp (regs2 1 2))) (at0 0) (insWord 2 0 (lowR 3 1 2 4 2 0 0x0900)) (cvtShape (insWord 2 0 (lowR 3 1 2 4 2 0 0x0900)))
      (fun i => insRND i.word == 2 && (cvtLanes i i.word i.lanes (i.grp.advance i.pc i.lanes) Rng.reset).isSome) = true := by decide

theorem witness_SpecialRegisterRead :
    ∀ c ∈ [0x00, 0x0D, 0x11, 0x16, 0x17, 0x1B], met (run (grp [])) (at0 0) (insWord 3 1 (lowI 3 0 0 c)) (movsShape (insWord 3 1 (lowI 3 0 0 c)))
      (fun i => !((run (grp [])).tile 0).vecPending 0 true true true &&
        i.lanes.all fun l => (special i ((run (grp [])).tile 0) c l).isSome) = true := by decide

theorem witness_BranchEffects :
    (∀ e ∈ branchRows, words.any (fun low => met (run (grp (regs2 16 0))) (at0 31) (insWord 8 e.op low)
      (e.shape (insWord 8 e.op low)) fun i => !e.waits (run (grp (regs2 16 0))) i &&
        i.lanes.all fun l => i.job.pcOk (e.target i l)) = true) ∧
    (∀ e ∈ branchRows, [lowR 0 1 0 0 0 0 0, lowI 0 2 0 8, lowI 0 1 0 8, lowI 0 0 0 8, lowI 0 0 1 8].any (fun low =>
      met (run (grp (regs2 64 0))) (at0 31) (insWord 8 e.op low)
      (e.shape (insWord 8 e.op low)) fun i => !e.waits (run (grp (regs2 64 0))) i &&
        i.lanes.all fun l => e.taken i l && !i.job.pcOk (e.target i l)) = true) := by decide

theorem witness_CallEffect :
    met (run (grp [])) (at0 0) (insWord 8 5 (lowI 3 0 0 7)) (immShape (insWord 8 5 (lowI 3 0 0 7)) 1 0 1)
      (fun i => i.job.pcOk (branchTarget i.pc i.word)) = true := by decide

theorem witness_WaitInstructions :
    met (run (grp [])) (at0 0) (insWord 8 0 0) (regShape (insWord 8 0 0) 0) (fun _ => true) = true ∧
    (∀ n ∈ [0, 1], met (run { grp [] with aout := n, vout := n }) (at0 0) (insWord 7 2 (lowI 0 0 0 0)) (syncShape true true) (fun i => decide (i.grp.aout = n)) = true) ∧
    (∀ n ∈ [0, 1], met (run { grp [] with aout := n, vout := n }) (at0 0) (insWord 7 3 0) (syncShape true false) (fun i => decide (i.grp.vout = n)) = true) ∧
    (∀ n ∈ [0, 1], met (run { grp [] with acks := smSet 0 [] 0 n }) (at0 0) (insWord 7 0 (lowR 0 0 0 0 0 4 0)) (syncShape true false)
      (fun i => (run { grp [] with acks := smSet 0 [] 0 n }).fenceDone 0 0 i.grp 4 0 == (n == 0)) = true) := by decide

theorem witness_GroupBarrier :
    (met (run (grp [])) (at0 0) (insWord 7 1 0) (syncShape true false) (fun i => decide (i.lanes = [0, 31])) = true) ∧
    (met (run { grp [] with pc := [(31, 8)] }) (at0 0) (insWord 7 1 0) (syncShape true false) (fun i => decide (i.lanes = [0])) = true) := by
  decide

theorem witness_ExitEndsThreadsAndGroups :
    (met (run (grp [])) (at0 0) (insWord 8 7 0) (regShape (insWord 8 7 0) 0) (fun i => decide (i.lanes = [0, 31])) = true) ∧
    (met (run { grp [] with pc := [(31, 8)] }) (at0 0) (insWord 8 7 0) (regShape (insWord 8 7 0) 0) (fun i => decide (i.lanes = [0])) = true) ∧
    ({ grp [] with pc := [(31, 8)] }).live = (grp []).live ∧
    (let s := { run (grp []) with tiles := [(0, { Tile.reset with power := .on, groups := [(0, grp [])], vecQueue := [⟨0, 0, 0, [], 0, 0⟩] })] };
      met s (at0 31) (insWord 8 7 0) (regShape (insWord 8 7 0) 0) (fun i => (s.tile i.t).vecQueue.any fun v => v.slot == i.key && v.group == i.grp.id) = true) := by
  decide

theorem witness_TrapEndsTheJob :
    met (run (grp [])) (at0 0) (insWord 8 8 (lowI 0 0 0 0xFFFF)) ⟨0, 0, 0, 0, false, true, true, 0, false, true⟩ (fun _ => true) = true := by
  decide

/-! ## Witnesses: local store and device memory -/

/-- Registers 2 and 3 of threads 0 and 31 hold a device address. -/
def pairAt (a : Nat) : SMap Word :=
  [(64, BitVec.ofNat 32 a), (95, BitVec.ofNat 32 (a + 16)), (96, BitVec.ofNat 32 (a / 2 ^ 32)), (127, BitVec.ofNat 32 (a / 2 ^ 32))]

theorem witness_LocalLoad : ∀ e ∈ [(0, 1, 2359295), (1, 2, 2359294), (2, 4, 0), (3, 16, 2359280), (4, 1, 0), (5, 2, 2)],
    met (run (grp (regs2 (BitVec.ofNat 32 e.2.2) 0))) (at0 31) (insWord 4 0 (lowR 4 1 0 0 0 e.1 0)) (loadShape (insWord 4 0 (lowR 4 1 0 0 0 e.1 0)) 1 8)
      (fun i => decide (memSize (insMOD i.word) = e.2.1) && i.lanes.all (fun l => i.localAddr l % e.2.1 == 0 && decide (i.localAddr l + e.2.1 ≤ i.job.image.share) &&
        localReady (run (grp (regs2 (BitVec.ofNat 32 e.2.2) 0))) i e.2.1 l)) = true := by decide

theorem witness_LocalStore : ∀ e ∈ [(0, 1, 2359295), (1, 2, 2359294), (2, 4, 0), (3, 16, 2359280)],
    met (run (grp (regs2 (BitVec.ofNat 32 e.2.2) 0))) (at0 31) (insWord 4 1 (lowR 0 1 4 0 0 e.1 0)) (storeShape (insWord 4 1 (lowR 0 1 4 0 0 e.1 0)) 1 4)
      (fun i => i.lanes.all (fun l => i.localAddr l % e.2.1 == 0 && decide (i.localAddr l + e.2.1 ≤ i.job.image.share) &&
        localReady (run (grp (regs2 (BitVec.ofNat 32 e.2.2) 0))) i e.2.1 l)) = true := by decide

theorem witness_LocalAccessFault : ∀ a ∈ [2359296, 1],
    met (run (grp (regs2 (BitVec.ofNat 32 a) 0))) (at0 31) (insWord 4 0 (lowR 4 1 0 0 0 2 0)) (loadShape (insWord 4 0 (lowR 4 1 0 0 0 2 0)) 1 8)
      (fun i => i.localAddr 0 % 4 != 0 || decide (i.job.image.share < i.localAddr 0 + 4)) = true ∧
    met (run (grp (regs2 (BitVec.ofNat 32 a) 0))) (at0 31) (insWord 4 1 (lowR 0 1 4 0 0 2 0)) (storeShape (insWord 4 1 (lowR 0 1 4 0 0 2 0)) 1 4)
      (fun i => i.localAddr 0 % 4 != 0 || decide (i.job.image.share < i.localAddr 0 + 4)) = true := by decide

/-- Thread `l`'s access of an issue names a target that it may reach now. -/
def reaches (s : State) (i : Issue) (write ordered : Bool) (n l : Nat) : Bool :=
  match s.laneTarget i n write write ordered l with
  | .ok g => s.laneFree i write l g
  | .error _ => false

/-- What is wrong with thread `l`'s access. -/
def wrong (s : State) (i : Issue) (write ordered : Bool) (n l : Nat) : Option Nat :=
  match s.laneTarget i n write write ordered l with
  | .ok _ => none
  | .error e => some e.code

theorem witness_DeviceAccessByThread : ∀ md ∈ [2, 10, 18], ∀ a ∈ [0, 131040],
    met (run (grp (pairAt a))) (at0 31) (insWord 5 0 (lowR 4 2 0 0 0 md 0)) (loadShape (insWord 5 0 (lowR 4 2 0 0 0 md 0)) 2 24)
      (fun i => i.lanes.all (reaches (run (grp (pairAt a))) i false (md / 8 != 1) 4)) = true ∧
    met (run (grp (pairAt a))) (at0 31) (insWord 5 1 (lowR 0 2 4 0 0 md 0)) (storeShape (insWord 5 1 (lowR 0 2 4 0 0 md 0)) 2 24)
      (fun i => i.lanes.all (reaches (run (grp (pairAt a))) i true (md / 8 != 1) 4)) = true := by decide

theorem witness_DeviceAccessFault : ∀ e ∈ [(131072, 0x26), (2, 0x26), (2 ^ 63, 0x37)],
    met (run (grp (pairAt e.1))) (at0 31) (insWord 5 0 (lowR 4 2 0 0 0 2 0)) (loadShape (insWord 5 0 (lowR 4 2 0 0 0 2 0)) 2 24)
      (fun i => wrong (run (grp (pairAt e.1))) i false true 4 0 == some e.2) = true ∧
    met (run (grp (pairAt e.1))) (at0 31) (insWord 5 1 (lowR 0 2 4 0 0 2 0)) (storeShape (insWord 5 1 (lowR 0 2 4 0 0 2 0)) 2 24)
      (fun i => wrong (run (grp (pairAt e.1))) i true true 4 0 == some e.2) = true := by decide

/-- Tile 0's L1 holds line 0 whole, with ownership or without it. -/
def cached (owned : Bool) : State :=
  { run (grp (pairAt 0)) with tiles := [(0, { Tile.reset with
      power := .on, groups := [(0, grp (pairAt 0))], l1 := [(0, ⟨0, ~~~(0 : BitVec 256), 0, owned, Hdr.zero⟩)] })] }

theorem witness_DeviceAccessOfAThread : ∀ o ∈ [true, false],
    ((cached o).plan.place img 0).map Place.line = some 0 ∧ smFind ((cached o).tile 0).groups 0 = some (grp (pairAt 0)) ∧ ((cached o).tile 0).flips = [] ∧
    byteRange 0 4 &&& ~~~(smGet (⟨0, 0, 0, false, ⟨0, 0, false, 0, 0⟩⟩ : L1Line) ((cached o).tile 0).l1 0).valid = 0 ∧
    (smGet (⟨0, 0, 0, false, ⟨0, 0, false, 0, 0⟩⟩ : L1Line) ((cached o).tile 0).l1 0).owned = o ∧
    byteRange 0 4 &&& ~~~(smGet (⟨0, 0, 0, false, ⟨0, 0, false, 0, 0⟩⟩ : L1Line) ((run (grp (pairAt 0))).tile 0).l1 0).valid ≠ 0 := by decide

theorem witness_LocalAtomics : ∀ e ∈ atomicRows, [lowR 4 1 8 0 0 0 0, lowR 4 1 8 12 0 0 0].any (fun low =>
    met (run (grp (regs2 2359280 0))) (at0 31) (insWord 6 (atomCode e.1) low) (atomShape e.1 (insWord 6 (atomCode e.1) low))
      (fun i => insMOD i.word % 2 == 0 && i.lanes.all (fun l =>
        i.localAddr l % redSize e.1 (atomFmt e.1 0) == 0 && decide (i.localAddr l + redSize e.1 (atomFmt e.1 0) ≤ i.job.image.share) &&
        atomReady (run (grp (regs2 2359280 0))) i e.1 l))) = true := by decide

/-- Threads 0 and 31 both name device address 0. -/
def oneAddr : State := run (grp [])

theorem witness_DeviceAtomics : ∀ e ∈ atomicRows, [lowR 4 2 8 0 0 1 0, lowR 4 2 8 12 0 1 0].any (fun low =>
    met oneAddr (at0 31) (insWord 6 (atomCode e.1) low) (atomShape e.1 (insWord 6 (atomCode e.1) low))
      (fun i => insMOD i.word % 2 == 1 && (oneAddr.plan.place i.job.image 0).isSome && i.lanes.all (fun l =>
        (match oneAddr.laneTarget i (redSize e.1 (atomFmt e.1 1)) true false true l with
          | .ok g => decide (g = ⟨none, 0⟩)
          | .error _ => false) && oneAddr.laneFree i true l ⟨none, 0⟩))) = true := by decide

/-- An atomic of thread 31 is answered with the old value 7. -/
def answered (words : Nat) : State :=
  { run (grp []) with
    sole := { Sole.reset with replies := [⟨5, Hdr.zero, 0, [(31, 7)]⟩], atomics := [⟨5, 0, 0, 0, 4, words, [31], false⟩] } }

theorem witness_DeviceAtomicReplies : ∀ n ∈ [1, 4],
    (answered n).sole.replies.find? (fun r => r.tag == 5) = some ⟨5, Hdr.zero, 0, [(31, 7)]⟩ ∧
    (answered n).sole.atomics.find? (fun a => a.tag == 5) = some ⟨5, 0, 0, 0, 4, n, [31], false⟩ ∧
    smFind ((answered n).tile 0).groups 0 = some (grp []) ∧ (grp []).id = 0 := by decide

/-! ## Witnesses: the engines -/

/-- A descriptor at local address 0: its first bytes, then zeros. -/
def withAod (bs : List Nat) (q : List ArrayOp) : State :=
  { up with jobs := [(1, job1)], tiles := [(0, { Tile.reset with
      power := .on, groups := [(0, grp (regs2 2359232 8))], arrayQueue := q
      share := Memory.writeBytes [] 0 (bs.map fun b => BitVec.ofNat 8 b) })] }

/-- An MMA whose face is held: 1 × 1 × 0, exact. -/
def heldAod : BitVec 640 := BitVec.ofNat 640 (2 ^ 19 + 2 ^ 23 + 2 ^ 96 + 2 ^ 112)
/-- An MMA that drains into local address 256. -/
def drainAod : BitVec 640 := BitVec.ofNat 640 (2 ^ 19 + 2 ^ 96 + 2 ^ 112 + 2 ^ 328 + 2 ^ 356)
/-- The same with INIT = KEEP. -/
def keepAod : BitVec 640 := BitVec.ofNat 640 (2 ^ 19 + 2 ^ 20 + 2 ^ 96 + 2 ^ 112 + 2 ^ 328 + 2 ^ 356)
def opOf (d : BitVec 640) : ArrayOp := ⟨0, 0, d, 0, 0, 1, 0, 0⟩

theorem witness_ArrayOperationAccepted : ∀ e ∈ [0, 1, 2],
    met (withAod [e, 0, 8] []) (at0 31) (insWord 9 0 (lowR 0 3 0 0 0 0 0)) ⟨0, 1, 0, 0, true, false, true, 0, true, false⟩
      (fun i => decide (aodAddr i = 0) && (Aod.decode (aodAt (withAod [e, 0, 8] []) i)).fieldsOk &&
        (Aod.decode (aodAt (withAod [e, 0, 8] []) i)).rangesOk i.job.image.share) = true ∧
    met (withAod [e, 0, 8] []) (at0 31) (insWord 9 0 (lowR 0 1 0 0 0 0 0)) ⟨0, 1, 0, 0, true, false, true, 0, true, false⟩
      (fun i => decide (i.job.image.share < aodAddr i + 80)) = true ∧
    met (withAod [e, 0, 8] []) (at0 31) (insWord 9 0 (lowR 0 2 0 0 0 0 0)) ⟨0, 1, 0, 0, true, false, true, 0, true, false⟩
      (fun i => decide (aodAddr i % 16 ≠ 0)) = true ∧
    met (withAod [e + 48, 0, 8] []) (at0 31) (insWord 9 0 (lowR 0 3 0 0 0 0 0)) ⟨0, 1, 0, 0, true, false, true, 0, true, false⟩
      (fun i => !(Aod.decode (aodAt (withAod [e + 48, 0, 8] []) i)).fieldsOk) = true ∧
    met (withAod ([e, 0, 8] ++ List.replicate 13 0 ++ [8]) []) (at0 31) (insWord 9 0 (lowR 0 3 0 0 0 0 0)) ⟨0, 1, 0, 0, true, false, true, 0, true, false⟩
      (fun i => (Aod.decode (aodAt (withAod ([e, 0, 8] ++ List.replicate 13 0 ++ [8]) []) i)).fieldsOk &&
        !(Aod.decode (aodAt (withAod ([e, 0, 8] ++ List.replicate 13 0 ++ [8]) []) i)).rangesOk i.job.image.share) = true ∧
    met (withAod [e, 0, 8] (List.replicate 32 (opOf 0))) (at0 31) (insWord 9 0 (lowR 0 3 0 0 0 0 0)) ⟨0, 1, 0, 0, true, false, true, 0, true, false⟩
      (fun i => decide (32 ≤ ((withAod [e, 0, 8] (List.replicate 32 (opOf 0))).tile i.t).arrayQueue.length)) = true ∧
    (let s := withAod [e, 0, 8] []; ¬ (32 ≤ (s.tile 0).arrayQueue.length ∨ 32 ≤ (grp (regs2 2359232 8)).aout ∨ (s.tile 0).vecOverlap img 0 0 80 = true)) := by decide +kernel

/-- The head of tile 0's array queue runs for job 1. -/
theorem runs_head : ArrayRuns (withAod [] [opOf heldAod]) 0 1 (opOf heldAod) [] ∧
    ArrayRuns (withAod [] [opOf drainAod]) 0 1 (opOf drainAod) [] ∧ ArrayRuns (withAod [] [opOf keepAod]) 0 1 (opOf keepAod) [] := by
  unfold ArrayRuns
  decide +kernel

theorem witness_ArrayProductHeld :
    let o := Aod.decode heldAod
    Face.free.refuses o 0 0 = false ∧ o.opc = 0 ∧ o.stat = 0 ∧ o.hold = true ∧ o.n = 1 ∧ ((withAod [] [opOf heldAod]).tile 0).owns 0 0 = true ∧
      ((withAod [] [{ opOf heldAod with group := 7 }]).tile 0).owns 0 7 = false ∧
      ((withAod [] [{ opOf heldAod with group := 7 }]).tile 0).arrayHeld { opOf heldAod with group := 7 } = false := by decide +kernel

theorem witness_ArrayOperationDrains :
    let x := (withAod [] [opOf drainAod]).tile 0
    let o := Aod.decode drainAod
    Face.free.refuses o 0 0 = false ∧ o.hold = false ∧
      (o.drainRows x.share 0 0 (o.results x.share (o.runFace x.share x.face0)) ⟨x.rng, 0, 0, 0, []⟩).isSome = true ∧
      Face.free.refuses (Aod.decode keepAod) 0 0 = true := by decide +kernel

/-- Tile 0 with an operation that has run and one vector instruction that has run. -/
def ranState : State :=
  { up with jobs := [(1, job1)], tiles := [(0, { Tile.reset with
      power := .on, groups := [(0, { grp [] with aout := 1, vout := 1 })], arrayDone := [⟨0, 0, [(256, 1), (256, 2)], 1, 1, 0⟩]
      vecDone := [⟨0, 0, 0, 0, some 8, some 5, some (6, 7), some 3, some (9, 1)⟩] })] }

theorem witness_ArrayResultsVisible :
    (ranState.tile 0).arrayDone = [⟨0, 0, [(256, 1), (256, 2)], 1, 1, 0⟩] ∧ ranState.tileJob 0 = some 1 ∧ ranState.present 1 = true ∧
    smFind (ranState.tile 0).groups 0 = some { grp [] with aout := 1, vout := 1 } := by decide +kernel

theorem witness_VectorResultsVisible :
    (ranState.tile 0).vecDone = [⟨0, 0, 0, 0, some 8, some 5, some (6, 7), some 3, some (9, 1)⟩] ∧ ranState.tileJob 0 = some 1 ∧
    ranState.present 1 = true ∧ smFind (ranState.tile 0).groups 0 = some { grp [] with aout := 1, vout := 1 } := by decide +kernel

/-- Fields of a vector word that together give every operation a well-formed word: FMT, FMT2 and FLG. -/
def vwords : List Nat := [0, 8 * 2 ^ 46, 11 * 2 ^ 46, 14 * 2 ^ 46, 2 ^ 8, 2 ^ 7]

/-- Tile 0 with a group and vector instructions in its queue. -/
def queued (q : List VecOp) : State :=
  { up with jobs := [(1, job1)], tiles := [(0, { Tile.reset with power := .on, groups := [(0, grp [])], vecQueue := q })] }

/-- A vector word issues, and is or is not well formed for the kernel. -/
def metVec (s : State) (vop w : Nat) (ok : Bool) : Bool :=
  match vShape vop w with
  | none => false
  | some h =>
    match s.issueAt 0 0 0 31 w (h.regs w) with
    | none => false
    | some i => i.job.pcOk i.pc && (s.tile i.t).flips.isEmpty && (h.ok w i.job.image.nV == ok) && (h.regs w).all (fun r => decide (r < i.job.image.nR))

def vop0 : VecOp := ⟨0, 0, BitVec.ofNat 64 (0x10 * 2 ^ 58), [8, 0, 0, 0], 0, 1⟩

theorem witness_VectorInstructionAccepted :
    (∀ e ∈ vectorOps, vwords.any (fun x => metVec (queued []) e.1 (0x10 * 2 ^ 58 + e.1 * 2 ^ 50 + x) true) = true) ∧
    (∀ e ∈ vectorOps, vwords.any (fun x => metVec (queued (List.replicate 32 vop0)) e.1 (0x10 * 2 ^ 58 + e.1 * 2 ^ 50 + x) true) = true) ∧
    (∀ e ∈ vectorOps, metVec (queued []) e.1 (0x10 * 2 ^ 58 + e.1 * 2 ^ 50 + 15 * 2 ^ 46) false = true) ∧
    (∀ x ∈ [0, 60 * 2 ^ 40, 60 * 2 ^ 40 + 7 * 2 ^ 47, 1, 8 * 2 ^ 47, 125 * 2 ^ 40],
      ((queued []).issueAt 0 0 0 31 (insWord 0x0B 0 (BitVec.ofNat 52 x)) []).isSome = true) := by decide +kernel

theorem witness_VectorInstructionRuns :
    let s := queued [vop0];
    s.tileJob 0 = some 1 ∧ s.job 1 = some job1 ∧ (s.tile 0).flips = [] ∧ (s.tile 0).vecGroup vop0 = some (grp []) ∧ (s.tile 0).owns 0 0 = true ∧
    (let x := { s.tile 0 with groups := [], leaving := [(0, grp [])] }; x.vecGroup vop0 = some (grp []) ∧ x.owns 0 0 = false) ∧
    (match (engineStart s 0 img vop0 (grp [])).run (vfVop vop0.word.toNat) vop0.word.toNat vop0.xs with
      | .ok u => decide (u.newVl = some 8)
      | .error _ => false) = true ∧
    (match (engineStart s 0 img vop0 (grp [])).run 0x21 (0x10 * 2 ^ 58 + 0x21 * 2 ^ 50) [0xFFFFFFFF] with
      | .ok _ => false
      | .error e => decide (0 < e.1)) = true := by decide +kernel

theorem witness_ElementWiseResults : ∀ f ∈ [0, 1, 2, 3, 8, 11], fmtBits f % 8 = 0 ∧ 0 < fmtBits f := by decide

/-! ## Witnesses: every instruction of a processor -/

theorem witness_NoIssueNoEffect :
    (∀ e ∈ integerRows ++ [setRow], up.issueAt 0 0 0 0 (insWord e.cls e.op 0) ((e.shape (insWord e.cls e.op 0)).regs 0) = none) ∧
    (∀ g ∈ [{ grp [] with halted := true }, { grp [] with live := 0 }, { grp [] with atBarrier := 1 }, { grp [] with busy := [32] }],
      (run g).issueAt 0 0 0 0 (insWord 0 0 (lowR 1 0 0 0 0 0 0)) [1] = none) := by decide +kernel

theorem witness_IllFormedInstructionFaults :
    let bad := fun (s : State) (w : Nat) (h : Shape) (pc : Bool) => match s.issueAt 0 0 0 31 w (h.regs w) with
      | none => false
      | some i => (i.job.pcOk i.pc == pc) && (pc || true) && (!pc || !h.ok w i.job.image.nR)
    let far := run { grp [] with pc := [(0, 64), (31, 64)] };
    (∀ e ∈ integerRows ++ [setRow], bad (run (grp [])) (insWord e.cls e.op (BitVec.ofNat 52 (2 ^ 52 - 1))) (e.shape (insWord e.cls e.op (BitVec.ofNat 52 (2 ^ 52 - 1)))) true = true ∧
      bad far (insWord e.cls e.op 0) (e.shape (insWord e.cls e.op 0)) false = true) ∧
    (∀ e ∈ floatRows, bad (run (grp [])) (insWord 1 e.op (BitVec.ofNat 52 (2 ^ 52 - 1))) (e.shape (insWord 1 e.op (BitVec.ofNat 52 (2 ^ 52 - 1)))) true = true ∧
      bad far (insWord 1 e.op 0) (e.shape (insWord 1 e.op 0)) false = true) ∧
    (∀ e ∈ branchRows, bad (run (grp [])) (insWord 8 e.op (BitVec.ofNat 52 (2 ^ 52 - 1))) (e.shape (insWord 8 e.op (BitVec.ofNat 52 (2 ^ 52 - 1)))) true = true ∧
      bad far (insWord 8 e.op 0) (e.shape (insWord 8 e.op 0)) false = true) ∧
    (∀ e ∈ atomicRows, bad (run (grp [])) (insWord 6 (atomCode e.1) (BitVec.ofNat 52 (2 ^ 52 - 1))) (atomShape e.1 (insWord 6 (atomCode e.1) (BitVec.ofNat 52 (2 ^ 52 - 1)))) true = true ∧
      bad far (insWord 6 (atomCode e.1) 0) (atomShape e.1 (insWord 6 (atomCode e.1) 0)) false = true) := by decide +kernel

/-! ## Witnesses: host access to registers -/

/-- A value in a BAR0 register or a register of the indirect window. -/
def withReg (key : Nat) (v : Word) (s : State) : State := { s with regs := smPut s.regs key v }
/-- The window names a register. -/
def windowAt (space off : Nat) (s : State) : State := withReg 0x30 (BitVec.ofNat 32 space) (withReg 0x34 (BitVec.ofNat 32 off) s)
/-- The audit log holds `n` entries that nothing has acknowledged. -/
def audited (n : Nat) (s : State) : State := { s with mram.auditHead := BitVec.ofNat 64 n }
/-- The policy in force has FLAGS `v`. -/
def policed (v : Word) (s : State) : State := { s with mram.policy := TwoCopy.both { Policy.factory with flags := v } }

theorem witness_HostRegisterWrites :
    HostMayWrite up ∧ HostMayWrite (audited 15359 up) ∧ 15360 ≤ (audited 15360 up).unacked ∧ (audited 15360 up).linked = true ∧
    (audited 15360 up).ideBlocks = false ∧ (policed 0x7C up).ideBlocks = true ∧ (policed 0x7C up).linked = true ∧ State.reset.linked = false ∧
    (∀ e ∈ windowRegisters, HostMayWrite (windowAt e.1 e.2.1 up) ∧ (windowAt e.1 e.2.1 up).indTarget = .ind e.1 e.2.1) := by
  unfold HostMayWrite
  decide +kernel

theorem witness_HostRegisterReads :
    up.linked = true ∧ up.masterSel < 508 ∧ (withReg (indKey 4 0x80) 507 up).masterSel < 508 ∧
    (regCounter up (.bar0 0x4120)).isSome = true ∧ (windowAt 0 0 up).indTarget = .ind 0 0 ∧
    regCounter (windowAt 0 0 up) (.ind 0 0) = none ∧ (windowAt 0 0 up).regClear (.ind 0 0) = windowAt 0 0 up := by decide +kernel

theorem witness_AuditAcknowledgement :
    let s := audited 16383 up;
    s.linked = true ∧ s.mram.auditAck.toNat ≤ s.mram.auditHead.toNat ∧ s.mram.auditHead.toNat < 2 ^ 63 ∧ s.unacked < 16384 := by
  decide +kernel

theorem witness_CounterClears :
    up.linked = true ∧ up.ideBlocks = false ∧ (withReg (indKey 6 0) 415 up).tileSel < 416 ∧ up.tileSel < 416 := by decide +kernel

/-! ## Witnesses: bandwidth -/

/-- A request of a master in a class. -/
def requestBy (m : Nat) (c : BitVec 3) (demoted : Bool) : NetMsg := .request 0 ⟨.getm 0, ⟨m, c, demoted, 0, 0⟩⟩
/-- A demoted request, one of class 4 and an acknowledgement of class 7 in the network; a request of tile 415 waits at its port. -/
def crossing : State :=
  { up with
    sole := { Sole.reset with net := [requestBy 507 7 true, requestBy 0 4 false, .ack (.l1 0) 0 ⟨0, 7, false, 0, 0⟩] }
    qos := { up.qos with inject := [⟨415, 7, 256, 0, .gets 415 1⟩] } }
/-- The limit of class 0 of a kind is staged so high that the sum exceeds the kind's ceiling. -/
def overStaged (k : Nat) : State := withReg (indKey 4 (0x100 + 0x20 * k)) 0xFFFFFFFF up

theorem witness_BandwidthRegulation :
    HostMayWrite up ∧ (∀ k < 6, ((upTo 8).map (up.stagedLimit k)).foldl (· + ·) 0 ≤ limitCeiling k) ∧
    (∀ k < 6, HostMayWrite (overStaged k) ∧ limitCeiling k < ((upTo 8).map ((overStaged k).stagedLimit k)).foldl (· + ·) 0 ∧
      ∀ n < k, ((upTo 8).map ((overStaged k).stagedLimit n)).foldl (· + ·) 0 ≤ limitCeiling n) ∧
    crossing.dev.mode = .ready ∧ crossing.qos.inject = [] ++ [⟨415, 7, 256, 0, .gets 415 1⟩] ∧
    ((ArbPoint.reset.choose ((crossing.packets [0, 1, 2]).filter fun q => q.msg.isReply == false)).map fun p => p.msg) = some (requestBy 0 4 false) ∧
    ((({ ArbPoint.reset with sinceC := 63 } : ArbPoint).choose ((crossing.packets [0, 1]).filter fun q => q.msg.isReply == false)).map fun p => p.tier) = some 3 ∧
    ((ArbPoint.reset.choose ((crossing.packets [0, 1, 2]).filter fun q => q.msg.isReply == true)).map fun p => p.tier) = some 0 := by
  unfold HostMayWrite
  decide +kernel

/-! ## Witnesses: descriptors -/

/-- A descriptor of ring 0, index 0, for an opcode and a job, with other fields by offset. -/
def desc (op job : Nat) (fields : List (Nat × Nat)) : InFlight :=
  ⟨0, 0, BitVec.ofNat 512 (op + job * 2 ^ 64 + (fields.map fun e => e.2 * 2 ^ (8 * e.1)).foldl (· + ·) 0), false⟩

/-- The descriptor in flight, as ring 0's first. -/
def await (f : InFlight) (s : State) : State := { s with inflight := [f], rings := [(0, { Ring.reset with ci := 1, log2 := 4, enable := true })] }

/-- A descriptor waits to start. -/
def waits (s : State) (f : InFlight) : Bool :=
  decide (s.findDesc 0 0 = some f) && s.linked && decide (s.dev.mode ≠ .boot) && !f.started && s.mayStart f
/-- A descriptor of an opcode starts. -/
def starts (s : State) (op : Nat) (f : InFlight) : Bool := waits s f && decide (f.opcode = op) && decide (s.descCheck f = none)

theorem waits_of {s : State} {f : InFlight} (h : waits s f = true) : Waits s 0 0 f := by
  simp only [waits, Bool.and_eq_true, decide_eq_true_eq, Bool.not_eq_true'] at h
  obtain ⟨⟨⟨⟨a, b⟩, c⟩, d⟩, e⟩ := h
  exact ⟨a, b, c, d, e⟩

theorem starts_of {s : State} {op : Nat} {f : InFlight} (h : starts s op f = true) : Starts s 0 0 op f := by
  simp only [starts, Bool.and_eq_true, decide_eq_true_eq] at h
  exact ⟨waits_of h.1.1, h.1.2, h.2⟩

/-- READY with job 1 and nothing on its tiles. -/
def hosting : State := { up with jobs := [(1, job1)] }
def inMode (m : Mode) (s : State) : State := { s with dev.mode := m }

/-- Two descriptors in flight; the second has WAIT. -/
def twoWait : State :=
  { up with inflight := [⟨0, 0, 0, false⟩, ⟨0, 1, 256, false⟩], rings := [(0, { Ring.reset with ci := 2, log2 := 4, enable := true })] }

theorem witness_DescriptorFirstChecks :
    (∀ e ∈ descriptorRows [], let f := desc e.2.1 1 [(0x10, e.2.2.getD 0), (0xC, 1)];
      waits (await f hosting) f = true ∧ f.opcode = e.2.1 ∧ e.2.2.all (fun n => f.u8 0x10 == n) = true ∧ (await f hosting).descCheck f = some 2) ∧
    twoWait.findDesc 0 1 = some ⟨0, 1, 256, false⟩ ∧ twoWait.mayStart ⟨0, 1, 256, false⟩ = false ∧
    (0x11 ≤ (desc 0x11 0 []).opcode ∧ 2 ≤ (desc 0 0 [(1, 2)]).flags ∧ descField (desc 0 0 [(2, 1)]).bytes 2 2 ≠ 0 ∧ (desc 0 0 [(0xC, 1)]).u32 0xC ≠ 0) ∧
    (∀ op ∈ [1, 2, 3, 4], descForm (desc op 1 []) = true) ∧ descForm (desc 0xC 1 []) = true ∧ descForm (desc 5 1 []) = true ∧
    descForm (desc 6 1 []) = true ∧ descForm (desc 0xB 1 []) = true ∧ descForm (desc 0xE 1 [(0x10, 1)]) = true ∧ descForm (desc 9 0 []) = true ∧
    (hosting.job 1).isSome = true ∧ hosting.present 2 = false ∧ hosting.present 1 = true ∧ (policed 0x7C hosting).ideBlocks = true := by
  decide +kernel

theorem witness_RingSetUp :
    (let s := up;
      s.linked = true ∧ s.unacked < 15360 ∧ s.ringIdle 0 = true ∧ s.slotTaken 0 = false ∧ s.hostOk 0 8 = true) ∧
    (let s := { up with host := { up.host with failing := [(0, 8)] } };
      s.ringIdle 0 = true ∧ s.slotTaken 0 = false ∧ s.hostOk 0 8 = false) ∧
    (let s := { up with rings := [(1, { Ring.reset with enable := true })] };
      s.ringIdle 0 = true ∧ s.slotTaken 0 = true) ∧
    (let s := { up with rings := [(0, { Ring.reset with enable := true })] };
      s.ringIdle 0 = false) ∧
    (let v : Word := 0x41;
      v.getLsbD 0 = true ∧ 4 ≤ (BitVec.ofNat 4 (v.toNat / 16)).toNat) ∧ (let v : Word := 0x31;
      v.getLsbD 0 = true ∧ (BitVec.ofNat 4 (v.toNat / 16)).toNat < 4) ∧ (0x40 : Word).getLsbD 0 = false := by decide +kernel

/-- A ring of 16 descriptors at host address 4096 with a slot at 0, of which two are new. -/
def filled : State :=
  { up with
    rings := [(0, { Ring.reset with enable := true, log2 := 4, cmdBase := 4096, pi := 2 })]
    host := { up.host with mem := [(0, 2)] } }

theorem witness_DoorbellsAndFetch :
    filled.linked = true ∧ (∀ r < 64, (filled.ring r).enable = true ∨ filled.ringInFlight r ≠ 0 → filled.hostOk (filled.ring r).slotAt 8 = true) ∧
    (filled.ring 0).enable = true ∧ filled.dev.mode ≠ .boot ∧
    min 64 (min ((filled.ring 0).pi - (filled.ring 0).ci).toNat (4096 - filled.allInFlight)) = 2 ∧
    filled.hostOk 4096 64 = true ∧ filled.hostOk 4160 64 = true ∧ bytesToNat (filled.hostRead 4096 64) = 0 ∧
    (let f := desc 0x11 0 [];
      (await f up).inflight = [f] ∧ 0x11 ≤ f.opcode ∧ ({ Ring.reset with ci := 1 } : Ring).enable = false) ∧
    up.inflight = [] ∧ up.dev.mode = .ready ∧ up.jobs = [] ∧ up.rings = [] := by decide +kernel

theorem witness_turns : HasTurn filled 0 ∧ ¬ HasTurn filled 1 := by
  constructor
  · exact ⟨0, by decide, by decide, ⟨by decide, by decide⟩, fun i h => absurd h (Nat.not_lt_zero i)⟩
  · rintro ⟨k, _, _, h, _⟩
    exact absurd h.1 (by decide)

/-- Ring 0 with one completion waiting. -/
def owing (op : Byte) : State :=
  { up with
    jobs := [(1, { job1 with ended := some (JobEnd.plain 0 0 1) })]
    rings := [(0, { Ring.reset with log2 := 4, cplBase := 4096, waiting := [⟨0, 0, 9, 1, op, 0, 0⟩] })] }

theorem witness_CompletionPosting :
    starts (await (desc 0 0 []) up) 0 (desc 0 0 []) = true ∧
    (∀ op ∈ [0, 1], let s := owing (BitVec.ofNat 8 op);
      s.linked = true ∧ (s.ring 0).waiting = [⟨0, 0, 9, 1, BitVec.ofNat 8 op, 0, 0⟩] ∧ ((s.ring 0).cpi - (s.ring 0).cci).toNat < (s.ring 0).size ∧
      s.hostOk 4096 32 = true ∧ s.inflight = [] ∧ s.launchWaits 0 ⟨0, 0, 9, 1, BitVec.ofNat 8 op, 0, 0⟩ = false) ∧
    (let c : Completion := ⟨0, 0x0A, 9, 1, 5, 0, 0⟩;
      c.job = 1 ∧ c.status = 0x0A ∧ c.opcode ∉ [1, 4] ∧ c ∈ (({ owing 1 with rings := smPut (owing 1).rings 1 { Ring.reset with waiting := [c] } } : State).ring 1).waiting) ∧
    (let v := { job1 with ended := some (JobEnd.plain 0 0 1) };
      (owing 1).job 1 = some v ∧ v.ended.isSome = true ∧ v.ring = 0 ∧ v.idx.toNat % 16 = 0) ∧
    (let g := { Ring.reset with log2 := 4, cpi := 16 };
      g.size ≤ (g.cpi - g.cci).toNat) := by decide +kernel

/-! ## Witnesses: descriptors that move data and install records -/

/-- A DMA descriptor: operation, source, destination and length. -/
def dma (op src dst len : Nat) : InFlight := desc 5 1 [(0x10, op), (0x18, src), (0x20, dst), (0x28, len)]
/-- The lines an access needs are in the soles. -/
def warm (lines : List Nat) (s : State) : State :=
  { s with sole := { s.sole with lines := lines.map fun l => (l, { SoleLine.absent with present := true, valid := ~~~(0 : BitVec 256), sectors := 16, dirty := 0 }) } }
/-- Job 1 with a sequence-table pool of a page at device address 0. -/
def pooled : State := { up with jobs := [(1, { job1 with image := { img with poolPages := [1, 0, 0, 0, 0, 0, 0, 0] } })] }
/-- Job 1 suspended, its context held at device address 0. -/
def held : State := { up with jobs := [(1, { job1 with suspended := true, context := some (0, 4096), flags := 0x2C })] }

theorem witness_DmaTransfers :
    (∀ f ∈ [dma 0 0 0 0, dma 1 0 0 (2 ^ 40 + 1), dma 1 131072 0 1, dma 0 0 131072 1, dma 2 0 1 2, dma 3 0 0 255, dma 4 0 128 256],
      starts (await f hosting) 5 f = true ∧ (f.len = 0 ∨ 2 ^ 40 < f.len ∨ (f.dmaOp ∈ [1, 2] ∧ img.footprint < f.src + f.len) ∨
        (f.dmaOp ≠ 1 ∧ img.footprint < f.dst + f.len) ∨ (f.dmaOp = 2 ∧ f.src < f.dst + f.len ∧ f.dst < f.src + f.len) ∨
        (f.dmaOp ∈ [3, 4] ∧ (f.dst % 256 ≠ 0 ∨ f.len % 256 ≠ 0)))) ∧
    (let f := dma 0 0 0 1;
      starts (await f pooled) 5 f = true ∧ { img with poolPages := [1, 0, 0, 0, 0, 0, 0, 0] }.inPool f.dst f.len = true) ∧
    (let f := dma 0 64 131071 1;
      let s := warm [] (await f hosting);
      starts s 5 f = true ∧ s.hostOk 64 1 = true ∧
        ((((s.markStarted 0 0).writeMem img f.dmaBy f.dst (s.hostRead f.src 1)).map fun u => u.present 1).toOption = some true)) ∧
    (let f := dma 0 64 0 1;
      let s := { await f hosting with host := { up.host with failing := [(64, 1)] } };
      starts s 5 f = true ∧ s.hostOk 64 1 = false) ∧
    (let f := dma 1 0 64 1;
      let s := await f hosting;
      starts s 5 f = true ∧ (((s.markStarted 0 0).readMem img f.dmaBy f.src 1).map fun r => (r.2.present 1, r.2.host.up, r.2.host.failing)).toOption = some (true, true, [])) ∧
    (let f := dma 1 4095 64 1;
      starts (await f held) 5 f = true ∧ (await f held).contextHeld { job1 with suspended := true, context := some (0, 4096), flags := 0x2C } 4095 1 = true) ∧
    (let f := dma 2 0 256 1;
      let s := (await f hosting).markStarted 0 0;
      starts (await f hosting) 5 f = true ∧
        ((s.readMem img f.dmaBy f.src 1).bind fun r => (r.2.writeMem img f.dmaBy f.dst r.1).map fun w => w.present 1).toOption = some true) ∧
    (let f := dma 3 0 0 256;
      starts (await f hosting) 5 f = true ∧ (await f hosting).tackAllowed img ((await f hosting).rangeLines img 0 256) = false) ∧
    (let f := dma 3 0 0 256;
      let s := withReg (indKey 0 0) 100 (await f hosting);
      starts s 5 f = true ∧ s.tackAllowed img (s.rangeLines img 0 256) = true ∧
        (((State.serveAll img f.dmaBy ((s.markStarted 0 0).tackList img (s.rangeLines img 0 256)) (s.markStarted 0 0)).map fun u => u.present 1).toOption = some true)) ∧
    (let f := dma 4 0 0 256;
      let s := await f hosting;
      starts s 5 f = true ∧ (((State.serveAll img f.dmaBy ((s.rangeLines img 0 256).map fun l => (l, .untack)) (s.markStarted 0 0)).map fun u => u.present 1).toOption = some true)) := by
  decide +kernel

/-- Job 1 sealed under key slot 0. -/
def sealed : State := { up with jobs := [(1, { job1 with keySlot := some 0, h2dHighest := some 0 })] }

/-- A record of one byte that the host seals as its first to device address 0. -/
def hostRecord : List Byte :=
  let head := natToBytes 8 1 ++ natToBytes 4 1 ++ natToBytes 4 0
  let c := gcmSeal (sealed.sealKey 0) (sealIv 1 0 1) (head ++ natToBytes 8 0) [7]
  head ++ c.1 ++ List.replicate 4095 0 ++ c.2 ++ List.replicate 32 0

set_option maxRecDepth 100000 in
theorem witness_OpenedTransfer :
    let f := dma 0 0 0 1
    let s := await f { sealed with host := { up.host with mem := Memory.writeBytes [] 0 hostRecord } }
    starts s 5 f = true ∧ (match State.openRecords f.dmaBy 1 img 0 0 0 1 (recordCount 1) 0 (s.markStarted 0 0) with
      | .done _ => true
      | _ => false) = true := by decide +kernel

theorem witness_SealedTransfers :
    (let s := await (dma 0 0 0 64) sealed;
      starts s 5 (dma 0 0 0 64) = true ∧ s.hostOk 0 4160 = true ∧ bytesToNat (s.hostRead 0 8) ≤ 0) ∧
    (let f := dma 1 0 0 1;
      let s := await f sealed;
      starts s 5 f = true ∧ (match State.sealRecords f.dmaBy 1 img 0 0 0 1 (recordCount 1) 0 (s.markStarted 0 0) with
        | .done _ => true
        | _ => false) = true) := by decide +kernel

/-- A SEQ_OP descriptor: the code, a host address, and the parameter block. -/
def seqOp (code out : Nat) (block : Nat) : InFlight := desc 6 1 [(0x10, code), (0x18, out), (0x20, block)]
/-- Job 1 with two sequence descriptors and a pool of 16 pages; `live` opens descriptor 0. -/
def sequenced (live : Bool) : State :=
  { up with
    jobs := [(1, { job1 with image := { img with descriptors := [2, 0, 0, 0, 0, 0, 0, 0], poolPages := [8, 0, 0, 0, 0, 0, 0, 0] } })]
    seq := ⟨if live then [(0, ⟨0, 1, true, 0, 0, 1, 1, 0, 1, 0, 0, 0, 0⟩)] else [], [], [], [], 0⟩ }
/-- An OPEN block: one layer, entries of 16 bytes, stride 1. -/
def openBlock : Nat := 2 ^ 64 + 2 ^ 80 + 2 ^ 96
def seqImg : Image := { img with descriptors := [2, 0, 0, 0, 0, 0, 0, 0], poolPages := [8, 0, 0, 0, 0, 0, 0, 0] }

theorem witness_SequenceDescriptors :
    (∀ op ∈ [0, 3, 4], let f := seqOp op 0 (2 ^ 21);
      let s := await f (sequenced false);
      starts s 6 f = true ∧ f.seqCode = op ∧ (s.seqWrong op 1 seqImg f.block).isSome = true) ∧
    (let f := seqOp 0 0 openBlock;
      let s := await f { sequenced false with seq := ⟨[], [], [], List.replicate 1024 ⟨0, 0, 0, 0, 0, 0, 0, 0, Hdr.zero⟩, 0⟩ };
      starts s 6 f = true ∧ s.seqWrong 0 1 seqImg f.block = none ∧ s.seqBusy (blockField f.block 0 4) = true) ∧
    (let f := seqOp 0 0 openBlock;
      (await f (sequenced false)).seqBusy (blockField f.block 0 4) = false) ∧
    (let f := seqOp 0 0 openBlock;
      let s := await f (sequenced false);
      starts s 6 f = true ∧ s.seqWrong 0 1 seqImg f.block = none ∧ (match (s.markStarted 0 0).seqOpen 1 seqImg f.block with
        | .done _ _ => true
        | _ => false) = true) ∧
    (let f := seqOp 3 0 0;
      let s := await f (sequenced true);
      starts s 6 f = true ∧ s.seqWrong 3 1 seqImg f.block = none ∧ (match (s.markStarted 0 0).seqFree seqImg (seqBy 0 Hdr.zero) 0 with
        | .done _ _ => true
        | _ => false) = true) ∧
    (let f := seqOp 4 64 1;
      let s := await f (sequenced true);
      starts s 6 f = true ∧ s.seqWrong 4 1 seqImg f.block = none ∧ (SeqBlock.decode f.block).lsAddr = 0 ∧ s.hostOk (f.u64 0x18) 64 = true ∧
        ({ s with host := { s.host with failing := [(64, 1)] } } : State).hostOk (f.u64 0x18) 64 = false) := by decide +kernel

/-- Job 1 bound to BAR2, its access allowed. -/
def bound (im : Image) : State :=
  policed 0xEC { up with jobs := [(1, { job1 with image := im, flags := 0xEC })], mgt := { Mgt.reset with bar2Job := 1 } }

theorem witness_Bar2Accesses :
    HostMayWrite hosting ∧ hosting.present 2 = false ∧ (bound img).job 1 = some { job1 with flags := 0xEC } ∧ HostMayWrite (bound img) ∧
    hosting.bar2Target 0 = none ∧ (bound img).bar2Target 2047 = some img ∧ (bound img).bar2Target 2048 = none ∧
    (((bound img).readMem img ⟨.bar2, 506, (bound img).reg (indKey 4 8) 3 % 8, none⟩ ((bound img).bar2Address 2047) 64).map fun r => r.2.present 1).toOption = some true ∧
    seqImg.inPool 0 64 = true ∧ (bound seqImg).bar2Target 0 = some seqImg ∧ img.inPool 0 64 = false ∧
    (match (bound img).plan.place img 64 with
      | none => false
      | some pl => ((bound img).serveNow img ⟨.bar2, 506, (bound img).reg (indKey 4 8) 3 % 8, none⟩ pl.line (.ncwr .bar2 0 1)).toOption.isSome) = true := by
  unfold HostMayWrite
  decide +kernel

/-- A last of 160 bytes whose ports may meet any neighbour. -/
def anyLast : List Byte := natToBytes 4 0x4C415331 ++ natToBytes 2 1 ++ natToBytes 2 18 ++ List.replicate 152 0
/-- A descriptor whose IN holds bytes at host address 64. -/
def install (op : Nat) (n : Nat) : InFlight := desc op 0 [(0x10, 64), (0x18, n)]
def placed (bs : List Byte) (s : State) : State := s.hostWrite 64 bs

theorem witness_InstallDescriptors :
    (let f := install 7 160;
      let s := await f (placed anyLast up);
      starts s 7 f = true ∧ s.hostOk 64 160 = true ∧ f.u32 0x18 = 160 ∧ lastForm (s.hostRead 64 160) = true ∧ s.unacked < 15360) ∧
    (let f := install 7 161;
      starts (await f up) 7 f = true ∧ (await f up).hostOk 64 161 = true) ∧
    (∀ op ∈ [8, 0xD], let f := install op 64;
      starts (await f up) op f = true ∧ (await f up).hostOk 64 64 = true ∧ (await f up).unacked < 15360 ∧
      starts (await f (audited 15360 up)) op f = true ∧ 15360 ≤ (await f (audited 15360 up)).unacked) ∧
    (let f := install 7 160;
      starts (await f (placed anyLast (audited 15360 up))) 7 f = true) := by decide +kernel

/-- A descriptor that reads out to host address 64. -/
def readOut (op len : Nat) : InFlight := desc op 0 [(0x20, 64), (0x28, len)]

theorem hostOk_up (a n : Nat) : up.hostOk a n = true := by simp [State.hostOk, up, State.reset, HostLink.reset]

theorem witness_ReadOutDescriptors :
    (∀ m ∈ [Mode.check, .ready, .held, .limp, .shutdown], starts (await (readOut 0xC 8128) (inMode m up)) 0xC (readOut 0xC 8128) = true) ∧
    starts (await (readOut 0xC 8127) up) 0xC (readOut 0xC 8127) = true ∧ (readOut 0xC 8127).u32 0x28 < 8128 ∧
    ({ up with mram := { Mram.reset with plan := TwoCopy.both (some Plan.empty) } } : State).storedPlan = some Plan.empty ∧
    starts (await (readOut 0xF 128) up) 0xF (readOut 0xF 128) = true ∧ starts (await (readOut 0x10 64) up) 0x10 (readOut 0x10 64) = true ∧
    starts (await (readOut 0x10 63) up) 0x10 (readOut 0x10 63) = true ∧ (readOut 0x10 63).u32 0x28 < 64 := by decide +kernel

/-! ## Witnesses: keys, identity, tests on command, debug, firmware -/

/-- A request of KEY_EXCHANGE on slot 15: its first bytes, then zeros. -/
def keyIn (op len : Nat) : List Byte := [BitVec.ofNat 8 op, 15] ++ List.replicate (len - 2) 0
/-- The descriptor that carries it, at host address 64, with OUT at 4096. -/
def keyDesc (op : Nat) : InFlight := desc 9 0 [(0x10, 64), (0x18, keyLength op), (0x20, 4096), (0x28, 4948)]
/-- Key slot 15 in a state, offered at count 0. -/
def slotted (st : SlotState) (s : State) : State := s.setKeySlot 15 { SecSlot.empty with state := st }
def keyState (op : Nat) (st : SlotState) : State := await (keyDesc op) (placed (keyIn op (keyLength op)) (slotted st up))

theorem keyRequest (op : Nat) (st : SlotState) (h : starts (keyState op st) 9 (keyDesc op) = true ∧ (keyState op st).unacked < 15360 ∧
    (keyDesc op).u32 0x18 ≤ 2 ^ 20 ∧ (keyDesc op).u32 0x28 ≤ 2 ^ 24 ∧ (keyState op st).host.up = true ∧ (keyState op st).host.failing = [] ∧
    keyForm ((keyState op st).hostRead ((keyDesc op).u64 0x10) ((keyDesc op).u32 0x18)) = true) :
    ∃ b, KeyRequest (keyState op st) 0 0 (keyDesc op) b := by
  have ok : ∀ a n, (keyState op st).hostOk a n = true := by
    intro a n
    simp [State.hostOk, h.2.2.2.2.1, h.2.2.2.2.2.1]
  exact ⟨_, starts_of h.1, h.2.1, h.2.2.1, h.2.2.2.1, ok _, ok _ _, rfl, h.2.2.2.2.2.2⟩

theorem witness_KeyExchange :
    (∃ b, KeyRequest (keyState 0 .empty) 0 0 (keyDesc 0) b) ∧ (∃ b, KeyRequest (keyState 0 .offered) 0 0 (keyDesc 0) b) ∧
    (∃ b, KeyRequest (keyState 1 .offered) 0 0 (keyDesc 1) b) ∧ (∃ b, KeyRequest (keyState 2 .ready) 0 0 (keyDesc 2) b) ∧
    (∃ b, KeyRequest (keyState 2 .bound) 0 0 (keyDesc 2) b) ∧ (∃ b, KeyRequest (keyState 1 .ready) 0 0 (keyDesc 1) b) ∧
    (keyState 0 .empty).sigExhausted = false ∧ (keyState 0 .empty).sec.entropyOk = true ∧ (keyState 0 .empty).treeReady = true ∧
    (slotted .offered { up with aon := 2400000000 }).unacked < 16384 ∧
    2400000000 ≤ (({ up with aon := 2400000000 } : State).aon - ((slotted .offered up).keySlot 15).offeredAt).toNat ∧
    ({ up with sec := { Sec.reset with ideSet := true } } : State).linked = true := by
  refine ⟨keyRequest _ _ ?_, keyRequest _ _ ?_, keyRequest _ _ ?_, keyRequest _ _ ?_, keyRequest _ _ ?_, keyRequest _ _ ?_, ?_⟩ <;>
    decide +kernel

/-- An ATTEST descriptor with its 64-byte request at host address 64. -/
def attestDesc : InFlight := desc 0xA 0 [(0x10, 64), (0x18, 64), (0x20, 4096), (0x28, 4020)]

theorem witness_Attestation :
    starts (await attestDesc up) 0xA attestDesc = true ∧ attestDesc.u32 0x18 = 64 ∧ attestDesc.u32 0x28 = 4020 ∧
    le ((await attestDesc up).hostRead 64 64) 32 4 = 0 ∧ zeros ((await attestDesc up).hostRead 64 64) 36 28 = true ∧
    (await attestDesc up).sigExhausted = false ∧ (await attestDesc up).treeReady = true ∧
    ({ up with mram := { Mram.reset with sigIndex := TwoCopy.both (2 ^ 30) } } : State).sigExhausted = true := by decide +kernel

/-- A BIST descriptor of a kind and stacks. -/
def bistDesc (kind mask : Nat) : InFlight := desc 0xB 0 [(0x10, kind), (0x11, mask)]
/-- The same, started. -/
def started (f : InFlight) : InFlight := { f with started := true }

theorem witness_BistCommands :
    (∀ k ∈ [0, 1, 2], starts (await (bistDesc k 0) up) 0xB (bistDesc k 0) = true ∧ starts (await (bistDesc k 0x81) hosting) 0xB (bistDesc k 0x81) = true ∧
      (hosting.jobOn 0).isSome = true ∧ (up.jobOn 7).isNone = true ∧ up.bistWaits 0x81 = false ∧ (bistDesc k 0x81).bistKind = k ∧
      (bistDesc k 0x81).bistMask = 0x81) ∧
    (let f := started (bistDesc 2 0x81);
      (await f up).findDesc 0 0 = some f ∧ f.opcode = 0xB ∧ f.bistKind = 2 ∧ (await f up).dev.mode = .ready ∧ (await f up).bistWaits f.bistMask = false) := by
  decide +kernel

/-- A DEBUG descriptor: operation, lane, OUT and its length, and group. -/
def debugDesc (op group : Nat) : InFlight :=
  desc 0xE 1 ([(0x10, op), (0x11, 31), (0x14, group)] ++ if op = 2 then [(0x18, 64), (0x20, 2 ^ 20)] else [])
theorem witness_DebugOperations :
    (∀ op ∈ [1, 2, 3, 4], starts (await (debugDesc op 0) (run (grp []))) 0xE (debugDesc op 0) = true ∧ (debugDesc op 0).debugOp = op ∧
      img.readLength ≤ 2 ^ 20 ∧ (await (debugDesc op 0) (run (grp []))).jobFlag job1 2 = true ∧
      (await (debugDesc op 0) (policed 0x68 (run (grp [])))).jobFlag job1 2 = false ∧
      starts (await (debugDesc op 0) (policed 0x68 (run (grp [])))) 0xE (debugDesc op 0) = true ∧
      (run (grp [])).findGroup 1 0 = some (0, 0, grp []) ∧ (run (grp [])).findGroup 1 7 = none ∧ (run (grp [])).unacked < 15360) ∧
    (let g := { grp [] with halted := true };
      let s := await (debugDesc 3 0) (run g);
      s.findGroup 1 0 = some (0, 0, g) ∧ g.isLive 31 = true ∧
      (let u := s.setGroup 0 0 { g with halted := false };
        (u.runWord (at0 31) (job1.codeWord 0)).tile 0 ≠ u.tile 0 ∧
          (smFind ((u.runWord (at0 31) (job1.codeWord 0)).tile 0).groups 0).isSome = true ∧ (u.runWord (at0 31) (insWord 8 0 0)).present 1 = true)) ∧
    (let f := started (debugDesc 3 0);
      (await f (run (grp []))).findDesc 0 0 = some f ∧ f.opcode = 0xE ∧ f.debugOp = 3 ∧
        (await f (run { grp [] with stepped := true })).findGroup 1 0 = some (0, 0, { grp [] with stepped := true })) := by
  decide +kernel

/-- FW_LENGTH. -/
def ofLength (n : Word) : State := withReg 0x58 n up
/-- An install in progress with its image. -/
def installing (failed : Bool) (img : List Byte) : State :=
  { up with mgt := { Mgt.reset with fwBusy := true, fwReadFailed := failed, fwImage := img } }

theorem witness_FirmwareInstalls :
    (∀ n ∈ [0, 1, 2 ^ 26, 2 ^ 26 + 1], (ofLength (BitVec.ofNat 32 n)).linked = true ∧ (ofLength (BitVec.ofNat 32 n)).ideBlocks = false ∧
      (ofLength (BitVec.ofNat 32 n)).unacked < 15359 ∧ (ofLength (BitVec.ofNat 32 n)).fwLength = n) ∧
    (inMode .boot up).linked = true ∧ (inMode .bringup up).linked = true ∧ (ofLength 1).hostOk (ofLength 1).fwAddress 1 = true ∧
    (installing true []).unacked < 16384 ∧ (installing true []).dev.mode ≠ .limp ∧ firmwareOf [] (installing false []).mgt.fwImage = none := by
  decide +kernel

/-! ## Witnesses: jobs, the host link, resets and the bring-up -/

/-- Puts a little-endian value of `n` bytes at an offset of a text. -/
def poke (off n v : Nat) (b : List Byte) : List Byte := b.take off ++ natToBytes n v ++ b.drop (off + n)

/-- An unsigned image of one stack: 8 registers, one kernel of one group, 64 bytes of code. -/
def image0 : List Byte :=
  poke 0 4 0x534C4E31 (poke 4 2 1 (poke 8 4 448 (poke 0xC 1 1 (poke 0xE 1 8 (poke 0x16 2 1 (poke 0x20 8 (2 ^ 21) (poke 0xF0 4 0x140
    (poke 0xFC 4 0x180 (poke 0x100 4 64 (poke 0x148 4 1 (List.replicate 448 0)))))))))))
def launchDesc : InFlight := desc 1 1 [(0x10, 64), (0x18, 448)]

/-- READY with every tile of stack 0 out of service. -/
def noTiles (s : State) : State := { s with plan := { Plan.empty with tile := (List.range 52).map fun t => (t, ⟨2, 0, 0⟩) } }
/-- A SUSPEND, RESUME or ABORT of job 1 with a context region of 160 bytes at device address 0. -/
def jobDesc (op : Nat) : InFlight := desc op 1 (if op = 4 then [] else [(0x10, 0), (0x18, 0xA0)])
/-- Job 1 after a SUSPEND. -/
def parked : State := { next (.suspend 0 0) (await (jobDesc 2) (noTiles hosting)) with inflight := [] }

theorem witness_JobCommands :
    (let s := await launchDesc (placed image0 up);
      starts s 1 launchDesc = true ∧ s.unacked < 15360 ∧ s.hostOk 64 448 = true ∧ imageForm (s.hostRead 64 448) = true ∧
        (match s.launchCheck 1 (s.hostRead 64 448) with
          | .ok _ => true
          | .error _ => false) = true ∧ s.testsOn 1 = false ∧ (imageOf (s.hostRead 64 448)).argLength = 0 ∧
        ({ s with welt := ⟨[], [(0, { WeltStack.reset with due := true })]⟩ } : State).testsOn 1 = true ∧
        imageForm ((await launchDesc up).hostRead 64 448) = false ∧ starts (await launchDesc up) 1 launchDesc = true) ∧
    (let s := await { launchDesc with bytes := launchDesc.bytes + 2 ^ 64 } (placed image0 hosting);
      (match s.admitJob 2 (s.hostRead 64 448) with
        | .ok _ => true
        | .error _ => false) = true ∧ ∃ e ∈ s.jobs, e.2.image.stackBits &&& (imageOf (s.hostRead 64 448)).stackBits ≠ 0) ∧
    (let v := { job1 with nextGroup := 0 };
      let s : State := { up with jobs := [(1, v)], tiles := [(51, { Tile.reset with power := .on })] };
      s.jobOn 0 = some 1 ∧ v.runs = true ∧ v.image.kernelOf 0 = some ⟨0, 0, 1, 4⟩ ∧ s.tileOk 51 = true ∧ 0 < v.image.groupsPerTgp ∧
        s.groupAt 51 3 0 = none ∧ (s.tile 51).power = .on ∧ (s.region 0 51).state ≠ .parked ∧
        ∀ p ∈ [Power.ramping, .parked], ({ s with tiles := [(51, { Tile.reset with power := p })] } : State).tileOk 51 = true) ∧
    (let s := await (jobDesc 2) (noTiles hosting);
      starts s 2 (jobDesc 2) = true ∧ job1.suspended = false ∧ s.otherSuspend (jobDesc 2) = false ∧ job1.image.region 0 0xA0 = true ∧
        s.contextBound img ≤ 0xA0 ∧ s.drained img = true ∧
        (let m := (s.markStarted 0 0).setJob 1 { job1 with suspending := true };
          let w := (m.jobTiles img).foldl (fun t n => if h : n < 416 then t.flushL1 ⟨n, h⟩ false else t)
            (m.unpark fun k => img.stackBits.getLsbD k);
          ((w.writeMem img byFirmware 0 (w.contextOf job1)).toOption.map fun x => x.present 1) = some true) ∧
        0xA0 < (await (jobDesc 2) hosting).contextBound img ∧ starts (await (jobDesc 2) hosting) 2 (jobDesc 2) = true ∧
        (run { grp [] with vout := 1 }).drained img = false) ∧
    (let s := await (jobDesc 3) parked;
      starts s 3 (jobDesc 3) = true ∧ ((s.job 1).map fun v => (v.suspended, v.ended)) = some (true, none) ∧
        (((s.markStarted 0 0).readMem img byFirmware 0 0x80).toOption.bind fun r => if 0xA0 ≤ le r.1 0x10 8 then
          (r.2.readMem img byFirmware 0 (le r.1 0x10 8)).toOption.map fun q => (r.2.present 1, q.2.present 1, q.2.contextCheck q.1 img, le q.1 8 8 % 65536) else none) =
            some (true, true, none, 128) ∧
        starts (await (jobDesc 3) hosting) 3 (jobDesc 3) = true) ∧
    starts (await (jobDesc 4) hosting) 4 (jobDesc 4) = true := by decide +kernel

/-- Job 1 ended with OK, its LAUNCH in flight. -/
def ended : State :=
  { await { launchDesc with started := true } up with jobs := [(1, { job1 with ended := some (JobEnd.plain 0 0 1), keySlot := some 3 })] }

theorem witness_JobEndsAndHostLink :
    ended.dev.shuttingDown = false ∧ (ended.job 1).map (fun v => v.ended.map fun e => e.silent) = some (some false) ∧
    (ended.findDesc 0 0).isSome = true ∧ (∀ g ∈ ended.inflight, g.ring = 0 → g.idx = 0 → g.opcode = 1) ∧
    hosting.host.up = true ∧ hosting.unacked < 16000 ∧
    ({ up with host := { up.host with up := false } } : State).host.up = false := by decide +kernel

/-- A state of the bring-up. -/
def bringing (b : BringStep) (s : State) : State := { s with dev := { s.dev with mode := .bringup, step := b } }
def boots : State := { up with dev := { up.dev with mode := .boot, step := .pair } }

theorem witness_ResetsAndDeviceFaults :
    (∀ m ∈ [Mode.check, .ready, .held, .boot, .bringup, .limp, .shutdown], (inMode m up).linked = true ∧ (inMode m up).unacked < 16384 ∧
      (inMode m up).dev.slotChanged = false ∧ (inMode m up).dev.latched = none ∧ (inMode m up).mram.bbHead < 60000) ∧
    (∀ m ∈ [Mode.check, .ready, .held], (let s := inMode m up; { s with dev.slotChanged := true } : State).linked = true) ∧
    (({ up with host := { up.host with up := false } } : State).linked = false) ∧
    (∀ k ∈ [ResetKind.warm, .compute], ∀ m ∈ [Mode.check, .ready, .held, .limp],
      let d := { (inMode m up).dev with heldReset := some k }; d.heldReset = some k ∧ d.mode = m ∧ d.latched = none) ∧
    (({ up.dev with stackUp := 0x7E } : Dev).stackUp.getLsbD 7 = false) ∧
    (∀ k ∈ [0, 7], ({ up.dev with stackUp := 0x81 } : Dev).stackUp.getLsbD k = true) := by decide +kernel

theorem witness_BringUpSteps :
    State.reset.dev.mode = .off ∧ up.dev.mode ≠ .off ∧ boots.dev.mode = .boot ∧ boots.dev.step = .pair ∧
    (∀ a b, boots.pairOf a b = none) ∧
    (∀ e ∈ [(0, (0 : BitVec 8)), (1, 1), (7, 0x7F)], let s := { bringing .power up with dev := { (bringing .power up).dev with stackSettled := e.2 } };
      s.dev.waitInput = false ∧ s.dev.stackSettled.toNat = 2 ^ e.1 - 1 ∧ (s.brokenOn e.1).length < 3 ∧ (s.brokenOn (8 + e.1)).length < 3 ∧
        s.noPower e.1 = false) ∧
    (bringing .power up).dev.stackSettled.toNat ≠ 2 ^ 1 - 1 ∧ (bringing .tests up).dev.step = .tests ∧
    (bringing .training up).dev.hbmTrained = false ∧ (bringing .plan up).dev.step = .plan ∧
    (∀ b ∈ [(0 : BitVec 8), 0x80], ({ up.dev with stackReset := b } : Dev).mode = .ready) ∧
    (∀ w ∈ [true, false], let d := { (bringing .slip up).dev with slip := some ⟨w, false⟩ };
      d.mode = .bringup ∧ d.step = .slip ∧ d.slip = some ⟨w, false⟩ ∧ d.latched = none) ∧
    (inMode .check up).dev.mode = .check ∧ up.dev.mode ≠ .check := by decide +kernel

/-! ## Witnesses: power and heat -/

def powered (p : Pwr) : State := { up with pwr := p }

theorem witness_InputAndPowerTier :
    (let p := { Pwr.reset with windowCount := 1, windowSum := 5001 };
      (powered p).dev.mode = .ready ∧ 0 < p.windowCount ∧ (powered p).tier * 1 < 5001) ∧
    (let s := { powered { Pwr.reset with active := true, requestAt := 5 } with aon := 5 };
      s.dev.mode = .ready ∧ s.pwr.judged = false ∧ s.pwr.requestAt.toNat ≤ s.aon.toNat) ∧
    100 ≤ (powered { Pwr.reset with fastRun := 100 }).pwr.fastRun ∧ (powered { Pwr.reset with fastRun := 99 }).pwr.fastRun < 100 ∧
    up.mram.bbHead < 60000 ∧ up.dev.latched = none ∧ up.dev.mode ≠ .off ∧ State.reset.dev.mode = .off ∧ (inMode .aon up).dev.mode = .aon := by
  decide +kernel

/-- READY with stacks 0 and 7 powered and one region of stack 0 given. -/
def regioned (r : Nat) (g : Region) : State :=
  { hosting with dev := { hosting.dev with stackUp := 0x81 }, pwr := { Pwr.reset with regions := [(r, g)] } }
def gOn : Region := { Region.reset with state := .on }

theorem witness_PhaseAndRegionFailures :
    (∀ r ∈ [0, 51, 52, 55], ∀ g ∈ [gOn, { gOn with failed := 2 }, { gOn with failed := 3 }], let s := regioned r g;
      s.dev.stackUp.getLsbD 0 = true ∧ s.defects.phases = [] ∧ s.mram.bbHead < 60000 ∧ (s.region 0 r).state ≠ .dark) ∧
    (let s := { regioned 0 gOn with pwr := { Pwr.reset with drop := [(0, 100), (1, 99)] } };
      100 ≤ smGet 0 s.pwr.drop 0 ∧ smGet 0 s.pwr.drop 1 < 100) ∧
    (∀ g ∈ [gOn, { gOn with state := .ramping }, { gOn with trips := 1 }], (regioned 0 g).dev.stackUp.getLsbD 0 = true ∧
      ((regioned 0 g).region 0 0).state ∈ [Power.on, .ramping] ∧ (regioned 0 g).defects.modulePhases = []) ∧
    ((regioned 0 { gOn with state := .off }).region 0 0).state ∉ [Power.on, .ramping] ∧
    (let s := regioned 0 { gOn with state := .off, tripped := some 3 };
      (s.region 0 0).tripped = some 3 ∧ s.jobOn 0 = some 1 ∧ s.present 1 = true) := by decide +kernel

theorem witness_TransientsRampsAndGating :
    (∀ g ∈ [gOn, { gOn with boost := .recovering, releasedAt := 0 }, { gOn with boost := .engaged }, { gOn with halved := true }],
      ({ regioned 0 g with aon := 320 } : State).region 0 0 = g) ∧
    (let s := { regioned 0 { gOn with boost := .recovering } with aon := 319 };
      s.aon.toNat < (s.region 0 0).releasedAt + 320) ∧
    (let s := regioned 0 { Region.reset with waiting := true };
      ((s.measure 0 []).region 0 0).waiting = true ∧ (s.measure 0 []).ramping 0 < 4 ∧ (s.measure 0 []).blocked 0 0 = false) ∧
    (let s := { regioned 0 { Region.reset with waiting := true } with pwr := { Pwr.reset with regions := [(0, { Region.reset with waiting := true }), (1, gOn)] } };
      ((s.measure 0 [⟨1, 0xFFFF⟩]).region 0 0).waitAt = none ∧ (s.measure 0 [⟨1, 0xFFFF⟩]).blocked 0 0 = true) ∧
    (let s := { regioned 0 { Region.reset with waiting := true, waitAt := some 0 } with aon := 1600 };
      s.ramping 0 < 4 ∧ 0 + 1600 ≤ s.aon.toNat) ∧
    (let s := { hosting with tiles := [(51, { Tile.reset with power := .on })] };
      s.jobOn 0 = some 1 ∧ job1.runs = true ∧ (s.tile 51).power = .on ∧ s.tileIdle 51 = true) ∧
    (let s := { up with dev := { up.dev with stackUp := 0x81 } };
      s.dev.stackUp.getLsbD 7 = true ∧ s.pwr.gated.getLsbD 7 = false ∧ s.idleStack 7 = true ∧ hosting.idleStack 0 = false) := by decide +kernel

/-- A device whose stacks are powered, whose sensors are read. -/
def sensing (m : Mode) : State := { inMode m up with dev := { (inMode m up).dev with stackUp := 0xFF, hbmTrained := true } }

/-- Every sensor of the soles and the I/O dies at 69.75 °C. -/
def coolSensors : SMap Sensor := (List.range 10).flatMap fun d => (List.range (dieSensors (8 + d))).map fun n =>
  (96 * (8 + d) + n, { Sensor.reset with windowMax := some 279 })

theorem witness_ThermalManagement :
    (∀ d ∈ [0, 7, 8, 15, 16, 17, 18, 33], let s := sensing .ready;
      0 < dieSensors d ∧ s.sensorRead d 0 = true ∧ s.sensorBroken d 0 = false ∧ (s.sensor d 0).windowMax = none ∧ s.takesPart d = true) ∧
    (∀ d ∈ [0, 33], State.reset.sensorRead d 0 = false) ∧ dieSensors 33 ≤ 1 ∧
    (sensing .ready).hotStacks = 0 ∧ (dieLimits 18).rises = none ∧
    (let s := { up with dev := { up.dev with shuttingDown := true } };
      s.dev.shuttingDown = true ∧ s.unacked < 15000) ∧
    (let s := { inMode .shutdown up with thm := { Thm.reset with ack := true, sensors := coolSensors } };
      s.exitBlocked = false ∧ (∀ d < 18, 8 ≤ d → ∀ n < dieSensors d, (s.sensor d n).windowMax = some 279) ∧ s.dev.latched = none) ∧
    (let s := { inMode .shutdown up with thm := { Thm.reset with sensors := [(96 * 17 + 3, { Sensor.reset with windowMax := some 280 })] } };
      3 < dieSensors 17 ∧ s.sensorBroken 17 3 = false ∧ (s.sensor 17 3).windowMax = some 280) ∧
    (let s := { up with thm := { Thm.reset with active := true } };
      s.thm.judged = false ∧ s.thm.requestAt.toNat ≤ s.aon.toNat) := by decide +kernel

/-! ## Witnesses: the welt -/

/-- READY with all welts trained and one channel given. -/
def welted (x : WeltChan) (u : WeltStack) : State :=
  { up with dev := { up.dev with stackUp := 0xFF, weltTrained := 0xFF }, welt := ⟨[(0, x)], [(0, u)]⟩ }
def beat0 : Beat := ⟨0, 0, 0, 0, 0⟩
/-- A locked channel. -/
def locked : WeltChan := { WeltChan.reset with locked := true }
def fullDir : WeltDir := { WeltDir.reset with sent := 64, replay := List.replicate 64 beat0 }

theorem witness_WeltBeatsAndReplay :
    (let s := welted locked WeltStack.reset;
      s.weltOpen 0 = true ∧ ((s.chan 0).dir false).resend = [] ∧ ((s.chan 0).dir false).replay.length < 64 ∧
        ((s.chan 0).dir false).sent = ((s.chan 0).dir false).expect ∧
        (newBeat s 0 false 0 []).1.header = 0) ∧
    (let s := welted { locked with up := { fullDir with resend := fullDir.replay } } WeltStack.reset;
      s.weltOpen 0 = true ∧ ((s.chan 0).dir false).resend = beat0 :: List.replicate 63 beat0 ∧ beat0.num = ((s.chan 0).dir false).expect) ∧
    (welted locked { WeltStack.reset with quiescing := true }).weltOpen 0 = true ∧
    (let s := welted { locked with up := fullDir } WeltStack.reset;
      s.weltOpen 0 = true ∧ 64 ≤ ((s.chan 0).dir false).replay.length) ∧ (welted WeltChan.reset WeltStack.reset).weltOpen 0 = false ∧
    (∃ b ∈ fullDir.replay, b.num = 0) ∧ (∀ b ∈ fullDir.replay, b.num ≠ 1) ∧ State.reset.weltOpen 0 = false ∧
    (∃ b ∈ (((welted { WeltChan.reset with up := fullDir } WeltStack.reset).chan 0).dir false).replay, b.num = 0) ∧
    (((welted { WeltChan.reset with down := fullDir } WeltStack.reset).chan 0).dir true).replay.length = 64 := by decide +kernel

/-- An error in the CRC of a beat is a mismatch. -/
theorem crc_error (c : BitVec 16) : c ≠ c ^^^ (1 : BitVec 16) := by
  intro h
  have e : c ^^^ c = c ^^^ (c ^^^ 1) := congrArg (c ^^^ ·) h
  rw [← BitVec.xor_assoc, BitVec.xor_self, BitVec.zero_xor] at e
  exact absurd e (by decide)

theorem witness_WeltMismatch : let e : BitVec 4120 := BitVec.ofNat 4120 (2 ^ 4104);
    e.extractLsb' 0 4096 = 0 ∧ e.extractLsb' 4096 8 = 0 ∧ e.extractLsb' 4104 16 = 1 := by decide +kernel

theorem witness_WeltTestsAndTraining :
    (let s := welted { WeltChan.reset with repairing := true } WeltStack.reset;
      (s.chan 0).repairing = true ∧ (s.plan.get .welt 0).detail = s.weltDetail 0 ∧ ∀ n < 64, (s.chan n).retiring = none) ∧
    (let s := welted WeltChan.reset { WeltStack.reset with due := true };
      (s.weltStack 0).due = true ∧ s.stackFree 0 = true ∧ s.pwr.gated.getLsbD 0 = false) ∧
    (welted WeltChan.reset { WeltStack.reset with testing := true }).weltStack 0 = { WeltStack.reset with testing := true } ∧
    (let s := bringing .training { up with dev := { up.dev with stackUp := 0xFF } };
      s.dev.mode = .bringup ∧ s.dev.step = .training ∧ s.dev.weltTrained.getLsbD 7 = false ∧ s.dev.stackUp.getLsbD 7 = true ∧ s.weltTrains (64 * 7) = true) ∧
    (let s := welted WeltChan.reset { WeltStack.reset with quiescing := true };
      (s.weltStack 0).quiescing = true ∧ ∀ n < 64, (s.chan n).retiring = none) := by
  decide +kernel

/-! ## Witnesses: the fabric -/

/-- A port in service with full credit. -/
def portUp : FabPort :=
  { FabPort.reset with up := true, width := 8, lanes := 0xFF, neighbourValid := true, neighbourId := 2, neighbourSerial := 5
                       credits := [(0, 256), (1, 256), (2, 256), (3, 256), (4, 16)] }
/-- READY with fabric ID 1, job 1, and port 0 as given; the group of fabric ID 2 is reached through it. -/
def linked (x : FabPort) : State :=
  { hosting with fabric := { (State.reset).fabric with ownId := 1, ports := [(0, x)] }
                 mram := { Mram.reset with memberTable := [(2, { RouteEntry.none with hop0 := 0, mask := 3 })] } }
/-- What a training attempt meets. -/
def far (lanes : BitVec 8) (serial : Dword) : FarEnd := ⟨0xFF, lanes, serial, 2, 3, true, true⟩
/-- The port training of step 7. -/
def training (n : Nat) : State :=
  bringing .ports { linked FabPort.reset with dev := { up.dev with attempts := smSet 0 [] 0 n } }

theorem witness_PortTraining :
    (∀ n ∈ [0, 2], (training n).portTrains 0 = true ∧ ((training n).port 0).retraining = false ∧ smGet 0 (training n).dev.attempts 0 = n ∧
      KeysGranted (training n) 5) ∧
    (far 1 5).nearLanes &&& (far 1 5).farLanes ≠ 0 ∧ (far 0xFF 5).serial ≠ up.part.serial ∧ (far 1 0).serial = up.part.serial ∧
    (∀ s ∈ [{ training 0 with mram := { Mram.reset with sigIndex := TwoCopy.both (2 ^ 15) } }], s.sigExhausted = false ∧ s.treeReady = false) ∧
    (linked portUp).portTrains 0 = false ∧
    (let x := { portUp with retraining := true };
      ((linked x).port 0).needKeys = false ∧ x.neighbourSerial = 5 ∧ x.up = true) ∧
    (let s := { linked FabPort.reset with plan := { Plan.empty with port := [(0, ⟨4, 8, 0⟩)] } };
      s.dev.mode = .ready ∧ s.portLicensed 0 = true ∧ (s.plan.get .port 0).state = 4 ∧ (s.port 0).up = false ∧ KeysGranted s 5) := by
  unfold KeysGranted
  decide +kernel

theorem witness_RetrainAndRenewal :
    HostMayWrite (linked portUp) ∧ (linked portUp).fabSel < 18 ∧ (linked portUp).dev.mode = .ready ∧ (2 : Word).getLsbD 1 = true ∧
    (2 : Word).getLsbD 0 = false ∧ (1 : Word).getLsbD 0 = true ∧ (1 : Word).getLsbD 1 = false ∧
    (∀ x ∈ [{ portUp with txCount := 2 ^ 40 }, { portUp with rxCount := 2 ^ 40 }, { portUp with renewalFailed := true }],
      ((linked x).port 0).up = true ∧ ((linked x).port 0).retraining = false ∧ ((linked x).port 0).rxNext = none ∧ KeysGranted (linked x) 5) ∧
    ({ portUp with txCount := 2 ^ 40 - 1 } : FabPort).txCount < 2 ^ 40 ∧
    ({ linked portUp with sec := { Sec.reset with entropyOk := false } } : State).sec.entropyOk = false := by
  unfold KeysGranted HostMayWrite
  decide +kernel

/-- A flit of channel 0 that is a whole message of 40 bytes. -/
def flit0 : Flit := ⟨1, 0, true, true, 40, 7⟩
/-- A KEY flit. -/
def keyFlit : Flit := ⟨3, 4, true, true, 40, 7⟩
/-- A port with that flit waiting. -/
def sending (f : FabPort → FabPort) : State := linked (f { portUp with queue := [flit0] })

theorem witness_FlitsSentAndReplayed :
    (((sending id).port 0).pick.map fun e => (e.1, e.2.1)) = some (flit0, []) ∧ (((sending id).port 0).owed = [] ∧
      ((sending id).port 0).awl.armed = false ∧ ((sending id).port 0).awl.held = none ∧ ((sending id).port 0).txCount + 1 < 2 ^ 40 + 2 ^ 32) ∧
    (let x := (sending fun x => { x with queue := [keyFlit, flit0] }).port 0;
      takeFlit 4 x.queue = some (keyFlit, [flit0]) ∧ x.pick.map (·.1) = some keyFlit ∧ x.txCount < 2 ^ 40 + 2 ^ 32) ∧
    (let x := (sending fun x => { x with queue := [{ flit0 with som := false }] }).port 0;
      takeFlit 4 x.queue = none ∧ takeFlit 0 x.queue = some ({ flit0 with som := false }, []) ∧ 0 < smGet 0 x.credits 0) ∧
    portUp.queue = [] ∧ portUp.pick = none ∧ (∀ n < 5, smGet 0 ({ portUp with credits := [] } : FabPort).credits n = 0) ∧
    1024 ≤ ({ portUp with replay := List.replicate 1024 (0, 0) } : FabPort).replay.length ∧
    ({ portUp with nakFrom := some 0 } : FabPort).nakFrom.isSome = true ∧
    (let x := { portUp with replay := [(5, 1), (6, 2)] };
      ((linked x).port 0).replay = [(5, 1), (6, 2)] ∧ (1 + 1) < ((8 : BitVec 16) - 5).toNat ∧ ((5 : BitVec 16) - 5).toNat ≤ 1 ∧
        ((6 : BitVec 16) - 5).toNat ≤ 1) := by decide +kernel

theorem witness_FlitsReceived :
    (let bs := natToBytes 256 (sealedFlit portUp flit0).toNat;
      flitIntact bs = true ∧ byteAt bs 0 = 1 ∧ field2 bs 2 = portUp.expectLseq.toNat ∧ (portUp.openFlit bs).isSome = true ∧
        byteAt bs 1 / 32 = 0 ∧ ({ portUp with rxKey := 1 } : FabPort).openFlit bs = none ∧ field2 bs 2 ≠ (1 : BitVec 16).toNat) ∧
    (let bs := natToBytes 256 (portUp.form keyFlit).1.toNat;
      flitIntact bs = true ∧ byteAt bs 0 = 3 ∧ field2 bs 2 = portUp.expectLseq.toNat ∧ field2 bs 2 ≠ (1 : BitVec 16).toNat) ∧
    (∀ w ∈ [(⟨7, 16, true⟩ : LaneCodeword), ⟨0, 17, false⟩], portUp.lanes.getLsbD w.lane.val = true ∧ 15 < w.symbols) ∧
    flitIntact (natToBytes 256 1) = false ∧ portUp.fails + 1 < 8 ∧ portUp.window + 1 ≤ (linked portUp).errLevel ∧
    8 ≤ ({ portUp with fails := 7 } : FabPort).fails + 1 ∧ (linked portUp).errLevel < ({ portUp with window := 64 } : FabPort).window + 1 := by
  decide +kernel

theorem witness_AwlArmingAndActions :
    (∀ e ∈ awlRows, (BitVec.ofNat 32 (e.2 + 0x10000)).toNat % 4 = e.2 ∧ (BitVec.ofNat 32 (e.2 + 0x10000)).toNat / 65536 = 1 ∧
      (BitVec.ofNat 32 (e.2 + 1)).toNat % 4 ≠ e.2) ∧
    HostMayWrite (linked portUp) ∧ (linked portUp).fabSel < 18 ∧ (linked portUp).flag 3 = true ∧
    18 ≤ (withReg 0x6008 18 (linked portUp)).fabSel ∧ (policed 0x64 (linked portUp)).flag 3 = false ∧
    (∀ a ∈ [1, 2, 3], let s := withReg (fabKey 0 0x120) (BitVec.ofNat 32 (a + 4)) (sending fun x => { x with awl := { Awl.reset with armed := true, remaining := 2 } });
      (((s.port 0).pick.map fun e => (e.1, e.2.1)) = some (flit0, [])) ∧ (s.port 0).owed = [] ∧ (s.port 0).awl.skipLeft = 0 ∧ (s.port 0).awl.everyLeft ≤ 1 ∧ 1 < (s.port 0).awl.remaining ∧
        s.awlCtl 0 % 4 = a ∧ s.awlCtl 0 / 4 % 2 = 1 ∧ (s.port 0).window + 1 ≤ s.errLevel) := by
  unfold HostMayWrite
  decide +kernel

theorem witness_RouteRegisters :
    HostMayWrite (withReg 0x6014 0x1FF (linked portUp)) ∧ (withReg 0x6014 0x1FF (linked portUp)).routeSel = (255, true) ∧
    (linked portUp).routeSel = (0, false) ∧ (audited 15360 up).linked = true ∧ (audited 15360 up).ideBlocks = false := by
  unfold HostMayWrite
  decide +kernel

/-- A message: operation, destination, operands and data. -/
def msgOf (op dst job red rlen hops : Nat) (data : List Byte) : Message :=
  let h := bytesToNat ((⟨2, dst, op, 0, true, job, 0, 0x77, red, 0, rlen, data⟩ : Draft).header 0 true hops)
  ⟨BitVec.ofNat 256 h, data, BitVec.ofNat 64 (msgCheck dst h data)⟩
/-- One AADD of 1 at offset 252. -/
def redData : List Byte := [252, 1, 0, 0, 1, 0, 0, 0]
/-- A peer access that a reply answers. -/
def access (size : Nat) : PeerAccess := ⟨0x77, 0, 0, 0, 1, 0, 1, 4, size, false, [0], 2, 0, true, false, 0, ⟨0, 4, false, 0, 1⟩⟩
/-- The access is outstanding for thread 0 of the group of tile 0. -/
def asking (size : Nat) : State :=
  let s := linked portUp
  { s with fabric := { s.fabric with outstanding := [access size] }, tiles := (run (grp [])).tiles }

/-- A message arrives in order at port 0. -/
def arrives (s : State) (m : Message) : Bool :=
  (s.port 0).up && decide (msgDst m = s.fabricId) && msgIntact s.fabricId m && msgOrdered m && msgFlowStart m

theorem arrives_of {s : State} {m : Message} (h : arrives s m = true) : Arrives s 0 m := by
  simp only [arrives, Bool.and_eq_true, decide_eq_true_eq] at h
  obtain ⟨⟨⟨⟨a, b⟩, c⟩, _⟩, e⟩ := h
  refine ⟨a, b, c, fun _ => ?_⟩
  rw [e]
  simp

theorem witness_PeerRequests :
    (∀ m ∈ [msgOf 0 1 1 0 4 5 [], msgOf 1 1 1 0 0 5 [1, 2], msgOf 2 1 1 0xB0 0 5 redData, msgOf 0 1 1 0 2048 5 [], msgOf 0 1 1 0 2049 5 [], msgOf 2 1 1 0x0F 0 5 redData],
      arrives (linked portUp) m = true ∧ msgOp m < 3) ∧
    msgIntact 1 { msgOf 0 1 1 0 4 5 [] with check := 0 } = false ∧ ({ hosting with fabric := { (State.reset).fabric with ownId := 0xFF } } : State).unassigned = true ∧
    (linked portUp).unassigned = false ∧ (linked portUp).present 1 = true ∧ ((linked portUp).job 2).isNone = true ∧
    (let s := linked portUp;
      (match s.peerAdmit (msgOf 0 1 1 0 4 5 []) with
        | .ok _ => true
        | .error _ => false) = true ∧
      (let g := s.inbound 0 (msgOf 0 1 1 0 4 5 []) 4;
        ((g.2.readMem img (byPort 0 g.1) 0 4).toOption.map fun r => r.2.present 1) = some true) ∧
      (let g := s.inbound 0 (msgOf 1 1 1 0 0 5 [1, 2]) 2;
        ((g.2.writeMem img (byPort 0 g.1) 0 [1, 2]).toOption.map fun u => u.present 1) = some true) ∧
      atomOfCode (0xB0 % 16) = some .aadd ∧ redAccepts .aadd (0xB0 / 16) = true ∧ atomOfCode (0x0F % 16) = none ∧
      (subRequests 4 256 redData).isSome = true ∧
      (match subRequests 4 256 redData with
        | none => false
        | some rs => rs.all (fun r => r.offset % 4 == 0 && decide (r.offset + 4 ≤ 256) && (rangeBad img r.offset 4 true).isNone) &&
          (let g := s.inbound 0 (msgOf 2 1 1 0xB0 0 5 redData) 64;
            ((State.redList img (byPort 0 g.1) .aadd 11 0 rs g.2).toOption.map fun w => w.2.present 1) == some true)) = true) := by decide +kernel

theorem witness_PeerReplies :
    (arrives (asking 4) (msgOf 3 1 1 0 0 5 [1, 2, 3, 4]) = true ∧ (asking 4).findAccess (msgOf 3 1 1 0 0 5 [1, 2, 3, 4]) = some (access 4)) ∧
    (arrives (asking 0) (msgOf 4 1 1 0 0 5 []) = true ∧ (asking 0).findAccess (msgOf 4 1 1 0 0 5 []) = some (access 0)) ∧
    (arrives (asking 4) (msgOf 5 1 1 0 0 5 []) = true ∧ (linked portUp).findAccess (msgOf 5 1 1 0 0 5 []) = none) ∧
    (smFind ((asking 0).tile 0).groups 0 = some (grp []) ∧ (grp []).id = (access 0).group) ∧
    (let s := { asking 4 with aon := 4000 * 2500 };
      s.fabric.outstanding.find? (fun a => a.tag == 0x77) = some (access 4) ∧ 4000 * max 1 (s.reg 0x600C 0x9C4 % 65536) ≤ s.aon.toNat - 0) := by
  decide +kernel

theorem witness_TransitAndBroadcast :
    (let s := linked portUp;
      let m := msgOf 0 2 1 0 4 5 [];
      (s.port 0).up = true ∧ msgDst m ≠ s.fabricId ∧ msgOp m ≠ 6 ∧ msgHops m ≠ 0 ∧ s.nextHop 2 2 0 true = some 0 ∧
        s.nextHop 2 3 0 true = none ∧ msgHops (msgOf 0 2 1 0 4 0 []) = 0) ∧
    (let s := linked portUp;
      let m := msgOf 6 0xFF 1 0 0 5 [1, 2];
      msgOp m = 6 ∧ msgDst m / 256 = s.fabricId / 256 ∧ s.unassigned = false ∧ msgIntact (s.fabricId / 256 * 256 + 0xFF) m = true ∧
        msgIntact (s.fabricId / 256 * 256 + 0xFF) { m with check := 0 } = false ∧
        (match s.peerAdmit m with
          | .ok _ => true
          | .error _ => false) = true ∧ (let g := s.inbound 0 m 2;
          (g.2.writeMem img (byPort 0 g.1) 0 [1, 2]).toOption.isSome = true) ∧
        msgDst (msgOf 6 0x1FF 1 0 0 5 []) / 256 ≠ s.fabricId / 256) := by decide +kernel

/-! ## Witnesses: steps and the sole -/

theorem witness_IdleStep : up.pending = [] ∧ up.dev.mode ≠ .off ∧ up.dev.mode ≠ .aon ∧ State.reset.pending = [] ∧ State.reset.dev.mode = .off := by decide

theorem witness_EveryStep :
    State.reset.memoriesWf = true ∧ (match step State.reset with | .next t => t.dev.mode == .off | _ => false) = true ∧
    ({ up with pending := [.twelveVGood] } : State).memoriesWf = true ∧
    (match step { up with pending := [.twelveVGood] } with | .next t => t.pending == [] | _ => false) = true := by decide +kernel

theorem witness_NoCommandIsRefused : Instr.twelveVGood.wf = true ∧ (Instr.registerWrite 0x1004 1).wf = true := by decide

/-- Job 1 holds stack 0, slices may be tacked, and line 0 of the stack is as given. -/
def lineIs (e : SoleLine) : State :=
  withReg (indKey 0 0) 0x10000 { run (grp []) with sole := { Sole.reset with lines := smSet SoleLine.absent [] 0 e } }
/-- A line with all its bytes, and no copies. -/
def whole : SoleLine := { SoleLine.absent with valid := ~~~0, sectors := 0xF, present := true }
/-- The same held by tile 5. -/
def owned : SoleLine := { whole with dir := .m, owner := 5 }
/-- A line that holds none of its bytes. -/
def bare : SoleLine := { whole with valid := 0 }
/-- A reduction of one word. -/
def addOne : RedRequest := ⟨.aadd, 11, [⟨0, 8, 1⟩], .thread (at0 0), 3⟩
/-- A header and a request under it. -/
def hdr0 : Hdr := ⟨0, 4, false, 0, 1⟩
def ask (r : Request) : Asked := ⟨r, hdr0⟩
/-- Some line is free or takes its place. -/
def fits (s : State) (e : SoleLine) : Bool :=
  match s.fit 0 e [] with
  | some e' => !e'.isLong
  | none => false
/-- A request reaches line 0's home slice, which has an entry for it. -/
def comes (s : State) (r : Request) : Bool :=
  match s.takeRequest 0 r with
  | some (a, _) => s.homed 0 a.hdr && decide (a.req = r)
  | none => false
/-- A request that comes is served on a line at once. -/
def serves (s : State) (e : SoleLine) (r : Request) : Bool :=
  comes s r && (s.recallsOf 0 r).2.isEmpty && !fetches e r && match s.takeRequest 0 r with
    | some (a, _) => (served s 0 e a).isSome
    | none => false
def l1Dirty : L1Line := ⟨7, ~~~0, 1, true, hdr0⟩

theorem witness_SoleRequests :
    redOk addOne = true ∧ State.reset.lineJob 0 = none ∧ (lineIs whole).lineJob 0 = some (1, job1) ∧
    (let s := lineIs whole;
      ({ s with qos := { s.qos with inject := [⟨0, 0, 64, 0, .getm 0⟩] } } : State).takeRequest 0 (.getm 0) = none) ∧
    (Rests (lineIs whole) 0 whole ∧ Rests (lineIs owned) 0 owned ∧ Rests (lineIs bare) 0 bare ∧ Rests (lineIs SoleLine.absent) 0 SoleLine.absent) ∧
    ((lineIs whole).tackAllowed img [0] = true ∧ (withReg (indKey 0 0) 0 (lineIs whole)).tackAllowed img [0] = false) ∧
    (∀ r ∈ [Request.gets 0 1, .getm 0, .ncrd (.dma 0) 1, .ncwr (.dma 0) 0 1, .red addOne],
      comes (lineIs owned) r = true ∧ ((lineIs owned).recallsOf 0 r).2 ≠ []) ∧
    (∀ r ∈ [Request.gets 0 1, .ncrd (.dma 0) 1, .red addOne],
      comes (lineIs bare) r = true ∧ ((lineIs bare).recallsOf 0 r).2 = [] ∧ fetches bare r = true) ∧
    (smSorted (lineIs bare).sole.lines = true ∧ comes (lineIs SoleLine.absent) (.tack false) = true ∧
      fetches SoleLine.absent (.tack false) = true ∧ (lineIs whole).tacksLong img 0 = false) ∧
    (∀ r ∈ [Request.gets 0 1, .getm 0, .ncrd .bar2 1, .ncwr (.dma 0) 0 1, .red addOne, .tack false, .untack], serves (lineIs whole) whole r = true) ∧
    (∀ r ∈ [Request.getm 0, .ncwr (.dma 0) 0 1], serves (lineIs SoleLine.absent) SoleLine.absent r = true) ∧
    (let s := lineIs whole;
      let m := NetMsg.request 0 (ask (.getm 5));
      s.sole.net = [] ∧ s.inOrder m = true ∧ s.mayCross m = true) ∧
    (let e := { whole with dir := .m, owner := 0 };
      let s := (lineIs e).updTile 0 fun x => { x with l1 := [(0, l1Dirty)] };
      smFind (s.tile 0).l1 0 = some l1Dirty ∧ s.homed 0 l1Dirty.hdr = true ∧ Rests s 0 e ∧ (s.tile 0).flips = [] ∧
        (served s 0 e ⟨.putm 0 7 1, hdr0⟩).isSome = true ∧ s.mayCross (.request 0 ⟨.putm 0 7 1, hdr0⟩) = true) ∧
    (let s := (lineIs whole).updTile 0 fun x => { x with l1 := [(0, { l1Dirty with dirty := 0 })] };
      smFind (s.tile 0).l1 0 = some { l1Dirty with dirty := 0 }) := by
  unfold Rests
  decide +kernel

theorem witness_SoleLinesServed :
    (let e := { whole with dir := .br, queue := [ask (.red addOne)] };
      (lineIs e).soleLine 0 = e ∧ e.redReady addOne = true ∧ e.isLong = false ∧ (lineIs e).hbm.soleFlips = []) ∧
    (∀ e ∈ [{ whole with dir := .br, applied := 96 }, { whole with dir := .m }], e.redReady addOne = false) ∧
    (252 : Nat) + redSize .aadd 11 ≤ 256 ∧
    (let e := { whole with dir := .br };
      (lineIs e).lineJob 0 = some (1, job1) ∧ (lineIs e).soleLine 0 = e ∧ e.deferred = false ∧ (lineIs e).hbm.passed = [] ∧
        fits (lineIs e) { e with dir := .i, applied := 0 } = true) ∧
    (let e := { whole with evicting := true, dirty := 5, txn := some ⟨ask .evict, [], false, false⟩ };
      (lineIs e).soleLine 0 = e ∧ e.valid = allBytes ∧ e.queue = [] ∧
        (∀ pg ∈ (lineIs e).linePage img 0, pg ∉ (lineIs e).unfilledPages (lineHbm 0).1)) ∧
    (let s := { lineIs whole with sole := { (lineIs whole).sole with waiting := [0] } };
      0 ∈ s.sole.waiting ∧ s.serves 1 0 = true ∧ fits s whole = true ∧ s.soleLine 0 = whole ∧ whole.txn = none) ∧
    (∀ r ∈ [Request.gets 0 1, .ncrd (.dma 0) 1],
      let e := { bare with txn := some ⟨ask r, [], true, true⟩ };
      let s := lineIs e;
      s.soleLine 0 = e ∧ s.serves 1 0 = true ∧ s.sole.waiting = [] ∧ s.hbm.flips = [] ∧ e.present = true ∧
        fits s ((e.under (s.hbmLine 0) (wholeSectors (needOf r &&& ~~~e.valid))).after 0 (ask r)) = true) ∧
    (∀ r ∈ [Request.gets 0 1, .ncrd .bar2 1, .tack false],
      let e := { SoleLine.absent with txn := some ⟨ask r, [], true, true⟩ };
      let s := lineIs e;
      s.soleLine 0 = e ∧ e.present = false ∧ e.sectors = 0 ∧ s.fillsLong img 0 = false ∧
        fits s { e with data := s.hbmLine 0, valid := allBytes, dirty := 0, dir := .i, tack := r = .tack false } = true) := by
  decide +kernel

/-- A line with messages in the network of the soles. -/
def sent (e : SoleLine) (ms : List NetMsg) : State := { lineIs e with sole := { (lineIs e).sole with net := ms } }

theorem witness_SoleMessages :
    (∀ inv ∈ [true, false], let s := sent whole [.recall 0 0 inv hdr0];
      s.arrives (recallAt 0 0 inv) = some (.recall 0 0 inv hdr0) ∧ (s.tile 0).flips = [] ∧ s.lineJob 0 = some (1, job1)) ∧
    (smFind ((sent whole []).tile 0).l1 0 = none ∧
      smFind (((sent whole []).updTile 0 fun x => { x with l1 := [(0, l1Dirty)] }).tile 0).l1 0 = some l1Dirty) ∧
    (let s := sent { owned with txn := some ⟨ask .evict, [57], false, false⟩ } [.answer 57 0 7 1 hdr0];
      (57 : Nat) / 52 ≠ lineStack 0 ∧ (∀ n ∈ s.sole.net, answerAt 58 0 n = false) ∧ (58 : Nat) / 52 = 57 / 52) ∧
    (∀ r ∈ [Request.evict, .gets 0 1], ∀ rs ∈ [[5], [5, 6]],
      let e := { owned with txn := some ⟨ask r, rs, false, false⟩ };
      let s := sent e [.answer 5 0 7 1 hdr0];
      s.arrives (answerAt 5 0) = some (.answer 5 0 7 1 hdr0) ∧ s.inOrder (.answer 5 0 7 1 hdr0) = true ∧ s.soleLine 0 = e ∧
        s.lineJob 0 = some (1, job1) ∧ rs.filter (· != 5) = (if rs = [5] then [] else [6])) ∧
    (let s := sent owned [.request 0 ⟨.getm 5, hdr0⟩, .answer 5 0 7 1 hdr0];
      s.inOrder (.answer 5 0 7 1 hdr0) = false) ∧
    (let e := { owned with txn := some ⟨ask (.gets 0 1), [5], false, false⟩ };
      let f := { (e.merge 7 1 true) with txn := none };
      fetches f (.gets 0 1) = false ∧ fits (sent e [.answer 5 0 7 1 hdr0]) (f.after 0 (ask (.gets 0 1))) = true) ∧
    (sent whole []).sole.net = [] ∧
    (∀ x ∈ [Sender.dma 0, .thread (at0 0)], (sent whole [.ack x 0 hdr0]).arrives (ackAt x) = some (.ack x 0 hdr0)) ∧
    (sent whole []).groupAt 0 0 0 = some (grp []) ∧
    (let s := sent whole [.fill 0 0 7 (~~~0) false hdr0];
      let s1 := s.updTile 0 fun x => { x with loads := [⟨0, 3, 8, 0, 252, 4, false, false⟩] };
      s.arrives (fillAt 0 0) = some (.fill 0 0 7 (~~~0) false hdr0) ∧
        (s.tile 0).loads = [] ∧ (s1.tile 0).loads = [⟨0, 3, 8, 0, 252, 4, false, false⟩] ∧ smFind (s1.tile 0).groups 0 = some (grp []) ∧
        byteRange 252 4 &&& ~~~(~~~0 : BitVec 256) = 0) ∧
    ((sent whole [.ncData (.thread (at0 0)) 0 7 hdr0]).arrives (fillAt 0 0) = some (.ncData (.thread (at0 0)) 0 7 hdr0)) ∧
    ((sent whole [.grant 0 0 hdr0]).arrives (grantAt 0 0) = some (.grant 0 0 hdr0) ∧
      (((sent whole []).updTile 0 fun x => { x with stores := [⟨0, 0, 0, 0, 7, 1⟩] }).tile 0).stores = [⟨0, 0, 0, 0, 7, 1⟩]) ∧
    (up.sliceOk 511 = true ∧ (Plan.empty.set .slice 511 ⟨2, 0, 0⟩).sliceOk 511 = false ∧
      (let x : Slice := ⟨false, 0, 0, 4096, 4096, 0, []⟩;
        4096 ≤ x.lookups ∧ up.thrashCtl % 256 < 256 * x.misses / x.lookups ∧ 256 * (⟨true, 0, 0, 4096, 0, 0, []⟩ : Slice).misses / 4096 ≤ up.thrashCtl % 256)) := by
  decide +kernel

/-- READY with HBM trained and all stacks powered, and job 1 on stack 0. -/
def scrubbed : State := { hosting with dev := { hosting.dev with hbmTrained := true, stackUp := 0xFF } }
/-- The same, with bits of the first unit of an HBM stack flipped. -/
def flipped (h : Nat) (b : Stored) : State := scrubbed.upset (.hbm (BitVec.ofNat 34 (2 ^ 30 * h)) b)

/-- One and two symbols of a unit are corrected, and three are not (R260). -/
theorem test_hbmCode :
    decodeUnit 5 (encodeUnit 5 (List.replicate 64 3)) = .clean ∧
    decodeUnit 5 (encodeUnit 5 (List.replicate 64 3) ^^^ 0xFF) = .fixed [(5, 0xFF)] ∧
    decodeUnit 5 (encodeUnit 5 (List.replicate 64 3) ^^^ BitVec.ofNat 576 (0x11 + 0x80 * 2 ^ 568)) = .fixed [(5, 0x11), (76, 0x80)] ∧
    decodeUnit 5 (encodeUnit 5 (List.replicate 64 3) ^^^ 0x010101) = .bad ∧
    decodeUnit 4 (encodeUnit 5 (List.replicate 64 3)) = .bad := by decide +kernel

theorem witness_HbmScrubbingAndFill :
    (let s := scrubbed;
      s.dev.hbmTrained = true ∧ s.plan.hbmLive 15 = true ∧ (31 : Nat) ∈ s.plan.channels 15 ∧ s.hbmHalted 15 = false ∧ s.walkAt 511 + 1 < 2 ^ 25 ∧
        s.readUnit (2 ^ 30 * 15) = .clean ∧ up.dev.hbmTrained = false ∧ s.repairLevel > 1 ∧ s.eccTable 7 0 = [] ∧ s.mram.hbmRows = []) ∧
    (flipped 15 1).readUnit (2 ^ 30 * 15) = .fixed [(5, 1)] ∧ (flipped 15 0x010101).readUnit (2 ^ 30 * 15) = .bad ∧
    scrubbed.unitOwner (2 ^ 30 * 15) = none ∧ scrubbed.unitOwner 0 = some 1 ∧
    (let s := { scrubbed with hbm := { scrubbed.hbm with scrubAt := (List.range 32).map fun c => (480 + c, if c = 31 then 2 ^ 25 - 1 else 2 ^ 25) } };
      (∀ c ∈ s.plan.channels 15, c ≠ 31 → 2 ^ 25 ≤ s.walkAt (480 + c)) ∧ s.walkAt 511 + 1 = 2 ^ 25) ∧
    (let s := scrubbed;
      s.plan.stackSlices 0 ≠ [] ∧ s.dev.stackUp.getLsbD 0 = true ∧ up.dev.stackUp.getLsbD 0 = false ∧ (s.weltStack 0).quiescing = false ∧
        walkMore (s.plan.stackSlices 0) 1 = true ∧ s.sole.lines = [] ∧ s.hbm.soleFlips = [] ∧ walkWords (s.plan.stackSlices 0) 0 0 = true ∧
        bitCount 72 3 = 2 ∧ bitCount 72 1 = 1 ∧ s.jobOn 0 = some 1 ∧ s.job 1 = some job1 ∧ job1.ended = none) ∧
    (let s := scrubbed.updTile 0 fun x => { x with flips := [(1, 3)] };
      (s.tile 0).flips = [(1, 3)] ∧ bitCount 39 3 = 2 ∧ bitCount 39 (2 ^ 38) = 1) ∧
    (let s := scrubbed.cntHbm 0 0x160 (2400000000 * 1440 + 1);
      2400000000 * max 1 (s.reg (indKey 2 4) 0x5A0 % 65536) < s.hbmCounter 0 0x160 ∧ s.hbmCounter 0 0x168 ≤ 2400000000) ∧
    (({ scrubbed with hbm := { scrubbed.hbm with unfilled := [(0, [3, 4])] } } : State).unfilledPages 0 = [3, 4] ∧ scrubbed.unfilledPages 0 = []) ∧
    (scrubbed.class7Queued 15 31 255 = false ∧ scrubbed.hbm.selfRefresh.getLsbD 15 = false) := by
  decide +kernel

/-! ## Witnesses: the sequence table, check values, the status page and the sideband -/

/-- Job 1 on tile 0, whose group gives the block's address in register 1; the block stands at local address 0; descriptor 0 as given. -/
def blocked (a : Word) (block : Nat) (d : SeqDesc) : State :=
  { sequenced false with
    tiles := [(0, { Tile.reset with power := .on, groups := [(0, grp (regs2 a a))], share := Memory.writeNat [] 0 32 block })]
    seq := ⟨smSet SeqDesc.free [] 0 d, [], [], [], 0⟩ }
/-- A live descriptor of job 1, with a list root. -/
def live (root : Word) : SeqDesc := ⟨0, 1, true, 0, 0, 1, 1, 0, 1, root, 0, 0, 0⟩

/-- A SEQ instruction issues at thread 31 of tile 0, with its block at `a`, and its issue satisfies a test. -/
def seqBegins (s : State) (w a : Nat) (p : Issue → Nat → Bool) : Bool :=
  match s.issueAt 0 0 0 31 w [insRD w, insRA w] with
  | none => false
  | some i => i.job.pcOk i.pc && decide (insRD w < i.job.image.nR) && decide (insRA w < i.job.image.nR) && decide (s.seqOutstanding i.t < 32) &&
      (s.tile i.t).flips.isEmpty && (maskLanes i.grp.live).all (fun l => s.fenceDone i.t i.key i.grp 4 l) && decide (a = (i.scalar (insRA w)).toNat) &&
      p i ((s.tile i.t).share.readNat a 32)

theorem seqBegins_of {s : State} {w a : Nat} {p : Issue → Nat → Bool} (h : seqBegins s w a p = true) :
    ∃ i, SeqBegins s (at0 31) w i a ∧ p i ((s.tile i.t).share.readNat a 32) = true := by
  unfold seqBegins at h
  split at h
  · cases h
  · next i e =>
      simp only [Bool.and_eq_true, decide_eq_true_eq, List.all_eq_true, List.isEmpty_iff] at h
      obtain ⟨⟨⟨⟨⟨⟨⟨a1, a2⟩, a3⟩, a4⟩, a5⟩, a6⟩, a7⟩, a8⟩ := h
      exact ⟨i, ⟨e, a1, a2, a3, a4, a5, a6, a7⟩, a8⟩

/-- The word of a SEQ operation with the given low fields. -/
def seqWord (op x : Nat) : Nat := insWord 0x0A op (lowR 8 1 0 0 0 0 x)
/-- How an operation on a block would end: 0 done, 1 malformed, 2 waiting. -/
def seqEnd (s : State) (op : Nat) (i : Issue) (b : Nat) : Nat :=
  let o := { seqOpOf s i op (seqWord op 0) 0 with block := some (BitVec.ofNat 256 b) }
  match ({ s with seq := { s.seq with ops := [o], nextTag := 1 } } : State).seqRun o i.job.image b with
  | .done _ _ => 0
  | .bad u => if u.present i.jobId then 1 else 3
  | .wait _ => 2
/-- An operation runs on its block and ends so. -/
def seqEnds (s : State) (op n : Nat) : Bool :=
  seqBegins s (seqWord op 0) 0 fun i b => (s.seqWrong op i.jobId i.job.image b).isNone && decide (s.seqQueued (b % 2 ^ 32 / 131072) < 1024) && seqEnd s op i b == n
/-- Every engine's queue is full. -/
def crowded (s : State) : State := { s with seq := { s.seq with results := List.replicate 1024 ⟨0, 1, 0, 0, 0, 0, 0, 0, hdr0⟩ } }

/-- A block of one token of 16 bytes. -/
def oneToken : Nat := 2 ^ 48 + 16 * 2 ^ 128 + 16 * 2 ^ 192

theorem witness_SequenceInstructions :
    (∀ op ∈ [0, 1, 2, 3, 4],
      seqBegins (blocked 8 0 (live 0)) (seqWord op 0) 8 (fun _ _ => true) = true ∧
      seqBegins (blocked 0x240000 0 (live 0)) (seqWord op 0) 0x240000 (fun i _ => decide (i.job.image.share < 0x240000 + 32)) = true ∧
      seqBegins (blocked 0 0 (live 0)) (seqWord op 1) 0 (fun _ _ => decide (seqWord op 1 % 2 ^ 38 ≠ 0)) = true ∧
      seqBegins (blocked 0 (2 ^ 21) (live 0)) (seqWord op 0) 0 (fun i b => decide (seqWord op 0 % 2 ^ 38 = 0) &&
        ((blocked 0 (2 ^ 21) (live 0)).seqWrong op i.jobId i.job.image b).isSome) = true) ∧
    (seqEnds (blocked 0 openBlock SeqDesc.free) 0 0 = true ∧ seqEnds (blocked 0 0 (live 0)) 1 0 = true ∧ seqEnds (blocked 0 0 (live 0)) 2 0 = true ∧
      seqEnds (blocked 0 0 (live 0)) 3 0 = true ∧ seqEnds (blocked 0 0 (live 0)) 4 0 = true) ∧
    (∀ op ∈ [1, 2], seqEnds (blocked 0 oneToken (live 0xFFFFFFFF)) op 1 = true) ∧ seqEnds (blocked 0 0 (live 0xFFFFFFFF)) 3 1 = true ∧
    (let s := { blocked 0 oneToken (live 0x80000000) with sole := { Sole.reset with lines := [(0, { SoleLine.absent with txn := some ⟨ask (.gets 0 1), [], true, true⟩ })] } };
      seqEnds s 2 2 = true) ∧
    1024 ≤ (crowded (blocked 0 0 (live 0))).seqQueued 0 ∧
    seqBegins (crowded (blocked 0 openBlock SeqDesc.free)) (seqWord 0 0) 0 (fun i b => ((crowded (blocked 0 openBlock SeqDesc.free)).seqWrong 0 i.jobId i.job.image b).isNone) = true ∧
    (let q := SeqBlock.decode oneToken;
      let s := sequenced true;
      0 < q.count ∧ 0 < q.segLen ∧ q.mode = 0 ∧ (s.seqDesc 0).root.toNat < 2 ^ 31 ∧
        (s.engine 0).freeCount + img.poolSize 0 - (s.engine 0).high <
          1 + ((((s.seqDesc 0).pagesOf img q).map (· / img.listEntries)).eraseDups).length + ((s.seqDesc 0).pagesOf img q).length) ∧
    (let r : SeqResult := ⟨7, 0, 0, 0, 8, 0x80000000, 1, 0, hdr0⟩;
      let s := { blocked 0 0 (live 0) with seq := ⟨[], [], [], [r], 8⟩ };
      s.seq.results.find? (fun x => x.tag == 7) = some r ∧ smFind (s.tile 0).groups 0 = some (grp (regs2 0 0)) ∧ (grp (regs2 0 0)).id = r.group ∧
        s.seq.results.find? (fun x => x.tag == 6) = none ∧ s.seq.ops = []) ∧
    (let o : SeqOp := ⟨6, 0, 0, 0, 1, 4, 8, 1, 0, 0, 0, 0, hdr0, none⟩;
      let p := { o with tag := 7, block := some (BitVec.ofNat 256 openBlock) };
      let s := { blocked 0 0 (live 0) with seq := ⟨[], [], [p, o], [], 8⟩ };
      firstOp (s.seq.ops.filter fun x => x.stack == 0 && x.block.isNone) = some o ∧ s.seq.results = [] ∧
        s.seq.ops.find? (fun x => x.tag == 6) = some o ∧ s.seq.ops.find? (fun x => x.tag == 7) = some p ∧ (s.job 1).isSome = true) := by
  decide +kernel

theorem witness_QueryWritesTheDescriptor :
    let s := blocked 0 0 (live 0);
    seqBegins s (insWord 0x0A 4 (lowR 8 1 0 0 0 0 0)) 0 (fun i b => decide (insWord 0x0A 4 (lowR 8 1 0 0 0 0 0) % 2 ^ 38 = 0) &&
      decide (0 + 32 ≤ i.job.image.share) && (s.seqWrong 4 i.jobId i.job.image b).isNone && decide (s.seqQueued (b % 2 ^ 32 / 131072) < 1024)) = true := by
  decide +kernel

/-- A unit is selected, in a mode. -/
def selects (u : Nat) (m : Mode) : State := withReg (indKey 5 0) (BitVec.ofNat 32 u) (inMode m up)

theorem witness_CheckValueUnits :
    (∀ u ∈ [36, 43], (selects u .ready).linked = true ∧ (selects u .ready).ideBlocks = false ∧ (selects u .ready).cvuSel = u ∧
      (selects u .ready).cvuWritable u = true) ∧
    (selects 0 .ready).cvuWritable 0 = true ∧ (withReg (indKey 5 0) 0 (linked portUp)).cvuWritable 0 = false ∧
    (selects 43 .boot).cvuWritable 43 = false ∧ (selects 44 .ready).cvuSel = 44 ∧ State.reset.linked = false ∧ HostMayWrite (selects 43 .ready) ∧
    (audited 15360 (selects 43 .ready)).linked = true ∧ (audited 15360 (selects 43 .ready)).ideBlocks = false ∧
    15360 ≤ (audited 15360 (selects 43 .ready)).unacked ∧ (3 : Word).toNat % 4 = 3 ∧ (4 : Word).getLsbD 2 = true := by
  unfold HostMayWrite
  decide +kernel

theorem witness_FinishComparesOrReadsOut :
    let s := selects 43 .limp;
    s.cvuSel < 44 ∧ s.linked = true ∧ s.ideBlocks = false ∧ s.cvuWritable 43 = true ∧ (s.cvu 43).readout = false ∧
      (0 : BitVec 64) = (Cvu.reset.crc ^^^ 0xFFFFFFFF) ∧ Cvu.reset.poly = 0 ∧
      ((s.setCvu 43 { Cvu.reset with readout := true }).cvu 43).readout = true ∧
      ((s.setCvu 43 { Cvu.reset with expect := 1 }).cvu 43).expect.toNat % 2 ^ 32 = 1 ∧
      (let t := s.setCvu 43 { Cvu.reset with poly := 2, expect := 2 ^ 63 };
        (t.cvu 43).poly = 2 ∧ (t.cvu 43).expect.toNat % 2 ^ 64 ≠ (t.cvu 43).crc.toNat) := by decide +kernel

theorem witness_StatusPage :
    (let s := { up with mgt := { Mgt.reset with statusPage := 4097 } };
      s.linked = true ∧ s.mgt.statusPage.getLsbD 0 = true ∧ s.host.failing = [] ∧
        ({ s with host := { s.host with failing := [(4096 + 63, 1)] } } : State).hostOk 4096 64 = false) ∧
    up.mgt.statusPage.getLsbD 0 = false := by decide +kernel

/-- An EPO nonce drawn at cycle 0, when the counter stands at `n`. -/
def armed (n : Nat) : State := { hosting with aon := BitVec.ofNat 64 n, sec := { Sec.reset with epoNonce := some 5 } }

theorem witness_Sideband :
    State.reset.dev.mode = .off ∧ up.dev.mode ≠ .off ∧ up.mram.bbHead ≤ (0 : BitVec 64).toNat ∧ (audited 16383 up).unacked < 16384 ∧
    ((armed 40000000).sec.epoNonce = some 5 ∧ ((armed 40000000).aon - (armed 40000000).sec.epoAt).toNat ≤ 40000000 ∧
      40000000 < ((armed 40000001).aon - (armed 40000001).sec.epoAt).toNat ∧ (armed 0).sec.epoNonce ≠ some 6 ∧ (armed 0).mram.bbHead < 65536 ∧
      (armed 0).dev.shuttingDown = false ∧ (armed 0).dev.mode ∉ [Mode.aon, .shutdown]) ∧
    ((0 : Byte).toNat = 0 ∧ 5 < (6 : Byte).toNat) := by decide +kernel

theorem witness_BlackBoxReadsChangeNothing :
    up.dev.mode ≠ .off ∧ up.mram.bbHead ≤ (0 : BitVec 64).toNat ∧
    (match exec (.blackboxRead 0 0) (await (readOut 0xF 4096) up) with | .next t => t.mram.bbHead == 0 | _ => false) = true := by decide +kernel

/-! ## Ill-formed commands: one for each check of WellFormed -/

theorem smoke_startUpTests : (Instr.startUpTests [⟨.tile, 415⟩, ⟨.stack, 8⟩]).wf = false ∧ (Instr.startUpTests [⟨.tile, 415⟩]).wf = true := by decide
theorem smoke_bistComplete : (Instr.bistComplete 0 0 [⟨.lacing, 14⟩]).wf = false := by decide
theorem smoke_sensorSample : (Instr.sensorSample 33 1 0 none).wf = false ∧ (Instr.sensorSample 33 0 0 none).wf = true := by decide
theorem smoke_red_empty : (Instr.red 0 ⟨.aadd, 11, [], .bar2, 0⟩).wf = false := by decide
theorem smoke_red_order : (Instr.red 0 ⟨.aadd, 11, [⟨3, 0, 1⟩, ⟨3, 4, 1⟩], .bar2, 0⟩).wf = false := by decide
theorem smoke_hbmScrubRead : (Instr.hbmScrubRead 1 0 [.tile 416 1]).wf = false ∧ (Instr.hbmScrubRead 1 0 [.tile 415 1, .hbm 0 1]).wf = true := by decide
theorem smoke_soleScrubRead : (Instr.soleScrubRead 0 [.tile 3072 1]).wf = false ∧ (Instr.soleScrubRead 7 [.sole 7 0 1]).wf = true := by decide
theorem smoke_ringEnable : (Instr.ringEnable 2).wf = false := by decide
theorem smoke_ringDisable : (Instr.ringDisable 3).wf = false := by decide
theorem smoke_firmwareInstallStart : (Instr.firmwareInstallStart 0).wf = false := by decide
theorem smoke_qosCommit : (Instr.qosCommit 2).wf = false := by decide
theorem smoke_tileCntClear : (Instr.tileCntClear 0).wf = false := by decide
theorem smoke_rekey : (Instr.rekey 2 true).wf = false := by decide
theorem smoke_retrain : (Instr.retrain 1 ⟨0, 0, 0, 0, 0, true, true⟩).wf = false := by decide
theorem smoke_awlDisarm : (Instr.awlDisarm 1).wf = false := by decide
theorem smoke_awlArmDrop : (Instr.awlArmDrop 2).wf = false := by decide
theorem smoke_awlArmCorrupt : (Instr.awlArmCorrupt 3).wf = false := by decide
theorem smoke_awlArmReorder : (Instr.awlArmReorder 4).wf = false := by decide
theorem smoke_cxlLinkUp_width : (Instr.cxlLinkUp 2 0).wf = false := by decide
theorem smoke_cxlLinkUp_rate : (Instr.cxlLinkUp 16 3).wf = false := by decide
theorem smoke_registerWrite : (Instr.registerWrite 0x1002 0).wf = false := by decide
theorem smoke_rcRead : (Instr.rcRead (.ind 0 6)).wf = false := by decide
theorem smoke_counterLatchRead : (Instr.counterLatchRead (.bar0 0x3001)).wf = false := by decide
theorem smoke_arbitrationGrant : (Instr.arbitrationGrant 0 []).wf = false := by decide
theorem smoke_sidebandUnknownCommand : (Instr.sidebandUnknownCommand 5).wf = false ∧ (Instr.sidebandUnknownCommand 6).wf = true := by decide

/-- A message with more data than the fabric carries. -/
def tooLong : Message := ⟨0, List.replicate 2049 0, 0⟩

theorem smoke_messages : (Instr.messageForward 0 tooLong).wf = false ∧ (Instr.fabricRead 0 tooLong).wf = false ∧ (Instr.fabricWrite 0 tooLong).wf = false ∧
    (Instr.fabricRed 0 tooLong).wf = false ∧ (Instr.fabricData 0 tooLong).wf = false ∧ (Instr.fabricAck 0 tooLong).wf = false ∧
    (Instr.fabricNack 0 tooLong).wf = false ∧ (Instr.bcast 0 tooLong).wf = false := by decide +kernel

/-! ## Results that the spec works out, and results worked out from its rules -/

/-- The test vector of R162: key 0, counter 0. -/
theorem test_random_vector : rngDraw 0 0 = 0xCB83B608B645B2C8B54084344B8C4642 := by decide
/-- Nibbles 0 and 31 of that draw. -/
theorem test_random_nibbles : nibble (rngDraw 0 0) 0 = 2 ∧ nibble (rngDraw 0 0) 31 = 0xC := by decide

/-- The example after R58: 3 × 2^-67 is nothing at anchor 29, six units at anchor 27, and one unit when moved to 29. -/
theorem test_anchor_example : toUnits false 3 (-67) 29 = ⟨0, wSticky⟩ ∧ toUnits false 3 (-67) 27 = ⟨3 * 1, 0⟩ ∧
    (Wide.realign ⟨6, 0⟩ 27 29) = ⟨1, wSticky⟩ := by decide

/-- SHA-256 of "abc" (FIPS 180-4, which R477 names). -/
theorem test_sha256_abc : bytesToNat (sha256 [0x61, 0x62, 0x63]).reverse = 0xBA7816BF8F01CFEA414140DE5DAE2223B00361A396177A9CB410FF61F20015AD := by
  decide +kernel

theorem test_add_wraps : regAfter (.add (at0 31) (lowR 4 1 2 0 0 0 0)) (run (grp (regs2 0xFFFFFFFF 2))) 31 4 = some 1 := by decide
theorem test_sub_order : regAfter (.sub (at0 0) (lowR 4 1 2 0 0 0 0)) (run (grp (regs2 5 7))) 0 4 = some 0xFFFFFFFE := by decide
theorem test_mulhi_signed : regAfter (.mulhi (at0 0) (lowR 4 1 2 0 0 0 0)) (run (grp (regs2 0xFFFFFFFF 2))) 0 4 = some 0xFFFFFFFF := by decide
theorem test_mulhu_unsigned : regAfter (.mulhu (at0 0) (lowR 4 1 2 0 0 0 0)) (run (grp (regs2 0xFFFFFFFF 2))) 0 4 = some 1 := by decide
theorem test_shra_keeps_sign : regAfter (.shra (at0 0) (lowR 4 1 2 0 0 0 0)) (run (grp (regs2 0x80000000 4))) 0 4 = some 0xF8000000 := by decide
theorem test_min_is_signed : regAfter (.minI (at0 0) (lowR 4 1 2 0 0 0 0)) (run (grp (regs2 0xFFFFFFFF 1))) 0 4 = some 0xFFFFFFFF := by decide
theorem test_minu_is_unsigned : regAfter (.minu (at0 0) (lowR 4 1 2 0 0 0 0)) (run (grp (regs2 0xFFFFFFFF 1))) 0 4 = some 1 := by decide
theorem test_clz_of_zero : regAfter (.clz (at0 0) (lowR 4 1 0 0 0 0 0)) (run (grp (regs2 0 0))) 0 4 = some 32 := by decide
theorem test_popc : regAfter (.popc (at0 0) (lowR 4 1 0 0 0 0 0)) (run (grp (regs2 0x80000001 0))) 0 4 = some 2 := by decide
/-- The destination may be a source, and thread 0 keeps its registers when thread 31 alone issues nothing more. -/
theorem test_add_in_place : regAfter (.add (at0 0) (lowR 1 1 1 0 0 0 0)) (run (grp (regs2 3 0))) 31 1 = some 6 := by decide
/-- 1.5 + 2.25 = 3.75 in binary32. -/
theorem test_fadd : regAfter (.fadd (at0 0) (lowR 4 1 2 0 0 0 0)) (run (grp (regs2 0x3FC00000 0x40100000))) 0 4 = some 0x40700000 := by decide
/-- (1 + 2^-23)² − (1 + 2^-22) in one rounding: 2^-46. -/
theorem test_ffma_rounds_once : regAfter (.ffma (at0 0) (lowR 4 1 1 2 0 0 0)) (run (grp (regs2 0x3F800001 0xBF800002))) 0 4 = some 0x28800000 := by
  decide +kernel
/-- −0 × 2 = −0. -/
theorem test_fmul_sign_of_zero : regAfter (.fmul (at0 0) (lowR 4 1 2 0 0 0 0)) (run (grp (regs2 0x80000000 0x40000000))) 0 4 = some 0x80000000 := by decide

/-- A block of E2M1 whose largest magnitude is 5: 5.0 lies between 4 and 6 and goes to 4 (code 6); 5.0 ÷ 0.875 goes to 6 (code 7). -/
theorem test_e2m1_example : (convert 7 0 0 true 0 (.fin false 5 1 0)).1 = 6 ∧ (convert 7 0 0 true 0 (.fin false 40 7 0)).1 = 7 := by decide

/-- Reading a fine scale: 0x5A is 10 × 2^-7; decoding an MX element: 0b1011 under 0x7C is −3 × 2^-1 × 2^-3 = −0.1875. -/
theorem test_scale_examples : decodeScale 2 0x5A = some (10, -7) ∧ decodeScaled 7 1 0x7C 0xB = .fin true 3 1 (-4) := by decide

/-- A store writes little-endian (R12). -/
theorem test_store_byte_order :
    let s := next (.stl (at0 31) (lowR 0 1 2 0 0 2 0)) (run (grp (regs2 16 0xA1B2C3D4)));
    (s.tile 0).share.readNat 16 4 = 0xA1B2C3D4 ∧ (s.tile 0).share.readNat 16 1 = 0xD4 := by decide +kernel

/-- The counter of the rounding bits of one output element: TID 0x1C05, element 940,589, nibble 13. -/
theorem test_rounding_counter : keyedCtr 0x1C05 (940589 / 32) 0xFFFFFFFF = 0x00001C0500000000000072D1FFFFFFFF ∧ 940589 % 32 = 13 ∧
    940589 / 32 = 0x72D1 := by decide

/-- A job of all eight stacks whose interleaved footprint reaches 2^38. -/
def wide : Image := { img with stackBits := 0xFF, fI := 2 ^ 38 }

/-- One address, end to end: 0x12_3456_7A40 lies in HBM stack 7 at x = 0x1_2345_6A40, in global slice 193, set 9,029, line 2, channel 13, and its unit is
LOCATION 0x1_C48D_15A9. -/
theorem test_address_example :
    (Plan.empty.place wide 0x1234567A40).map (fun p => (lineHbm p.line, Plan.empty.lineSlice p.line, lineSet p.line, p.line % 8, p.line / 2 ^ 29)) =
      some ((7, 0x123456A00), 193, 9029, 2, 3) ∧ Plan.empty.channelOf 7 0x123456A40 = 13 ∧ unitLocation 7 0x123456A40 = 0x1C48D15A9 ∧
      locationLine 0x1C48D15A9 = ((Plan.empty.place wide 0x1234567A40).map Place.line).getD 0 := by decide +kernel

/-- A class-5 read near its target: 1,600 of 2,048 cycles carries URGENCY 2. -/
theorem test_urgency_example : urgencyOf 1600 2048 = 2 ∧ urgencyOf 1023 2048 = 0 ∧ urgencyOf 1024 2048 = 1 ∧ urgencyOf 2048 2048 = 3 := by decide

/-- All 32 lanes on one word: 100 becomes 132, and lane i receives 100 + i. -/
theorem test_atomic_example :
    let g := { grp [] with live := 0xFFFFFFFF, regs := (List.range 32).map fun i => (64 + i, 1) };
    let s := (run g).updTile 0 fun x => { x with share := Memory.writeNat [] 0 4 100 };
    let t := next (.aadd (at0 0) (lowR 4 1 2 0 0 0 0)) s;
    (t.tile 0).share.readNat 0 4 = 132 ∧ (List.range 32).map (fun i => regAfter (.aadd (at0 0) (lowR 4 1 2 0 0 0 0)) s i 4) =
      (List.range 32).map (fun i => some (BitVec.ofNat 32 (100 + i))) := by decide +kernel

/-- Nine bytes on unit 40 in LIMP: the words "1234" and "5678" and the byte "9" give the check of R392. -/
theorem test_check_value_example :
    (((Cvu.reset.fresh.feed (natToBytes 4 0x34333231)).feed (natToBytes 4 0x38373635)).feed [0x39]).crc ^^^ 0xFFFFFFFF = 0xE3069283 ∧
    (((Cvu.reset.fresh.feed (natToBytes 4 0x34333231)).feed (natToBytes 4 0x38373635)).feed [0x39]).bytes = 9 := by decide +kernel


end Sys2Proof.Tests
end

/-! SUPPORT. The completion of a descriptor that starts (R335, R336, R342, R343): what its row does, and that it is answered. -/

namespace Sys2Proof.Machine

/-! ## Descriptors that come to start -/

theorem State.ring_idx_of_findDesc {s : State} {r : Nat} {i : Word} {f : InFlight} (h : s.findDesc r i = some f) :
    f.ring = r ∧ f.idx = i := by
  simpa using List.find?_some h

theorem Starts.findDesc {s : State} {ring : Fin 64} {idx : Word} {op : Nat} {f : InFlight} (h : Starts s ring idx op f) :
    s.findDesc f.ring f.idx = some f := by
  obtain ⟨⟨hfind, -⟩, -⟩ := h
  obtain ⟨hring, hidx⟩ := State.ring_idx_of_findDesc hfind
  rw [hring, hidx, hfind]

theorem Starts.opcode {s : State} {ring : Fin 64} {idx : Word} {op : Nat} {f : InFlight} (h : Starts s ring idx op f) :
    f.opcode = op := by
  obtain ⟨-, hop, -⟩ := h
  exact hop

/-- A descriptor that starts is marked as started, and its row's body runs. -/
theorem State.runDesc_of_starts {s : State} {ring : Fin 64} {idx : Word} {op : Nat} {f : InFlight} {mine : InFlight → Bool}
    {body : State → InFlight → State} (h : Starts s ring idx op f) (hmine : mine f = true) :
    s.runDesc ring idx op mine body = body (s.markStarted f.ring f.idx) f := by
  obtain ⟨⟨hfind, hlinked, hboot, hstarted, hmay⟩, hop, hcheck⟩ := h
  obtain ⟨hring, hidx⟩ := State.ring_idx_of_findDesc hfind
  simp [State.runDesc, hfind, hop, hmine, hlinked, hstarted, hmay, hcheck, hring, hidx]

/-! ## The mark of a started descriptor -/

theorem find?_map_where {α : Type} (p : α → Bool) (m : α → α) (hm : ∀ x, p (m x) = p x) {l : List α} {x : α}
    (h : l.find? p = some x) : (l.map fun y => if p y then m y else y).find? p = some (m x) := by
  induction l with
  | nil => cases h
  | cons y l ih =>
    by_cases hy : p y = true
    · rw [List.find?_cons_of_pos hy] at h
      rw [List.map_cons, if_pos hy, List.find?_cons_of_pos ((hm y).trans hy), Option.some.inj h]
    · rw [List.find?_cons_of_neg hy] at h
      rw [List.map_cons, if_neg hy, List.find?_cons_of_neg hy, ih h]

theorem filter_not_map_where {α : Type} (p : α → Bool) (m : α → α) (hm : ∀ x, p (m x) = p x) (l : List α) :
    (l.map fun y => if p y then m y else y).filter (fun y => !p y) = l.filter (fun y => !p y) := by
  induction l with
  | nil => rfl
  | cons y l ih => by_cases hy : p y = true <;> simp [hy, hm, ih]

theorem State.markStarted_findDesc {s : State} {r : Nat} {i : Word} {f : InFlight} (h : s.findDesc r i = some f) :
    (s.markStarted r i).findDesc r i = some { f with started := true } :=
  find?_map_where (fun g : InFlight => g.ring == r && g.idx == i) (fun g => { g with started := true }) (fun _ => rfl) h

/-- The mark changes only descriptors that the completion takes away. -/
theorem State.markStarted_filter (s : State) (r : Nat) (i : Word) :
    (s.markStarted r i).inflight.filter (fun g => !(g.ring == r && g.idx == i)) =
      s.inflight.filter (fun g => !(g.ring == r && g.idx == i)) :=
  filter_not_map_where (fun g : InFlight => g.ring == r && g.idx == i) (fun g => { g with started := true }) (fun _ => rfl) s.inflight

/-! ## Completions -/

/-- What a completion counts: one of three statuses in its counter, any other nowhere (R507). -/
theorem State.countStatus_cases (s : State) (status : Nat) :
    (status = 0x01 ∧ s.countStatus status = s.cntSec 0x120 1) ∨ (status = 0x3B ∧ s.countStatus status = s.cntSec 0x108 1) ∨
      (status = 0x3A ∧ s.countStatus status = s.cntSec 0x128 1) ∨
      ((status ≠ 0x01 ∧ status ≠ 0x3B ∧ status ≠ 0x3A) ∧ s.countStatus status = s) := by
  by_cases h1 : status = 0x01
  · exact .inl ⟨h1, if_pos h1⟩
  · by_cases h2 : status = 0x3B
    · exact .inr (.inl ⟨h2, (if_neg h1).trans (if_pos h2)⟩)
    · by_cases h3 : status = 0x3A
      · exact .inr (.inr (.inl ⟨h3, (if_neg h1).trans ((if_neg h2).trans (if_pos h3))⟩))
      · exact .inr (.inr (.inr ⟨⟨h1, h2, h3⟩, (if_neg h1).trans ((if_neg h2).trans (if_neg h3))⟩))

theorem State.countStatus_eq (s : State) (status : Nat) :
    s.countStatus status = { s with sec.counters := (s.countStatus status).sec.counters } := by
  obtain ⟨-, h⟩ | ⟨-, h⟩ | ⟨-, h⟩ | ⟨-, h⟩ := s.countStatus_cases status <;> rw [h] <;> rfl

@[simp] theorem State.countStatus_inflight (s : State) (status : Nat) : (s.countStatus status).inflight = s.inflight := by
  rw [State.countStatus_eq]

@[simp] theorem State.countStatus_rings (s : State) (status : Nat) : (s.countStatus status).rings = s.rings := by
  rw [State.countStatus_eq]

@[simp] theorem State.countStatus_ring (s : State) (status r : Nat) : (s.countStatus status).ring r = s.ring r := by
  rw [State.ring, State.countStatus_rings, State.ring]

theorem State.countStatus_get (s : State) (status off : Nat) :
    Counters.get (s.countStatus status).sec.counters off =
      if (status = 0x01 ∧ off = 0x120) ∨ (status = 0x3B ∧ off = 0x108) ∨ (status = 0x3A ∧ off = 0x128) then
        satAdd64 (Counters.get s.sec.counters off) 1
      else Counters.get s.sec.counters off := by
  have hadd : ∀ o, Counters.get (s.cntSec o 1).sec.counters off =
      if off = o then satAdd64 (Counters.get s.sec.counters off) 1 else Counters.get s.sec.counters off := by
    intro o
    refine (Counters.get_add s.sec.counters o off 1).trans ?_
    by_cases ho : off = o
    · rw [if_pos ho, if_pos ho, ho]
    · rw [if_neg ho, if_neg ho]
  obtain ⟨hs, h⟩ | ⟨hs, h⟩ | ⟨hs, h⟩ | ⟨hs, h⟩ := s.countStatus_cases status
  · rw [h, hadd]; exact ite_congr (propext (by omega)) (fun _ => rfl) (fun _ => rfl)
  · rw [h, hadd]; exact ite_congr (propext (by omega)) (fun _ => rfl) (fun _ => rfl)
  · rw [h, hadd]; exact ite_congr (propext (by omega)) (fun _ => rfl) (fun _ => rfl)
  · rw [h, if_neg (by omega)]

/-- The completion of a descriptor in flight, whether or not it is marked as started. -/
theorem answered_complete {s : State} {f g : InFlight} (h : s.findDesc f.ring f.idx = some g) (hb : g.bytes = f.bytes)
    (status detail result : Nat) : Answered s (s.complete f.ring f.idx status detail result) f status detail result := by
  simp only [State.complete, h, hb]
  refine ⟨?_, ?_, ?_, ?_, ?_⟩
  · rw [State.countStatus_inflight, State.countStatus_rings]; exact State.countStatus_eq _ _
  · exact State.countStatus_inflight _ _
  · exact (State.countStatus_ring _ _ _).trans (State.updRing_ring_self _ _ _)
  · exact fun r hr => (State.countStatus_ring _ _ _).trans (State.updRing_ring_ne _ _ hr)
  · exact State.countStatus_get _ status

/-- A completion does not show that its descriptor was marked as started. -/
theorem answered_of_markStarted {s t : State} {f : InFlight} {status detail result : Nat}
    (h : Answered (s.markStarted f.ring f.idx) t f status detail result) : Answered s t f status detail result := by
  obtain ⟨hframe, hinflight, hring, hrings, hcounters⟩ := h
  exact ⟨hframe, hinflight.trans (State.markStarted_filter s _ _), hring, hrings, hcounters⟩

/-- The completion of a descriptor that has just started. -/
theorem answered_complete_markStarted {s : State} {f : InFlight} (h : s.findDesc f.ring f.idx = some f) (status detail result : Nat) :
    Answered s ((s.markStarted f.ring f.idx).complete f.ring f.idx status detail result) f status detail result :=
  answered_of_markStarted (answered_complete (State.markStarted_findDesc h) rfl status detail result)

end Sys2Proof.Machine

/-! SUPPORT. The rows that read out and the identity key's rows (R28 to R30, R480 to R486, R505, R524): what each answers. -/

namespace Sys2Proof.Machine

/-! ## Answers in OUT -/

theorem answered_refuseDesc {s : State} {f : InFlight} (h : s.findDesc f.ring f.idx = some f) (status : Nat) :
    Answered s ((s.markStarted f.ring f.idx).refuseDesc f status) f status 0 0 :=
  answered_complete_markStarted h status 0 0

theorem answered_okDesc {s : State} {f : InFlight} (h : s.findDesc f.ring f.idx = some f) (result : Nat) :
    Answered s ((s.markStarted f.ring f.idx).okDesc f result) f 0 0 result :=
  answered_complete_markStarted h 0 0 result

/-- The mark commutes with a write to the host, so the descriptor is answered after it. -/
theorem answered_okDesc_hostWrite {s : State} {f : InFlight} (h : s.findDesc f.ring f.idx = some f) (a : Nat) (bs : List Byte)
    (result : Nat) : Answered (s.hostWrite a bs) (((s.markStarted f.ring f.idx).hostWrite a bs).okDesc f result) f 0 0 result :=
  answered_okDesc (show (s.hostWrite a bs).findDesc f.ring f.idx = some f from h) result

theorem answered_answerOut {s : State} {f : InFlight} (h : s.findDesc f.ring f.idx = some f)
    (hout : ∀ n, s.hostOk (f.u64 0x20) n = true) (bs : List Byte) :
    Answered (s.hostWrite (f.u64 0x20) bs) ((s.markStarted f.ring f.idx).answerOut f bs) f 0 0 bs.length := by
  have hmark : ∀ n, (s.markStarted f.ring f.idx).hostOk (f.u64 0x20) n = true := hout
  cases bs with
  | nil => exact answered_okDesc h 0
  | cons b bs =>
    simp only [State.answerOut, List.isEmpty_cons, hmark, if_true, Bool.false_eq_true, if_false]
    exact answered_okDesc_hostWrite h _ _ _

theorem answered_release {s : State} {f : InFlight} (h : s.findDesc f.ring f.idx = some f)
    (hout : ∀ n, s.hostOk (f.u64 0x20) n = true) (bs : List Byte) :
    Answered ((s.cntSec 0x100 1).hostWrite (f.u64 0x20) bs) ((s.markStarted f.ring f.idx).release f bs) f 0 0 bs.length := by
  have hmark : (s.markStarted f.ring f.idx).hostOk (f.u64 0x20) bs.length = true := hout _
  rw [State.release, if_pos hmark]
  exact answered_okDesc_hostWrite (show (s.cntSec 0x100 1).findDesc f.ring f.idx = some f from h) _ _ _

/-! ## Lengths of what is written -/

@[simp] theorem digestBytes_length (v : BitVec 256) : (digestBytes v).length = 32 := natToBytes_length _ _

theorem length_flatMap_upTo {n k : Nat} {g : Nat → List Byte} (h : ∀ i, (g i).length = k) : ((upTo n).flatMap g).length = n * k := by
  simp only [upTo, List.length_flatMap, h, List.map_const', List.length_range, List.sum_replicate_nat]

@[simp] theorem AuditEntry.bytes_length (e : AuditEntry) : e.bytes.length = 96 := by
  simp [AuditEntry.bytes, natToBytes_length]

theorem State.auditEntries_length (s : State) (start len : Nat) :
    (s.auditEntries start len).length =
      128 * min (s.mram.auditHead.toNat - max start (s.mram.auditHead.toNat - 16384)) (len / 128) :=
  (length_flatMap_upTo fun _ => by simp).trans (Nat.mul_comm _ _)

@[simp] theorem idSignature_length (q : Nat) (msg : List Byte) : (idSignature q msg).length = 3284 := by
  simp [idSignature, upTo]

@[simp] theorem State.certBytes_length (s : State) : s.certBytes.length = 3700 := by
  simp [State.certBytes, upTo]

@[simp] theorem State.mrBytes_length (s : State) : s.mrBytes.length = 512 :=
  length_flatMap_upTo fun _ => digestBytes_length _

@[simp] theorem State.auditChain_length (s : State) : s.auditChain.length = 32 := by
  simp only [State.auditChain]
  split
  · exact List.length_replicate
  · exact digestBytes_length _

@[simp] theorem State.reportStack_length (s : State) (k : Nat) : (s.reportStack k).length = 8 := by
  unfold State.reportStack
  split
  · exact natToBytes_length _ _
  · split <;> exact natToBytes_length _ _

theorem State.reportBody_length (s : State) (q : Nat) {nonce : List Byte} (h : nonce.length = 32) : (s.reportBody q nonce).length = 736 := by
  have hstacks : ((upTo 8).flatMap s.reportStack).length = 64 := length_flatMap_upTo (State.reportStack_length s)
  -- `delta`, since the equation lemma of this definition times out.
  delta State.reportBody
  simp only [List.length_append, List.length_cons, List.length_nil, natToBytes_length, State.auditChain_length,
    State.mrBytes_length, hstacks, h]

/-! ## The rows that read out -/

theorem InFlight.buffersFit_of_le {f : InFlight} (hin : (opcodeBuffers f.opcode).1 = false ∨ f.u32 0x18 ≤ 2 ^ 20)
    (hout : f.u32 0x28 ≤ 2 ^ 24) : f.buffersFit = true := by
  simp only [InFlight.buffersFit, Bool.and_eq_true, Bool.or_eq_true, Bool.not_eq_true', decide_eq_true_eq]
  exact ⟨hin, .inr hout⟩

section ReadOut

variable {s : State} {ring : Fin 64} {idx : Word} {f : InFlight}

theorem exec_queryFloorPlan_of_short (h : Starts s ring idx 0xC f) (hshort : f.u32 0x28 < 8128) :
    exec (.queryFloorPlan ring idx) s = .next ((s.markStarted f.ring f.idx).refuseDesc f 2) := by
  refine congrArg Host.Outcome.next ((State.runDesc_of_starts h rfl).trans ?_)
  simp [hshort]

/-- A plan that can be queried is written with its record, and its generation is the result. -/
theorem exec_queryFloorPlan_of_plan {p : Plan} {origin : Nat} (h : Starts s ring idx 0xC f) (hout : f.u32 0x28 ≤ 2 ^ 24)
    (hlong : 8128 ≤ f.u32 0x28) (hok : s.hostOk (f.u64 0x20) 8128 = true) (hplan : s.queriedPlan = some (p, origin)) :
    exec (.queryFloorPlan ring idx) s = .next (((s.markStarted f.ring f.idx).hostWrite (f.u64 0x20)
      (p.record s.part s.dev.mode.code origin)).okDesc f p.generation.toNat) := by
  refine congrArg Host.Outcome.next ((State.runDesc_of_starts h rfl).trans ?_)
  have hfit : f.buffersFit = true := InFlight.buffersFit_of_le (.inl (by rw [h.opcode]; rfl)) hout
  have hplan' : (s.markStarted f.ring f.idx).queriedPlan = some (p, origin) := hplan
  have hok' : (s.markStarted f.ring f.idx).hostOk (f.u64 0x20) 8128 = true := hok
  simp only [hfit, hplan', hok', Nat.not_lt.mpr hlong]
  rfl

theorem State.queriedPlan_of_current (h : s.dev.mode ∈ [.check, .ready, .held]) :
    s.queriedPlan = some (s.plan, s.plan.origin.toNat) := by
  simp only [List.mem_cons, List.not_mem_nil, or_false] at h
  obtain hmode | hmode | hmode := h <;> rw [State.queriedPlan, hmode]

theorem State.queriedPlan_of_stored {p : Plan} (h : s.dev.mode ∈ [.limp, .shutdown]) (hp : s.storedPlan = some p) :
    s.queriedPlan = some (p, 4) := by
  simp only [List.mem_cons, List.not_mem_nil, or_false] at h
  obtain hmode | hmode := h <;> rw [State.queriedPlan, hmode, hp] <;> rfl

theorem exec_auditRead_of_starts (h : Starts s ring idx 0xF f) (hout : f.u32 0x28 ≤ 2 ^ 24) :
    exec (.auditRead ring idx) s =
      .next ((s.markStarted f.ring f.idx).answerOut f (s.auditEntries (f.u64 0x30) (f.u32 0x28))) := by
  refine congrArg Host.Outcome.next ((State.runDesc_of_starts h rfl).trans ?_)
  have hfit : f.buffersFit = true := InFlight.buffersFit_of_le (.inl (by rw [h.opcode]; rfl)) hout
  simp only [hfit]
  rfl

theorem exec_blackboxRead_of_short (h : Starts s ring idx 0x10 f) (hshort : f.u32 0x28 < 64) :
    exec (.blackboxRead ring idx) s = .next ((s.markStarted f.ring f.idx).refuseDesc f 2) := by
  refine congrArg Host.Outcome.next ((State.runDesc_of_starts h rfl).trans ?_)
  simp [hshort]

theorem exec_blackboxRead_of_starts (h : Starts s ring idx 0x10 f) (hout : f.u32 0x28 ≤ 2 ^ 24) (hlong : 64 ≤ f.u32 0x28) :
    exec (.blackboxRead ring idx) s = .next ((s.markStarted f.ring f.idx).answerOut f
      (s.bbHeader (f.u64 0x30) ((f.u32 0x28 - 64) / 64) ++ s.bbRecords (f.u64 0x30) ((f.u32 0x28 - 64) / 64))) := by
  refine congrArg Host.Outcome.next ((State.runDesc_of_starts h rfl).trans ?_)
  have hfit : f.buffersFit = true := InFlight.buffersFit_of_le (.inl (by rw [h.opcode]; rfl)) hout
  simp only [hfit, Nat.not_lt.mpr hlong]
  rfl

end ReadOut

theorem readOutDescriptors : ReadOutDescriptors := by
  intro ring idx f s hout hok
  refine ⟨fun h => ⟨?_, ?_, ?_⟩, fun h => ?_, fun h hlong => ?_, fun h hshort => ?_⟩
  · intro hshort
    exact ⟨_, exec_queryFloorPlan_of_short h hshort, answered_refuseDesc h.findDesc 2⟩
  · intro hlong hmode
    exact ⟨_, exec_queryFloorPlan_of_plan h hout hlong (hok _) (State.queriedPlan_of_current hmode), answered_okDesc_hostWrite h.findDesc _ _ _⟩
  · intro p hlong hmode hp
    exact ⟨_, exec_queryFloorPlan_of_plan h hout hlong (hok _) (State.queriedPlan_of_stored hmode hp), answered_okDesc_hostWrite h.findDesc _ _ _⟩
  · exact ⟨_, exec_auditRead_of_starts h hout, answered_answerOut h.findDesc hok _, State.auditEntries_length s _ _⟩
  · exact ⟨_, exec_blackboxRead_of_starts h hout hlong, answered_answerOut h.findDesc hok _⟩
  · exact ⟨_, exec_blackboxRead_of_short h hshort, answered_refuseDesc h.findDesc 2⟩

/-! ## The signature index -/

@[simp] theorem TwoCopy.read_both {α : Type} (newer : α → α → Bool) (dflt v : α) : (TwoCopy.both v).read newer dflt = v := by
  simp [TwoCopy.read, TwoCopy.both]

@[simp] theorem State.spendIndex_sigIndex (s : State) : s.spendIndex.sigIndex = s.sigIndex + 1 := TwoCopy.read_both _ _ _

/-- A state whose next index has signed a text, which stands at a host address (R482, R507). -/
def State.signedAt (s : State) (a : Nat) (text : List Byte) : State := (s.spendIndex.cntSec 0x100 1).hostWrite a text

theorem State.signedAt_eq (s : State) (a : Nat) (text : List Byte) : s.signedAt a text = { s with
    mram.sigIndex := (s.signedAt a text).mram.sigIndex, sec.counters := s.sec.counters.add 0x100 1
    host.mem := (s.signedAt a text).host.mem } := rfl

theorem State.signedAt_sigIndex (s : State) (a : Nat) (text : List Byte) : (s.signedAt a text).sigIndex = s.sigIndex + 1 :=
  State.spendIndex_sigIndex s

theorem State.signedAt_mem (s : State) (a : Nat) (text : List Byte) : (s.signedAt a text).host.mem = s.host.mem.writeBytes a text := rfl

/-! ## ATTEST -/

/-- An ATTEST descriptor that starts with a well-formed request `b` in IN and room in OUT (R485). -/
structure AttestRequest (s : State) (ring : Fin 64) (idx : Word) (f : InFlight) (b : List Byte) : Prop where
  starts : Starts s ring idx 0xA f
  inLength : f.u32 0x18 = 64
  outLimit : f.u32 0x28 ≤ 2 ^ 24
  outOk : ∀ n, s.hostOk (f.u64 0x20) n = true
  inOk : s.hostOk (f.u64 0x10) 64 = true
  request : b = s.hostRead (f.u64 0x10) 64
  flags : le b 32 4 < 2
  reserved : zeros b 36 28 = true
  room : 4020 + 3700 * le b 32 4 ≤ f.u32 0x28

/-- What ATTEST writes to OUT: the report of the state whose index is spent, its signature, and the certificate where the
request asks for it (R485, R486). -/
def State.attestText (s : State) (b : List Byte) : List Byte :=
  s.spendIndex.reportBody s.sigIndex (b.take 32) ++ idSignature s.sigIndex (s.spendIndex.reportBody s.sigIndex (b.take 32)) ++
    if le b 32 4 = 1 then s.certBytes else []

section Attest

variable {s : State} {ring : Fin 64} {idx : Word} {f : InFlight} {b : List Byte}

theorem AttestRequest.attestText_length (h : AttestRequest s ring idx f b) :
    (s.attestText b).length = 4020 + 3700 * le b 32 4 := by
  have hb : b.length = 64 := h.request ▸ Memory.readBytes_length _ _ _
  have hreport := State.reportBody_length s.spendIndex s.sigIndex (show (b.take 32).length = 32 by simp [hb])
  have hflags := h.flags
  rw [State.attestText, List.length_append, List.length_append, hreport, idSignature_length]
  by_cases hcert : le b 32 4 = 1
  · rw [if_pos hcert, State.certBytes_length, hcert]
  · rw [if_neg hcert, List.length_nil]
    omega

/-- A request is refused when the indices are exhausted, waits for the next level-1 tree, and is signed otherwise (R482, R484). -/
theorem AttestRequest.exec_attest (h : AttestRequest s ring idx f b) :
    exec (.attest ring idx) s = .next (
      if s.sigExhausted then (s.markStarted f.ring f.idx).refuseDesc f 0x3B
      else if !s.treeReady then s.markStarted f.ring f.idx
      else (s.spendIndex.markStarted f.ring f.idx).release f (s.attestText b)) := by
  refine congrArg Host.Outcome.next ((State.runDesc_of_starts h.starts rfl).trans ?_)
  have hfit : f.buffersFit = true := InFlight.buffersFit_of_le (.inr (by rw [h.inLength]; omega)) h.outLimit
  have hsize : (!f.buffersFit || decide (f.u32 0x18 ≠ 64)) = false := by simp [hfit, h.inLength]
  have hin : (s.markStarted f.ring f.idx).hostOk (f.u64 0x10) (f.u32 0x18) = true := h.inLength ▸ h.inOk
  have hread : (s.markStarted f.ring f.idx).hostRead (f.u64 0x10) (f.u32 0x18) = b := by rw [h.inLength, h.request]; rfl
  have hform : (decide (2 ≤ le b 32 4) || !zeros b 36 28 || decide (f.u32 0x28 < if le b 32 4 = 1 then 7720 else 4020)) = false := by
    have hflags := h.flags
    have hroom := h.room
    simp only [h.reserved, Bool.or_eq_false_iff, decide_eq_false_iff_not, Bool.not_true, and_true]
    by_cases hcert : le b 32 4 = 1
    · rw [if_pos hcert]; omega
    · rw [if_neg hcert]; omega
  simp only [State.withIn, hsize, hin, hread, beq_iff_eq, hform, Bool.false_eq_true, if_false, if_true]
  -- The two sides differ by the mark alone, which neither the index nor the report reads.
  rfl

theorem AttestRequest.refused (h : AttestRequest s ring idx f b) (hspent : s.sigExhausted = true) :
    ∃ t, exec (.attest ring idx) s = .next t ∧ Answered s t f 0x3B 0 0 := by
  refine ⟨_, h.exec_attest, ?_⟩
  rw [if_pos hspent]
  exact answered_refuseDesc h.starts.findDesc 0x3B

theorem AttestRequest.signed (h : AttestRequest s ring idx f b) (hindex : s.sigExhausted = false) (htree : s.treeReady = true) :
    ∃ t, exec (.attest ring idx) s = .next t ∧
      Answered (s.signedAt (f.u64 0x20) (s.attestText b)) t f 0 0 (4020 + 3700 * le b 32 4) := by
  refine ⟨_, h.exec_attest, ?_⟩
  simp only [hindex, htree, ← h.attestText_length]
  exact answered_release (show s.spendIndex.findDesc f.ring f.idx = some f from h.starts.findDesc) h.outOk _

end Attest

/-! ## The trees and the entropy source -/

theorem exec_identityTreeReady {s : State} (h : s.dev.mode ∉ [.off, .aon]) :
    exec .identityTreeReady s = .next (if 2 ^ 15 * (s.mram.tree + 1) ≤ s.sigIndex + 4096 ∧ s.mram.tree + 1 < 2 ^ 15 then
      { s with mram.tree := s.mram.tree + 1 } else s) := by
  obtain ⟨hoff, haon⟩ : s.dev.mode ≠ .off ∧ s.dev.mode ≠ .aon := by simpa using h
  show execIdentityTreeReady s = _
  by_cases hnext : 2 ^ 15 * (s.mram.tree + 1) ≤ s.sigIndex + 4096 ∧ s.mram.tree + 1 < 2 ^ 15
  · rw [if_pos hnext, execIdentityTreeReady, if_pos (by simpa using hnext)]
  · rw [if_neg hnext, execIdentityTreeReady, if_neg (by simpa using hnext)]

theorem exec_entropyHealthTest (passed : Bool) {s : State} (h : s.dev.mode ∉ [.off, .aon]) :
    exec (.entropyHealthTest passed) s =
      .next { s with sec.entropyOk := passed, sec.entropyFail := s.sec.entropyFail || !passed } := by
  obtain ⟨hoff, haon⟩ : s.dev.mode ≠ .off ∧ s.dev.mode ≠ .aon := by simpa using h
  show execEntropyHealthTest passed s = _
  rw [execEntropyHealthTest, if_neg (by simp)]

theorem attestation : Attestation := by
  refine ⟨?_, fun s hmode => exec_identityTreeReady hmode, fun passed s hmode => exec_entropyHealthTest passed hmode⟩
  intro ring idx f s hstarts hin hlimit hout hinOk b hflags hreserved hroom
  have hreq : AttestRequest s ring idx f b := ⟨hstarts, hin, hlimit, hout, hinOk, rfl, hflags, hreserved, hroom⟩
  refine ⟨hreq.refused, fun hindex htree => ?_⟩
  obtain ⟨t, hexec, hanswered⟩ := hreq.signed hindex htree
  exact ⟨t, s.signedAt (f.u64 0x20) (s.attestText b), s.spendIndex.reportBody s.sigIndex (b.take 32), hexec, State.signedAt_eq s _ _,
    State.signedAt_sigIndex s _ _, rfl, State.signedAt_mem s _ _, hanswered⟩

/-- Settles O34: every descriptor that starts is answered from the state its mark leaves, and the mark is not seen in it. -/
theorem attestationAndReadOut : Obligations.AttestationAndReadOut := ⟨attestation, readOutDescriptors⟩

end Sys2Proof.Machine

/-! SUPPORT. The number formats' instructions: FALU (R134), CVT (R135) and MOVS (R136), each as the group it leaves. -/

namespace Sys2Proof.Machine

/-! ## The conversion status and the other writes of a group -/

@[simp] theorem Group.reg_orCstat (g : Group) (e : Exc) (l r : Nat) : (g.orCstat e).reg l r = g.reg l r := rfl
@[simp] theorem Group.pcOf_orCstat (g : Group) (e : Exc) (l : Nat) : (g.orCstat e).pcOf l = g.pcOf l := rfl

@[simp] theorem Group.cstat_orCstat (g : Group) (e : Exc) : (g.orCstat e).cstat = g.cstat ||| e := rfl

theorem Group.cstat_eq_of_bare {g h : Group} (hbare : g.bare = h.bare) : g.cstat = h.cstat :=
  show g.bare.cstat = h.bare.cstat from congrArg Group.cstat hbare
theorem Group.aflags_eq_of_bare {g h : Group} (hbare : g.bare = h.bare) : g.aflags = h.aflags :=
  show g.bare.aflags = h.bare.aflags from congrArg Group.aflags hbare

theorem Group.orCstat_orCstat (g : Group) (d e : Exc) : (g.orCstat d).orCstat e = g.orCstat (d ||| e) := by
  simp only [Group.orCstat, BitVec.or_assoc]

@[simp] theorem Group.orCstat_zero (g : Group) : g.orCstat 0 = g := by
  simp [Group.orCstat]

theorem Group.setLanes_orCstat (g : Group) (e : Exc) (r : Nat) (f : Nat → Word) (ls : List Nat) :
    (g.orCstat e).setLanes r f ls = (g.setLanes r f ls).orCstat e :=
  List.foldl_hom (fun g : Group => g.orCstat e) fun _ _ => rfl

theorem Group.setLanes_setPc (g : Group) (l v r : Nat) (f : Nat → Word) (ls : List Nat) :
    (g.setPc l v).setLanes r f ls = (g.setLanes r f ls).setPc l v :=
  List.foldl_hom (fun g : Group => g.setPc l v) fun _ _ => rfl

theorem Group.setLanes_advance (g : Group) (pc r : Nat) (f : Nat → Word) (ks ls : List Nat) :
    (g.advance pc ks).setLanes r f ls = (g.setLanes r f ls).advance pc ks :=
  (List.foldl_hom (fun g : Group => g.setLanes r f ls) fun g k => (g.setLanes_setPc k (pc + 8) r f ls).symm).symm

/-! ## Results with exceptions (R65) -/

/-- The exceptions of some threads, ORed. -/
def laneExcs (f : Nat → Nat × Exc) (ls : List Nat) : Exc := (ls.map fun l => (f l).2).foldl (· ||| ·) 0

theorem laneExcs_cons (f : Nat → Nat × Exc) (l : Nat) (ls : List Nat) : laneExcs f (l :: ls) = (f l).2 ||| laneExcs f ls := by
  rw [laneExcs, List.map_cons, List.foldl_cons, BitVec.or_comm, List.foldl_assoc, laneExcs]

theorem getLsbD_laneExcs (f : Nat → Nat × Exc) (ls : List Nat) (k : Nat) :
    (laneExcs f ls).getLsbD k = ls.any fun l => (f l).2.getLsbD k := by
  induction ls with
  | nil => simp [laneExcs]
  | cons l ls ih => rw [laneExcs_cons, BitVec.getLsbD_or, ih, List.any_cons]

theorem laneExcs_zero (v : Nat → Nat) (ls : List Nat) : laneExcs (fun l => (v l, 0)) ls = 0 := by
  induction ls with
  | nil => rfl
  | cons l ls ih =>
    rw [laneExcs_cons, ih]
    exact BitVec.or_zero

/-- The group that an instruction with results and exceptions `f` leaves: RD written, the instruction passed, and the
exceptions in CSTAT. -/
def Issue.floatGroup (i : Issue) (f : Nat → Nat × Exc) : Group :=
  ((i.grp.setLanes (insRD i.word) (fun l => BitVec.ofNat 32 (f l).1) i.lanes).advance i.pc i.lanes).orCstat (laneExcs f i.lanes)

theorem Issue.floatGroup_effect {i : Issue} (hl : ∀ l ∈ i.lanes, l < 32) (f : Nat → Nat × Exc) :
    Writes i (i.floatGroup f) (insRD i.word) (fun l => BitVec.ofNat 32 (f l).1) ∧ Passes i (i.floatGroup f) ∧
      (∀ k, (i.floatGroup f).cstat.getLsbD k = (i.grp.cstat.getLsbD k || i.lanes.any fun l => (f l).2.getLsbD k)) ∧
      { (i.floatGroup f).bare with cstat := 0 } = { i.grp.bare with cstat := 0 } := by
  obtain ⟨hwrites, hpasses, hbare⟩ := Issue.alu_effect hl (insRD i.word) fun l => BitVec.ofNat 32 (f l).1
  refine ⟨hwrites, hpasses, fun k => ?_, congrArg (fun b : Group => { b with cstat := 0 }) hbare⟩
  rw [Issue.floatGroup, Group.cstat_orCstat, Group.cstat_eq_of_bare hbare, BitVec.getLsbD_or, getLsbD_laneExcs]

theorem State.faluWrite_eq (s : State) (i : Issue) (f : Nat → Nat × Exc) : s.faluWrite i f = s.putGroup i (i.floatGroup f) := rfl

theorem State.aluWrite_eq_faluWrite (s : State) (i : Issue) (v : Nat → Nat) :
    s.aluWrite i (fun l => BitVec.ofNat 32 (v l)) = s.faluWrite i fun l => (v l, 0) := by
  rw [State.faluWrite_eq, Issue.floatGroup, laneExcs_zero, Group.orCstat_zero]
  rfl

theorem State.aluWrite_ofBool (s : State) (i : Issue) (b : Nat → Bool) :
    s.aluWrite i (fun l => Word.ofBool (b l)) = s.faluWrite i fun l => (if b l then 1 else 0, 0) := by
  rw [← State.aluWrite_eq_faluWrite]
  refine congrArg (s.aluWrite i) (funext fun l => ?_)
  cases b l <;> rfl

/-! ## The rows of FALU (R134) -/

/-- The row's instruction writes the row's results wherever it issues. -/
def FloatRow.Computes (e : FloatRow) : Prop :=
  ∀ (site : Site) (low : BitVec 52) (s : State) (i : Issue), Issues s site (insWord 1 e.op low) (e.shape (insWord 1 e.op low)) i →
    exec (e.instr site low) s = .next ((s.cntTile i.t 0x100 1).faluWrite i (e.value i))

/-- A row computes when its instruction issues with a body that writes its results. -/
theorem FloatRow.computes_of_body {e : FloatRow} (body : Nat → Issue → State → State)
    (hexec : ∀ site low s, exec (e.instr site low) s =
      .next (s.issueIns site (insWord 1 e.op low) (e.shape (insWord 1 e.op low)) (body (insWord 1 e.op low))))
    (hbody : ∀ i s, body i.word i s = s.faluWrite i (e.value i)) : e.Computes := by
  intro site low s i hi
  rw [hexec, hi.issueIns, ← hi.word_eq, hbody]

section Rows

variable {instr : Site → BitVec 52 → Instr} {op : Nat}

theorem roundRow_computes {f : Nat → Nat → Nat → Nat × Exc}
    (hexec : ∀ site low s, exec (instr site low) s = .next (s.falu site op low f)) : (roundRow instr op f).Computes :=
  FloatRow.computes_of_body
    (fun w i s => s.faluWrite i fun l => f (insRND w) (i.grp.reg l (insRA w)).toNat (i.grp.reg l (insRB w)).toNat)
    hexec fun _ _ => rfl

theorem chooseRow_computes {f : Nat → Nat → Nat}
    (hexec : ∀ site low s, exec (instr site low) s = .next (s.faluPlain site op low f)) : (chooseRow instr op f).Computes :=
  FloatRow.computes_of_body (fun w i s => s.faluWrite i fun l => (f (i.grp.reg l (insRA w)).toNat (i.src2 l).toNat, 0))
    hexec fun _ _ => rfl

/-- A change of the sign bit, given on the register's word. -/
theorem signRow_computes (f : Nat → Nat) (b : Word → Word)
    (hexec : ∀ site low s, exec (instr site low) s = .next (s.faluSign site op low f)) (hf : ∀ x : Word, f x.toNat = (b x).toNat) :
    FloatRow.Computes ⟨instr, op, unaryShape, fun i l => ((b (i.grp.reg l (insRA i.word))).toNat, 0)⟩ :=
  FloatRow.computes_of_body (fun w i s => s.faluWrite i fun l => (f (i.grp.reg l (insRA w)).toNat, 0))
    hexec fun _ _ => by simp only [hf]

end Rows

theorem fpAbs_binary32 (x : Word) : fpAbs 0 x.toNat = (x &&& 0x7FFFFFFF).toNat := by
  rw [BitVec.toNat_and]
  exact (Nat.and_two_pow_sub_one_eq_mod x.toNat 31).symm

theorem fpNeg_binary32 (x : Word) : fpNeg 0 x.toNat = (x ^^^ 0x80000000).toNat := by
  rw [BitVec.toNat_xor]
  rfl

theorem floatRows_compute : ∀ e ∈ floatRows, e.Computes := by
  simp only [floatRows, List.forall_mem_cons]
  exact ⟨roundRow_computes fun _ _ _ => rfl, roundRow_computes fun _ _ _ => rfl, roundRow_computes fun _ _ _ => rfl,
    FloatRow.computes_of_body (fun w i s => s.faluWrite i fun l =>
      fpFma 0 (insRND w) (i.grp.reg l (insRA w)).toNat (i.grp.reg l (insRB w)).toNat (i.grp.reg l (insRC w)).toNat)
      (fun _ _ _ => rfl) fun _ _ => rfl,
    chooseRow_computes fun _ _ _ => rfl, chooseRow_computes fun _ _ _ => rfl,
    signRow_computes (fpAbs 0) (· &&& 0x7FFFFFFF) (fun _ _ _ => rfl) fpAbs_binary32,
    signRow_computes (fpNeg 0) (· ^^^ 0x80000000) (fun _ _ _ => rfl) fpNeg_binary32,
    FloatRow.computes_of_body (fun w i s => s.aluWrite i fun l =>
      Word.ofBool (fsetCompare (insMOD w) (i.grp.reg l (insRA w)).toNat (i.src2 l).toNat))
      (fun _ _ _ => rfl) fun i s => s.aluWrite_ofBool i _,
    List.forall_mem_nil _⟩

/-- Settles O7: every row writes the group of its results and exceptions. -/
theorem floatInstructionResults : Obligations.FloatInstructionResults := by
  intro e he site low s i hi
  refine ⟨_, i.floatGroup (e.value i), floatRows_compute e he site low s i hi, GroupOnly.putGroup s i _, ?_⟩
  rw [← hi.word_eq]
  exact Issue.floatGroup_effect hi.lanes_lt (e.value i)

/-! ## Changes of one tile -/

/-- Nothing changes but one tile, which becomes `v`. -/
def TileOnly (s t : State) (n : Nat) (v : Tile) : Prop :=
  t = { s with tiles := t.tiles } ∧ (∀ m, m ≠ n → t.tile m = s.tile m) ∧ t.tile n = v

theorem TileOnly.refl (s : State) (n : Nat) : TileOnly s s n (s.tile n) := ⟨rfl, fun _ _ => rfl, rfl⟩

theorem TileOnly.updTile {s t : State} {n : Nat} {v : Tile} (h : TileOnly s t n v) (f : Tile → Tile) :
    TileOnly s (t.updTile n f) n (f v) := by
  obtain ⟨hframe, hothers, hself⟩ := h
  refine ⟨?_, fun m hm => (State.updTile_tile_ne t f hm).trans (hothers m hm), by rw [State.updTile_tile_self, hself]⟩
  rw [hframe]
  rfl

/-! ## CVT (R135) -/

/-- Where the rounding is not stochastic, no thread takes random bits, and the threads' results and exceptions gather. -/
theorem cvtLanes_of_not_stochastic {i : Issue} (h : insRND i.word ≠ 2) (ls : List Nat) (g : Group) (r : Rng) :
    cvtLanes i i.word ls g r = some ((g.setLanes (insRD i.word)
      (fun l => BitVec.ofNat 32 (widen (cvtDst i.word) (cvtValue i l).1)) ls).orCstat (laneExcs (cvtValue i) ls), r) := by
  induction ls generalizing g with
  | nil => exact congrArg (fun g => some (g, r)) g.orCstat_zero.symm
  | cons l ls ih =>
    rw [cvtLanes, if_neg h]
    refine (ih _).trans ?_
    rw [Group.setLanes_orCstat, Group.orCstat_orCstat, laneExcs_cons]
    rfl

/-- The lanes' results lie in the registers: the PCs stay. -/
theorem cvtLanes_pcOf {i : Issue} {w : Nat} {ls : List Nat} {g g' : Group} {r r' : Rng} (h : cvtLanes i w ls g r = some (g', r'))
    (k : Nat) : g'.pcOf k = g.pcOf k := by
  induction ls generalizing g r with
  | nil => cases h; rfl
  | cons l ls ih =>
    rw [cvtLanes] at h
    split at h
    · cases h
    · exact (ih h).trans rfl

/-- A counted instruction leaves the random-bit unit. -/
@[simp] theorem State.cntTile_rng (s : State) (t off n k : Nat) : ((s.cntTile t off n).tile k).rng = (s.tile k).rng := by
  by_cases h : k = t
  · subst h; rw [State.cntTile, State.updTile_tile_self]
  · rw [State.cntTile, State.updTile_tile_ne _ _ h]

section Cvt

variable {site : Site} {low : BitVec 52} {s : State} {i : Issue}

theorem Issues.exec_cvt (hi : Issues s site (insWord 2 0 low) (cvtShape (insWord 2 0 low)) i) {g : Group} {r : Rng}
    (hg : cvtLanes i i.word i.lanes (i.grp.advance i.pc i.lanes) (s.tile i.t).rng = some (g, r)) :
    exec (.cvt site low) s = .next (if insRND i.word = 2 then
      ((s.cntTile i.t 0x100 1).updTile i.t fun x => { x with
        rng := r, rngCounters := x.rngCounters.add 0x108 ((s.tile i.t).rng.drawsTo r i.t 1 0 i.lanes.length) }).putGroup i g
      else (s.cntTile i.t 0x100 1).putGroup i g) := by
  refine congrArg Host.Outcome.next ((hi.issueIns _).trans ?_)
  simp only [← hi.word_eq, State.cntTile_rng, hg]

/-- The nearest and the truncating rounding leave the group of the converted values. -/
theorem Issues.exec_cvt_of_not_stochastic (hi : Issues s site (insWord 2 0 low) (cvtShape (insWord 2 0 low)) i)
    (h : insRND i.word ≠ 2) : exec (.cvt site low) s = .next ((s.cntTile i.t 0x100 1).putGroup i
      (i.floatGroup fun l => (widen (cvtDst i.word) (cvtValue i l).1, (cvtValue i l).2))) := by
  rw [hi.exec_cvt (cvtLanes_of_not_stochastic h _ _ _), if_neg h, Group.setLanes_advance]
  rfl

end Cvt

/-- Settles O8: without SR4 the lanes' values gather in one group; with it the unit and its count are replaced beside the group. -/
theorem conversionResults : Obligations.ConversionResults := by
  intro site low s i hi
  have hw := hi.word_eq
  rw [← hw]
  refine ⟨fun hrnd => ?_, fun hrnd g r hg => ?_⟩
  · exact ⟨_, _, hi.exec_cvt_of_not_stochastic hrnd, GroupOnly.putGroup s i _, Issue.floatGroup_effect hi.lanes_lt _⟩
  · obtain ⟨hframe, hothers, htile⟩ := (((TileOnly.refl s i.t).updTile fun x => { x with counters := x.counters.add 0x100 1 }).updTile
      fun x => { x with rng := r, rngCounters := x.rngCounters.add 0x108 ((s.tile i.t).rng.drawsTo r i.t 1 0 i.lanes.length) }).updTile
      fun x => { x with groups := smPut x.groups i.key g }
    refine ⟨_, (hi.exec_cvt hg).trans (congrArg Host.Outcome.next (if_pos hrnd)), hframe, hothers, htile, fun l => ?_⟩
    rw [cvtLanes_pcOf hg, Group.pcOf_advance]

/-! ## MOVS (R136) -/

theorem Shape.modOk_of_ok {h : Shape} {w n : Nat} (hok : h.ok w n = true) : h.modOk = true := by
  simp only [Shape.ok, Bool.and_eq_true] at hok
  exact hok.1.2

theorem Issues.modOk {s : State} {site : Site} {w : Nat} {h : Shape} {i : Issue} (hi : Issues s site w h i) : h.modOk = true := by
  obtain ⟨-, -, hok, -⟩ := hi
  exact Shape.modOk_of_ok hok

/-- A group whose special register of a code has been read: CSTAT and AFLAGS are cleared by it (R136). -/
def Group.afterRead (g : Group) (c : Nat) : Group :=
  if c = 0x16 then { g with cstat := 0 } else if c = 0x17 then { g with aflags := 0 } else g

/-- The three kinds of codes, for a property of the group that a read leaves. -/
theorem Group.afterRead_keeps {α : Type} (q : Group → α) (hc : ∀ g : Group, q { g with cstat := 0 } = q g)
    (ha : ∀ g : Group, q { g with aflags := 0 } = q g) (g : Group) (c : Nat) : q (g.afterRead c) = q g := by
  unfold Group.afterRead
  split
  · exact hc g
  · split
    · exact ha g
    · rfl

@[simp] theorem Group.reg_afterRead (g : Group) (c l r : Nat) : (g.afterRead c).reg l r = g.reg l r :=
  Group.afterRead_keeps (fun g => g.reg l r) (fun _ => rfl) (fun _ => rfl) g c

@[simp] theorem Group.pcOf_afterRead (g : Group) (c l : Nat) : (g.afterRead c).pcOf l = g.pcOf l :=
  Group.afterRead_keeps (fun g => g.pcOf l) (fun _ => rfl) (fun _ => rfl) g c

theorem Group.bare_afterRead (g : Group) (c : Nat) :
    { (g.afterRead c).bare with cstat := 0, aflags := 0 } = { g.bare with cstat := 0, aflags := 0 } :=
  Group.afterRead_keeps (fun g => { g.bare with cstat := 0, aflags := 0 }) (fun _ => rfl) (fun _ => rfl) g c

theorem Group.cstat_afterRead (g : Group) (c : Nat) : (g.afterRead c).cstat = if c = 0x16 then 0 else g.cstat := by
  by_cases h : c = 0x16
  · subst h; rfl
  · unfold Group.afterRead
    rw [if_neg h, if_neg h]
    split <;> rfl

theorem Group.aflags_afterRead (g : Group) (c : Nat) : (g.afterRead c).aflags = if c = 0x17 then 0 else g.aflags := by
  by_cases h : c = 0x17
  · subst h; rfl
  · unfold Group.afterRead
    rw [if_neg h, if_neg h]
    split <;> rfl

theorem Issues.exec_movs {site : Site} {low : BitVec 52} {s : State} {i : Issue}
    (hi : Issues s site (insWord 3 1 low) (movsShape (insWord 3 1 low)) i)
    (hready : (s.tile i.t).vecPending i.key (decide (0x0D ≤ insIMM i.word ∧ insIMM i.word ≤ 0x10))
      (decide (0x11 ≤ insIMM i.word ∧ insIMM i.word ≤ 0x15)) (decide (insIMM i.word = 0x16)) = false) :
    exec (.movs site low) s = .next ((s.cntTile i.t 0x100 1).putGroup i
      (((i.grp.setLanes (insRD i.word) (fun l => BitVec.ofNat 32 ((special i (s.tile i.t) (insIMM i.word) l).getD 0)) i.lanes).advance
        i.pc i.lanes).afterRead (insIMM i.word))) := by
  have hcode : insIMM i.word % 256 = insIMM i.word := by
    have hmod := hi.modOk
    simp only [movsShape, Bool.and_eq_true, decide_eq_true_eq, ← hi.word_eq] at hmod
    exact Nat.mod_eq_of_lt hmod.1.2
  refine congrArg Host.Outcome.next ((hi.issueIns _).trans ?_)
  simp only [← hi.word_eq, hcode, hready]
  rfl

theorem Writes.congr {i : Issue} {g : Group} {rd : Nat} {f f' : Nat → Word} (h : Writes i g rd f) (hf : ∀ l ∈ i.lanes, f l = f' l) :
    Writes i g rd f' := by
  intro l r hl
  rw [h l r hl]
  by_cases hw : l ∈ i.lanes ∧ r = rd
  · rw [if_pos hw, if_pos hw, hf l hw.1]
  · rw [if_neg hw, if_neg hw]

/-- Settles O9: RD is written as by any scalar instruction, and the read clears what it names. -/
theorem specialRegisterRead : Obligations.SpecialRegisterRead := by
  intro site low s i v hi hready hv
  obtain ⟨hwrites, hpasses, hbare⟩ := Issue.alu_effect hi.lanes_lt (insRD i.word) fun l =>
    BitVec.ofNat 32 ((special i (s.tile i.t) (insIMM i.word) l).getD 0)
  refine ⟨_, _, hi.exec_movs hready, GroupOnly.putGroup s i _, ?_, fun l => ?_, ?_, ?_, ?_⟩
  · intro l r hl
    rw [Group.reg_afterRead]
    exact hwrites.congr (fun k hk => by rw [hv k hk, Option.getD_some]) l r hl
  · rw [Group.pcOf_afterRead]
    exact hpasses l
  · rw [Group.cstat_afterRead, Group.cstat_eq_of_bare hbare]
  · rw [Group.aflags_afterRead, Group.aflags_eq_of_bare hbare]
  · rw [Group.bare_afterRead, hbare]

end Sys2Proof.Machine

/-! SUPPORT. Job-fatal faults of the tiles' instructions (R156, R511, R516), and tiles without a flipped bit (R261). -/

namespace Sys2Proof.Machine

/-! ## Job-fatal faults -/

theorem Job.ended_of_runs {v : Job} (h : v.runs = true) : v.ended = none := by
  simp only [Job.runs, Bool.and_eq_true, Option.isNone_iff_eq_none] at h
  obtain ⟨⟨hended, -⟩, -⟩ := h
  exact hended

/-- What a fault records of the end of a job (R511, R516). -/
def jobFaultEnd (aon : Dword) (v : Job) (code : Nat) (site : FaultSite) (info : List Byte) (bb : Word) : JobEnd :=
  ⟨3, BitVec.ofNat 8 code, aon, site.tile, site.group, site.lanes, site.pc, 1, BitVec.ofNat 8 code, v.image.stackBits,
    BitVec.ofNat 256 (bytesToNat info), bb, false⟩

/-- The first fault of a job decides its end. -/
theorem State.jobFault_of_not_ended {s : State} {j : Nat} {v : Job} (hj : s.job j = some v) (he : v.ended = none) (code : Nat)
    (site : FaultSite) (info : List Byte) (bb : Word) :
    s.jobFault j code site info bb = s.setJob j { v with ended := some (jobFaultEnd s.aon v code site info bb) } := by
  simp [State.jobFault, State.updJob, hj, he, jobFaultEnd]

@[simp] theorem State.setJob_tile (s : State) (j k : Nat) (v : Job) : (s.setJob j v).tile k = s.tile k := rfl

theorem State.cntTile_tile_self (s : State) (t off n : Nat) :
    (s.cntTile t off n).tile t = { s.tile t with counters := (s.tile t).counters.add off n } := State.updTile_tile_self s t _

theorem State.cntTile_tile_ne (s : State) {t k : Nat} (off n : Nat) (h : k ≠ t) : (s.cntTile t off n).tile k = s.tile k :=
  State.updTile_tile_ne s _ h

theorem State.job_of_present {s : State} {j : Nat} (h : s.present j = true) : ∃ v, s.job j = some v ∧ v.ended = none := by
  unfold State.present at h
  split at h
  · next v hv => exact ⟨v, hv, Option.isNone_iff_eq_none.mp h⟩
  · cases h

theorem Issues.job_not_ended {s : State} {site : Site} {w : Nat} {h : Shape} {i : Issue} (hi : Issues s site w h i) :
    s.job i.jobId = some i.job ∧ i.job.ended = none := by
  obtain ⟨hissue, -⟩ := hi
  obtain ⟨-, -, -, -, -, -, hjob, -, -, -, hruns, -, -⟩ := State.issueAt_some hissue
  exact ⟨hjob, Job.ended_of_runs hruns⟩

/-- A fault of an instruction that issues, with its word and an address in INFO, ends the job. -/
theorem Issues.faultEnds_insFault {s : State} {site : Site} {w : Nat} {h : Shape} {i : Issue} (hi : Issues s site w h i)
    (code addr : Nat) :
    FaultEnds s ((s.cntTile i.t 0x100 1).insFault i code addr) i code (natToBytes 8 w ++ natToBytes 4 addr) := by
  obtain ⟨hjob, hended⟩ := hi.job_not_ended
  rw [State.insFault, State.tileFault, State.jobFault_of_not_ended (s := s.cntTile i.t 0x100 1) hjob hended, hi.word_eq]
  refine ⟨rfl, fun n hn => ?_, ?_, fun j hj => State.setJob_job_ne (s.cntTile i.t 0x100 1) _ hj,
    State.setJob_job_self (s.cntTile i.t 0x100 1) _ _⟩
  · rw [State.cntTile_tile_ne _ _ _ hn, State.setJob_tile, State.cntTile_tile_ne _ _ _ hn]
  · rw [State.cntTile_tile_self, State.setJob_tile, State.cntTile_tile_self]

/-! ## Tiles that are replaced, and words without a flipped bit -/

theorem State.readWords_of_flips_nil {s : State} {t : Nat} (h : (s.tile t).flips = []) (nR share : Nat) (p : Nat → Bool) :
    s.readWords t nR share p = (true, s) := by
  rw [State.readWords, h]
  rfl

theorem TileOnly.setTile (s : State) (n : Nat) (v : Tile) : TileOnly s (s.setTile n v) n v :=
  ⟨rfl, fun _ hm => State.setTile_tile_ne s v hm, State.setTile_tile_self s n v⟩

theorem Issues.flips_cntTile {s : State} {site : Site} {w : Nat} {h : Shape} {i : Issue} (hi : Issues s site w h i) :
    ((s.cntTile i.t 0x100 1).tile i.t).flips = [] := by
  obtain ⟨hissue, -, -, hflips⟩ := hi
  rw [State.cntTile_tile_self, (State.issueAt_some hissue).1]
  exact hflips

end Sys2Proof.Machine

/-! SUPPORT. The acceptance of the cube array's operations (R76, R80 to R83, R96, R105). -/

namespace Sys2Proof.Machine

/-- The shape of MMA, EWMUL and EWADD: RA and OFF name the descriptor. -/
def arrayShape (w : Nat) : Shape := ⟨0, 1, 0, 0, true, false, insMOD w == 0, 0, true, false⟩

/-- The operation that enters the queue, with its descriptor as read. -/
def arrayOpAt (s : State) (i : Issue) : ArrayOp :=
  ⟨i.key, i.grp.id, aodAt s i, BitVec.ofNat 64 i.word, BitVec.ofNat 32 i.pc, laneMask i.lanes, i.grp.vout, aodAddr i⟩

/-- The issuing group once its operation is accepted. -/
def Issue.arrayGroup (i : Issue) : Group := { (i.grp.advance i.pc i.lanes) with aout := i.grp.aout + 1 }

theorem Issue.arrayGroup_effect (i : Issue) : Passes i i.arrayGroup ∧ (∀ l r, i.arrayGroup.reg l r = i.grp.reg l r) ∧
    i.arrayGroup.aout = i.grp.aout + 1 ∧ { i.arrayGroup.bare with aout := 0 } = { i.grp.bare with aout := 0 } :=
  ⟨Group.pcOf_advance i.grp i.pc i.lanes, Group.reg_advance i.grp i.pc i.lanes, rfl,
    congrArg (fun b : Group => { b with aout := 0 }) (Group.bare_advance i.grp i.pc i.lanes)⟩

/-- The state in which the operation is accepted. -/
def State.arrayAccepted (s : State) (i : Issue) : State :=
  ((s.cntTile i.t 0x100 1).updTile i.t fun x => { x with arrayQueue := x.arrayQueue ++ [arrayOpAt s i] }).putGroup i i.arrayGroup

theorem State.arrayAccepted_tileOnly (s : State) (i : Issue) : TileOnly s (s.arrayAccepted i) i.t { s.tile i.t with
    groups := smPut (s.tile i.t).groups i.key i.arrayGroup, counters := (s.tile i.t).counters.add 0x100 1
    arrayQueue := (s.tile i.t).arrayQueue ++ [arrayOpAt s i] } :=
  (((TileOnly.refl s i.t).updTile fun x => { x with counters := x.counters.add 0x100 1 }).updTile
    fun x => { x with arrayQueue := x.arrayQueue ++ [arrayOpAt s i] }).updTile
    fun x => { x with groups := smPut x.groups i.key i.arrayGroup }

section Accept

variable {site : Site} {low : BitVec 52} {s : State} {i : Issue}

/-- Acceptance on a tile without a flipped bit: the checks in their order, on the tile as it is before the count. -/
theorem Issues.acceptArray (hi : Issues s site (insWord 9 0 low) (arrayShape (insWord 9 0 low)) i) (opc : Nat) :
    s.acceptArray site opc low =
      if 32 ≤ (s.tile i.t).arrayQueue.length || 32 ≤ i.grp.aout || (s.tile i.t).vecOverlap i.job.image i.key (aodAddr i) 80 then s
      else if aodAddr i % 16 ≠ 0 || i.job.image.share < aodAddr i + 80 then (s.cntTile i.t 0x100 1).insFault i 0x21 (aodAddr i)
      else if (Aod.decode (aodAt s i)).opc ≤ 2 && decide ((Aod.decode (aodAt s i)).opc ≠ opc) then s
      else if !(Aod.decode (aodAt s i)).fieldsOk then (s.cntTile i.t 0x100 1).insFault i 0x20 (aodAddr i)
      else if !(Aod.decode (aodAt s i)).rangesOk i.job.image.share then (s.cntTile i.t 0x100 1).insFault i 0x21 (aodAddr i)
      else s.arrayAccepted i := by
  refine (hi.issueIns _).trans ?_
  rw [← hi.word_eq]
  simp only [State.readWords_of_flips_nil hi.flips_cntTile, State.cntTile_tile_self]
  rfl

end Accept

theorem exec_arrayIssue {e : Nat × (Site → BitVec 52 → Instr)}
    (he : e ∈ [((0 : Nat), Instr.mma), (1, Instr.ewmul), (2, Instr.ewadd)]) (site : Site) (low : BitVec 52) (s : State) :
    exec (e.2 site low) s = .next (s.acceptArray site e.1 low) := by
  simp only [List.mem_cons, List.not_mem_nil, or_false] at he
  obtain rfl | rfl | rfl := he <;> rfl

/-- Settles O17: the checks of an acceptance, one after the other; the first that fails decides. -/
theorem arrayOperationAccepted : Obligations.ArrayOperationAccepted := by
  intro e he site low s i w a o hi waits
  have hexec := (exec_arrayIssue he site low s).trans (congrArg Host.Outcome.next (hi.acceptArray e.1))
  have hwaits_iff : (32 ≤ (s.tile i.t).arrayQueue.length || 32 ≤ i.grp.aout ||
      (s.tile i.t).vecOverlap i.job.image i.key (aodAddr i) 80) = true ↔ waits := by simp [waits, or_assoc]
  refine ⟨fun hwaits => ?_, fun hfree => ?_⟩
  · rw [hexec, if_pos (hwaits_iff.mpr hwaits)]
  · rw [if_neg (mt hwaits_iff.mp hfree)] at hexec
    have hplaced (haligned : a % 16 = 0) (hin : a + 80 ≤ i.job.image.share) (hop : o.opc = e.1 ∨ 2 < o.opc) :
        exec (e.2 site low) s = .next (if !o.fieldsOk then (s.cntTile i.t 0x100 1).insFault i 0x20 a
          else if !o.rangesOk i.job.image.share then (s.cntTile i.t 0x100 1).insFault i 0x21 a else s.arrayAccepted i) := by
      rw [hexec, if_neg (by simpa using And.intro haligned hin), if_neg (by simpa using fun hle => hop.resolve_right (Nat.not_lt.mpr hle))]
    refine ⟨fun hplace => ?_, fun haligned hin hop hfields => ?_, fun haligned hin hop hfields hranges => ?_,
      fun haligned hin hop hfields hranges => ?_⟩
    · rw [if_pos (by simpa using hplace)] at hexec
      exact ⟨_, hexec, hi.faultEnds_insFault 0x21 a⟩
    · rw [hplaced haligned hin hop, hfields]
      exact ⟨_, rfl, hi.faultEnds_insFault 0x20 a⟩
    · rw [hplaced haligned hin (.inl hop), hfields, hranges]
      exact ⟨_, rfl, hi.faultEnds_insFault 0x21 a⟩
    · rw [hplaced haligned hin (.inl hop), hfields, hranges]
      obtain ⟨hframe, hothers, htile⟩ := s.arrayAccepted_tileOnly i
      rw [arrayOpAt, hi.word_eq] at htile
      exact ⟨_, _, rfl, hframe, hothers, htile, i.arrayGroup_effect⟩

end Sys2Proof.Machine

/-! SUPPORT. What the cube array does with the head of its queue: it holds a face, drains or refuses (R73, R81 to R89, R96). -/

namespace Sys2Proof.Machine

/-! ## Tables after a fold of writes -/

section Fold

variable {α β : Type} [DecidableEq α] (d : α) (key : β → Nat) (f : β → α → α)

theorem smGet_foldl_smSet_of_ne {k : Nat} (l : List β) (m : SMap α) (h : ∀ c ∈ l, key c ≠ k) :
    smGet d (l.foldl (fun t c => smSet d t (key c) (f c (smGet d t (key c)))) m) k = smGet d m k := by
  induction l generalizing m with
  | nil => rfl
  | cons c l ih =>
    obtain ⟨hc, hl⟩ := List.forall_mem_cons.mp h
    exact (ih _ hl).trans (smGet_smSet_ne d m _ hc.symm)

/-- Where no key comes twice, each entry is changed once, from what it was. -/
theorem smGet_foldl_smSet_of_mem {c : β} {l : List β} (hl : (l.map key).Nodup) (hc : c ∈ l) (m : SMap α) :
    smGet d (l.foldl (fun t c => smSet d t (key c) (f c (smGet d t (key c)))) m) (key c) = f c (smGet d m (key c)) := by
  induction l generalizing m with
  | nil => cases hc
  | cons b l ih =>
    obtain ⟨hb, hl⟩ := List.nodup_cons.mp hl
    rw [List.foldl_cons]
    obtain rfl | hc := List.mem_cons.mp hc
    · rw [smGet_foldl_smSet_of_ne d key f l _ fun a ha hab => hb (List.mem_map.mpr ⟨a, ha, hab⟩), smGet_smSet_self]
    · have hbc : key c ≠ key b := fun h => hb (h ▸ List.mem_map_of_mem hc)
      rw [ih hl hc, smGet_smSet_ne d m _ hbc]

end Fold

/-! ## The accumulators of a face (R73, R84) -/

/-- With at most 64 columns no two accumulators of a product share an entry of the face. -/
theorem faceKeys_nodup (m : Nat) {n : Nat} (hn : n ≤ 64) :
    ((((upTo m).map fun i => (upTo n).map fun j => (i, j)).flatten).map fun c : Nat × Nat => 64 * c.1 + c.2).Nodup := by
  refine List.pairwise_map.mpr (List.pairwise_flatten.mpr ⟨fun l hl => ?_, ?_⟩)
  · obtain ⟨i, -, rfl⟩ := List.mem_map.mp hl
    exact List.pairwise_map.mpr (List.pairwise_lt_range.imp fun {j k} hjk => show 64 * i + j ≠ 64 * i + k by omega)
  · refine List.pairwise_map.mpr (List.pairwise_lt_range.imp fun {i k} hik x hx y hy => ?_)
    obtain ⟨j, hj, rfl⟩ := List.mem_map.mp hx
    obtain ⟨l, -, rfl⟩ := List.mem_map.mp hy
    have hjn : j < n := List.mem_range.mp hj
    show 64 * i + j ≠ 64 * k + l
    omega

theorem Aod.runFace_anchor (o : Aod) (m : Memory) (f : Face) :
    (o.runFace m f).1 = (o.startFace m f (o.anchorSel m (upTo o.m) (upTo o.n))).1 := rfl

/-- Each accumulator is its starting value plus the products of its row of A and its row of B (R84). -/
theorem Aod.runFace_acc (o : Aod) (m : Memory) (f : Face) (hn : o.n ≤ 64) {p q : Nat} (hp : p < o.m) (hq : q < o.n) :
    smGet Wide.zero (o.runFace m f).2 (64 * p + q) =
      wideSum (smGet Wide.zero (o.startFace m f (o.anchorSel m (upTo o.m) (upTo o.n))).2 (64 * p + q))
        (dotProducts (o.runFace m f).1 (o.aRow m p) (o.bRow m q)) :=
  smGet_foldl_smSet_of_mem Wide.zero (fun c : Nat × Nat => 64 * c.1 + c.2)
    (fun c w => wideSum w (dotProducts (o.runFace m f).1 (o.aRow m c.1) (o.bRow m c.2))) (faceKeys_nodup o.m hn)
    (List.mem_flatten.mpr ⟨_, List.mem_map_of_mem (List.mem_range.mpr hp), List.mem_map_of_mem (List.mem_range.mpr hq)⟩) _

/-! ## The faces of a tile -/

@[simp] theorem Tile.setFace_arrayDone (x : Tile) (n : Nat) (f : Face) : (x.setFace n f).arrayDone = x.arrayDone := by
  unfold Tile.setFace
  split <;> rfl

@[simp] theorem Tile.setFace_rngCounters (x : Tile) (n : Nat) (f : Face) : (x.setFace n f).rngCounters = x.rngCounters := by
  unfold Tile.setFace
  split <;> rfl

theorem Tile.setFace_arrayQueue (x : Tile) (n : Nat) (f : Face) (q : List ArrayOp) :
    { x with arrayQueue := q }.setFace n f = { x.setFace n f with arrayQueue := q } := by
  unfold Tile.setFace
  split <;> rfl

/-! ## The head of the queue -/

section Head

variable {s : State} {tile : Fin 416} {j : Nat} {op : ArrayOp} {rest : List ArrayOp}

theorem State.arrayReads_of_flips_nil {t : Nat} (h : (s.tile t).flips = []) (im : Image) (op : ArrayOp) :
    s.arrayReads t im op = (true, s) := by
  simp only [State.arrayReads, State.readWords_of_flips_nil h, ite_self]

/-- A head that may run is run. -/
theorem ArrayRuns.exec_arrayExecute (h : ArrayRuns s tile.val j op rest) :
    exec (.arrayExecute tile) s = .next (s.runArray tile.val j op rest) := by
  obtain ⟨hqueue, htile, hpresent, hheld, hflips⟩ := h
  obtain ⟨v, hv, -⟩ := State.job_of_present hpresent
  show execArrayExecute tile s = _
  simp [execArrayExecute, hqueue, htile, hv, hpresent, hheld, State.arrayReads_of_flips_nil hflips]

end Head

section Run

variable {s : State} {t j : Nat} {op : ArrayOp} {rest : List ArrayOp} {x : Tile} {o : Aod}

/-- The face that a product that holds it leaves: the group's accumulators, or free where the group has ended (R73). -/
def Aod.heldFace (o : Aod) (x : Tile) (op : ArrayOp) : Face :=
  if x.owns op.slot op.group then
    ⟨true, op.group, op.slot, (o.runFace x.share (x.face o.face)).1, (o.runFace x.share (x.face o.face)).2⟩
  else Face.free

theorem Aod.heldFace_arrayQueue (o : Aod) (x : Tile) (op : ArrayOp) (q : List ArrayOp) :
    o.heldFace { x with arrayQueue := q } op = o.heldFace x op := rfl

/-- A product that holds its face changes that face and no other part of the tile, and is done. -/
theorem State.runArray_of_hold (hx : { s.tile t with arrayQueue := rest } = x) (ho : Aod.decode op.aod = o)
    (hface : (x.face o.face).refuses o op.slot op.group = false) (hopc : o.opc = 0) (hstat : o.stat = 0) (hhold : o.hold = true) :
    s.runArray t j op rest = s.setTile t { (x.setFace o.face (o.heldFace x op)) with
      arrayDone := x.arrayDone ++ [⟨op.slot, op.group, [], 0, 0, 0⟩] } := by
  have hproduct : o.elementwise = false := by simp [Aod.elementwise, hopc]
  unfold State.runArray
  rw [hx, ho]
  by_cases howns : x.owns op.slot op.group = true
  · simp [hface, hproduct, hstat, hhold, howns, Aod.heldFace]
  · simp [hface, hproduct, hhold, howns, Aod.heldFace]

/-- An operation that drains leaves its writes, flags and exceptions to be made visible, and frees the face it used. -/
theorem State.runArray_of_drain {d : Drain} (hx : { s.tile t with arrayQueue := rest } = x) (ho : Aod.decode op.aod = o)
    (hface : (x.face o.face).refuses o op.slot op.group = false) (hhold : o.hold = false)
    (hdrain : o.drainRows x.share t 0 (o.results x.share
      (if o.elementwise || o.stat != 0 then (0, []) else o.runFace x.share (x.face o.face))) ⟨x.rng, 0, 0, 0, []⟩ = some d) :
    s.runArray t j op rest = s.setTile t { (if o.elementwise then x else x.setFace o.face Face.free) with
      rng := d.rng, rngCounters := x.rngCounters.add 0x100 d.taken
      arrayDone := x.arrayDone ++ [⟨op.slot, op.group, d.writes, d.flags, d.exc, 0⟩] } := by
  have hproducts : (if !o.elementwise && decide (o.stat = 0) then o.runFace x.share (x.face o.face) else (0, [])) =
      if o.elementwise || o.stat != 0 then (0, []) else o.runFace x.share (x.face o.face) := by
    by_cases he : o.elementwise = true <;> by_cases hs : o.stat = 0 <;> simp [he, hs]
  unfold State.runArray
  rw [hx, ho]
  simp only [hface, hhold, hproducts, hdrain]
  by_cases he : o.elementwise = true
  · simp [he]
  · simp [he]

theorem State.runArray_of_refuses (hx : { s.tile t with arrayQueue := rest } = x) (ho : Aod.decode op.aod = o)
    (hface : (x.face o.face).refuses o op.slot op.group = true) :
    s.runArray t j op rest = (s.setTile t x).tileFault t j (op.site t) 0x22 op.word.toNat op.base := by
  unfold State.runArray
  rw [hx, ho]
  exact if_pos hface

end Run

/-! ## Byte writes -/

theorem smFilter_eq_filter {α : Type} (p : Nat → α → Bool) (m : SMap α) : smFilter p m = m.filter fun e => p e.1 e.2 := by
  induction m with
  | nil => rfl
  | cons e m ih => simp only [smFilter, List.filter_cons, ih]

theorem Memory.read_applyWrites_of_ne (m : Memory) {ws : List (Nat × Byte)} {a : Nat} (h : ∀ w ∈ ws, w.1 ≠ a) :
    (m.applyWrites ws).read a = m.read a := by
  induction ws generalizing m with
  | nil => rfl
  | cons w ws ih =>
    obtain ⟨hw, hws⟩ := List.forall_mem_cons.mp h
    exact (ih (m.write w.1 w.2) hws).trans ((m.read_write w.1 a w.2).trans (if_neg hw.symm))

/-- The last write to an address decides its byte. -/
theorem Memory.read_applyWrites_of_last (m : Memory) {ws : List (Nat × Byte)} {k : Nat} {p : Nat × Byte} (hk : ws[k]? = some p)
    (hlast : ∀ (n : Nat) (q : Nat × Byte), k < n → ws[n]? = some q → q.1 ≠ p.1) : (m.applyWrites ws).read p.1 = p.2 := by
  induction ws generalizing m k with
  | nil => cases hk
  | cons w ws ih =>
    cases k with
    | zero =>
      obtain rfl : w = p := Option.some.inj hk
      have hws : ∀ q ∈ ws, q.1 ≠ w.1 := fun q hq => by
        obtain ⟨n, hn⟩ := List.mem_iff_getElem?.mp hq
        exact hlast (n + 1) q n.succ_pos hn
      exact (Memory.read_applyWrites_of_ne (m.write w.1 w.2) hws).trans (m.read_write_self w.1 w.2)
    | succ k => exact ih (m.write w.1 w.2) hk fun n q hn => hlast (n + 1) q (Nat.succ_lt_succ hn)

/-! ## The end of the oldest operation (R83) -/

/-- The tile in which the oldest operation's results are visible: its writes are in the share, and in words that hold no
error. -/
def Tile.afterArray (x : Tile) (e : ArrayDone) (rest : List ArrayDone) : Tile :=
  { x with
    arrayDone := rest, share := x.share.applyWrites e.writes, counters := x.counters.add 0x120 1
    flips := x.flips.filter fun f => !e.writes.any fun w => inShare w.1 1 f.1 }

/-- The group of an operation that ends. -/
def Group.afterArray (g : Group) (e : ArrayDone) : Group :=
  { g with cstat := g.cstat ||| e.exceptions, aflags := g.aflags ||| e.flags, aout := g.aout - 1 }

theorem exec_arrayOpComplete {s : State} {tile : Fin 416} {j : Nat} {e : ArrayDone} {rest : List ArrayDone} {g : Group}
    (hdone : (s.tile tile.val).arrayDone = e :: rest) (hjob : s.tileJob tile.val = some j) (hpresent : s.present j = true)
    (hg : smFind (s.tile tile.val).groups e.slot = some g) (hid : g.id = e.group) :
    exec (.arrayOpComplete tile) s =
      .next ((s.setTile tile.val ((s.tile tile.val).afterArray e rest)).setGroup tile.val e.slot (g.afterArray e)) := by
  show execArrayOpComplete tile s = _
  simp only [execArrayOpComplete, hdone, hjob, hpresent, hg, hid, beq_self_eq_true, if_true, Tile.written, smFilter_eq_filter]
  rfl

/-! ## The statements -/

theorem arrayProductHeld : ArrayProductHeld := by
  intro s tile j op rest x o f hruns hface hopc hstat hhold hn
  have hrun := hruns.exec_arrayExecute.trans (congrArg Host.Outcome.next (State.runArray_of_hold rfl rfl hface hopc hstat hhold))
  rw [Tile.setFace_arrayQueue, Aod.heldFace_arrayQueue] at hrun
  refine ⟨fun howns => ?_, fun howns => ?_⟩
  · rw [Aod.heldFace, if_neg (ne_true_of_eq_false howns)] at hrun
    exact hrun
  · rw [Aod.heldFace, if_pos howns] at hrun
    obtain ⟨hframe, hothers, htile⟩ := TileOnly.setTile s tile.val _
    exact ⟨_, _, hrun, hframe, hothers, htile, rfl, rfl, rfl, o.runFace_anchor x.share f,
      fun p q hp hq => o.runFace_acc x.share f hn hp hq⟩

theorem arrayOperationDrains : ArrayOperationDrains := by
  intro s tile j op rest d x o f hruns
  refine ⟨fun hface hhold hdrain => ?_, fun hface => ?_⟩
  · have hrun := hruns.exec_arrayExecute.trans (congrArg Host.Outcome.next (State.runArray_of_drain rfl rfl hface hhold hdrain))
    obtain ⟨hframe, hothers, htile⟩ := TileOnly.setTile s tile.val _
    refine ⟨_, hrun, hframe, hothers, htile.trans ?_⟩
    rw [Tile.setFace_arrayQueue]
    split <;> rfl
  · have hrun := hruns.exec_arrayExecute.trans (congrArg Host.Outcome.next (State.runArray_of_refuses rfl rfl hface))
    obtain ⟨-, -, hpresent, -, -⟩ := hruns
    obtain ⟨v, hjob, hended⟩ := State.job_of_present hpresent
    rw [State.tileFault, State.jobFault_of_not_ended (s := s.setTile tile.val _) hjob hended] at hrun
    refine ⟨_, _, hrun, State.setJob_job_self (s.setTile tile.val _) j _, ⟨_, rfl, rfl, rfl⟩, ?_⟩
    rw [State.cntTile_tile_self, State.setJob_tile, State.setTile_tile_self]

theorem arrayResultsVisible : ArrayResultsVisible := by
  intro s tile j e rest g x hdone hjob hpresent hg hid
  obtain ⟨hframe, hothers, htile⟩ := (TileOnly.setTile s tile.val (x.afterArray e rest)).updTile fun y =>
    { y with groups := smPut y.groups e.slot (g.afterArray e) }
  exact ⟨_, _, _, exec_arrayOpComplete hdone hjob hpresent hg hid, hframe, hothers, htile, rfl,
    fun a ha => Memory.read_applyWrites_of_ne x.share ha, fun k p hk hlast => Memory.read_applyWrites_of_last x.share hk hlast⟩

/-- Settles O18: a head that holds its face, one that drains or is refused, and the end of the oldest operation. -/
theorem arrayOperationRuns : Obligations.ArrayOperationRuns := ⟨arrayProductHeld, arrayOperationDrains, arrayResultsVisible⟩

end Sys2Proof.Machine
